-- ==== Sys2Proof/Word.lean ====
section
/-! DEFINITION. The word types of the machine, with no operation on them: bits are numbered as R3 numbers them, and multi-byte
values are little-endian (R4), which the operations under Machine/ decide once. -/

namespace Sys2Proof

/-- One byte. -/
abbrev Byte := BitVec 8

/-- An instruction word (R90). -/
abbrev Word := BitVec 32

/-- A scalar register, an address or an 8-byte word of memory (R6). -/
abbrev Dword := BitVec 64

/-- A vector register or result-queue row: lane i is bits 32i+31:32i (R159). -/
abbrev Vec := BitVec 2048

/-- The elements of a tile register: element (row, column) is the 16-bit field number 64·row + column (R212). -/
abbrev TileBits := BitVec 65536

/-- The elements of an accumulator: element (row, column) is the 32-bit field number 64·row + column (R215). -/
abbrev AccBits := BitVec 131072

/-- A sparse table from numbers to values: pairs with rising keys; a key that is not listed holds the table's default. -/
abbrev Table (α : Type) := List (Nat × α)

end Sys2Proof
end

