-- ==== Sys2Proof/Machine/Map.lean ====
section
/-! DEFINITION. The operations on sparse tables (Table of Word.lean): look up, insert in key order, remove, and the write that keeps
a table canonical by leaving out entries equal to the default. -/

namespace Sys2Proof

/-- The entry of key k, if listed. -/
def tfind {α : Type} (k : Nat) : Table α → Option α
  | [] => none
  | (j, v) :: r => if j = k then some v else tfind k r

/-- The value of key k; an unlisted key holds d. -/
def tget {α : Type} (d : α) (t : Table α) (k : Nat) : α := (tfind k t).getD d

/-- The table without key k. -/
def tdel {α : Type} (k : Nat) : Table α → Table α
  | [] => []
  | (j, v) :: r => if j = k then tdel k r else (j, v) :: tdel k r

/-- The table with key k holding v, listed in key order. -/
def tput {α : Type} (k : Nat) (v : α) : Table α → Table α
  | [] => [(k, v)]
  | (j, w) :: r => if k < j then (k, v) :: (j, w) :: r else if j = k then (k, v) :: r else (j, w) :: tput k v r

/-- The canonical write: a value equal to the default is left out. -/
def tset {α : Type} [DecidableEq α] (d : α) (t : Table α) (k : Nat) (v : α) : Table α :=
  if v = d then tdel k t else tput k v t

/-- The table with the value of key k changed by f. -/
def tmod {α : Type} (d : α) (t : Table α) (k : Nat) (f : α → α) : Table α := tput k (f (tget d t k)) t

/-- Every key of a list is above b and the keys rise. -/
def risingFrom {α : Type} : Nat → Table α → Bool
  | _, [] => true
  | b, (j, _) :: r => decide (b ≤ j) && risingFrom (j + 1) r

/-- The canonical form of a table with default d: keys strictly rising, no entry equal to the default. -/
def tcanon {α : Type} [DecidableEq α] (d : α) (t : Table α) : Bool :=
  risingFrom 0 t && t.all (fun e => decide (e.2 ≠ d))

/-- The numbers lo, lo + 1, … (n of them). -/
def span : Nat → Nat → List Nat
  | _, 0 => []
  | lo, n + 1 => lo :: span (lo + 1) n

/-- The first n numbers. -/
def upto (n : Nat) : List Nat := span 0 n

/-- The first element that satisfies p, with its place. -/
def findIdx {α : Type} (p : α → Bool) : List α → Nat → Option (Nat × α)
  | [], _ => none
  | x :: r, i => if p x then some (i, x) else findIdx p r (i + 1)

/-- A list without its element at place i. -/
def removeAt {α : Type} : List α → Nat → List α
  | [], _ => []
  | _ :: r, 0 => r
  | x :: r, n + 1 => x :: removeAt r n

/-- A list with its element at place i changed by f. -/
def modifyAt {α : Type} (f : α → α) : List α → Nat → List α
  | [], _ => []
  | x :: r, 0 => f x :: r
  | x :: r, n + 1 => x :: modifyAt f r n

/-- Insertion of x before the first element that is not below it; equal elements keep their order. -/
def insertBy {α : Type} (lt : α → α → Bool) (x : α) : List α → List α
  | [] => [x]
  | y :: r => if lt y x then y :: insertBy lt x r else x :: y :: r

/-- Stable insertion sort. -/
def sortBy {α : Type} (lt : α → α → Bool) : List α → List α
  | [] => []
  | x :: r => insertBy lt x (sortBy lt r)

end Sys2Proof
end

