-- ==== Sys2Proof/Machine/Crypto.lean ====
section
/-! DEFINITION. The functions of the second tier's encryption (R337): AES-256, its counter mode and GMAC, from their public standards, and
SHA-256, with which the part measures (R392, R395), and the hash-based signatures of RFC 8554 (R392 to R394). -/

namespace Sys2Proof

/-! ### AES-256 -/

/-- Multiplication by x in the field of AES. -/
def aesX (b : Byte) : Byte := (b <<< 1) ^^^ (if b.getLsbD 7 then 0x1B else 0)

/-- The product of two field elements, by the low n bits of the second. -/
def aesMul : Nat → Byte → Byte → Byte
  | 0, _, _ => 0
  | n + 1, a, b => (if b.getLsbD 0 then a else 0) ^^^ aesMul n (aesX a) (b >>> 1)

/-- The inverse of a field element, its power 254; 0 for 0. -/
def aesInv (a : Byte) : Byte :=
  let m := aesMul 8
  let a2 := m a a
  let a3 := m a2 a
  let a12 := m (m a3 a3) (m a3 a3)
  let a15 := m a12 a3
  let a60 := m (m a15 a15) (m a15 a15)
  let a63 := m a60 a3
  let a126 := m a63 a63
  m (m a126 a) (m a126 a)

/-- The substitution box. -/
def aesSub (b : Byte) : Byte :=
  let x := aesInv b
  x ^^^ x.rotateLeft 1 ^^^ x.rotateLeft 2 ^^^ x.rotateLeft 3 ^^^ x.rotateLeft 4 ^^^ 0x63

def xorBytes (a b : List Byte) : List Byte := (a.zip b).map (fun e => e.1 ^^^ e.2)

/-- The words that follow the last eight words of a key schedule, newest first; i is the next word's place, rc the round constant. -/
def aesExpand : Nat → Nat → Byte → List (List Byte) → List (List Byte)
  | 0, _, _, ws => ws
  | n + 1, i, rc, ws =>
    let t := ws.headD []
    let t' :=
      if i % 8 = 0 then xorBytes ((t.drop 1 ++ t.take 1).map aesSub) [rc, 0, 0, 0]
      else if i % 8 = 4 then t.map aesSub
      else t
    aesExpand n (i + 1) (if i % 8 = 0 then aesX rc else rc) (xorBytes (ws.getD 7 []) t' :: ws)

/-- Groups of n elements, m of them. -/
def groupsOf {α : Type} (n : Nat) : Nat → List α → List (List α)
  | 0, _ => []
  | m + 1, l => l.take n :: groupsOf n m (l.drop n)

/-- The fifteen round keys of a key of 32 bytes. -/
def aesKeys (key : List Byte) : List (List Byte) :=
  groupsOf 16 15 ((aesExpand 52 8 1 (groupsOf 4 8 key).reverse).reverse.flatten)

/-- The bytes of a block after the rows are shifted; byte r + 4·c is row r of column c. -/
def aesShift (b : List Byte) : List Byte := (upto 16).map (fun i => b.getD (i % 4 + 4 * ((i / 4 + i % 4) % 4)) 0)

/-- One column mixed. -/
def aesMix (c : List Byte) : List Byte :=
  (upto 4).map (fun i =>
    let x (k : Nat) : Byte := c.getD ((i + k) % 4) 0
    aesX (x 0) ^^^ aesX (x 1) ^^^ x 1 ^^^ x 2 ^^^ x 3)

/-- The rounds of a cipher under the round keys that are left; the last has no column mixing. -/
def aesRounds : List (List Byte) → List Byte → List Byte
  | [], b => b
  | [k], b => xorBytes (aesShift (b.map aesSub)) k
  | k :: r, b => aesRounds r (xorBytes ((groupsOf 4 4 (aesShift (b.map aesSub))).flatMap aesMix) k)

/-- The cipher of one block of 16 bytes. -/
def aesBlock (keys : List (List Byte)) (b : List Byte) : List Byte := aesRounds keys.tail (xorBytes b (keys.headD []))

/-- The big-endian bytes of a number, n of them. -/
def beBytes (v : Nat) (n : Nat) : List Byte := (upto n).map (fun i => BitVec.ofNat 8 (v / 256 ^ (n - 1 - i)))

/-- The number whose big-endian bytes a list holds. -/
def ofBe (l : List Byte) : Nat := l.foldl (fun acc b => 256 * acc + b.toNat) 0

/-- Counter mode: block i is the first 12 bytes of the counter, then i. -/
def aesCtr (keys : List (List Byte)) (iv : List Byte) (l : List Byte) : List Byte :=
  ((groupsOf 16 ((l.length + 15) / 16) l).zip (upto ((l.length + 15) / 16))).flatMap (fun e =>
    xorBytes e.1 (aesBlock keys (iv ++ beBytes e.2 4)))

/-! ### GMAC -/

/-- The product in the field of GCM; n bits of x are left, from its first bit on. -/
def gcmMul : Nat → BitVec 128 → BitVec 128 → BitVec 128
  | 0, _, _ => 0
  | n + 1, x, v =>
    (if x.getLsbD n then v else 0) ^^^ gcmMul n x ((v >>> 1) ^^^ (if v.getLsbD 0 then (0xE1 : BitVec 128) <<< 120 else 0))

/-- The tag of GMAC over a message, under a key and an IV of 12 bytes. -/
def gmac (keys : List (List Byte)) (iv msg : List Byte) : BitVec 128 :=
  let h := BitVec.ofNat 128 (ofBe (aesBlock keys (List.replicate 16 0)))
  let blocks := (groupsOf 16 ((msg.length + 15) / 16) msg).map (fun b => ofBe (b ++ List.replicate (16 - b.length) 0))
  let y := (blocks ++ [8 * msg.length * 2 ^ 64]).foldl (fun y b => gcmMul 128 (y ^^^ BitVec.ofNat 128 b) h) 0
  y ^^^ BitVec.ofNat 128 (ofBe (aesBlock keys (iv ++ [0, 0, 0, 1])))

/-! ### SHA-256 -/

/-- The round constants and the initial value. -/
def shaK : List (BitVec 32) :=
    [0x428A2F98, 0x71374491, 0xB5C0FBCF, 0xE9B5DBA5, 0x3956C25B, 0x59F111F1, 0x923F82A4, 0xAB1C5ED5] ++
    [0xD807AA98, 0x12835B01, 0x243185BE, 0x550C7DC3, 0x72BE5D74, 0x80DEB1FE, 0x9BDC06A7, 0xC19BF174] ++
    [0xE49B69C1, 0xEFBE4786, 0x0FC19DC6, 0x240CA1CC, 0x2DE92C6F, 0x4A7484AA, 0x5CB0A9DC, 0x76F988DA] ++
    [0x983E5152, 0xA831C66D, 0xB00327C8, 0xBF597FC7, 0xC6E00BF3, 0xD5A79147, 0x06CA6351, 0x14292967] ++
    [0x27B70A85, 0x2E1B2138, 0x4D2C6DFC, 0x53380D13, 0x650A7354, 0x766A0ABB, 0x81C2C92E, 0x92722C85] ++
    [0xA2BFE8A1, 0xA81A664B, 0xC24B8B70, 0xC76C51A3, 0xD192E819, 0xD6990624, 0xF40E3585, 0x106AA070] ++
    [0x19A4C116, 0x1E376C08, 0x2748774C, 0x34B0BCB5, 0x391C0CB3, 0x4ED8AA4A, 0x5B9CCA4F, 0x682E6FF3] ++
    [0x748F82EE, 0x78A5636F, 0x84C87814, 0x8CC70208, 0x90BEFFFA, 0xA4506CEB, 0xBEF9A3F7, 0xC67178F2]

def shaInit : List (BitVec 32) := [0x6A09E667, 0xBB67AE85, 0x3C6EF372, 0xA54FF53A, 0x510E527F, 0x9B05688C, 0x1F83D9AB, 0x5BE0CD19]

/-- The message schedule, newest word first. -/
def shaExpand : Nat → List (BitVec 32) → List (BitVec 32)
  | 0, w => w
  | n + 1, w =>
    let x (k : Nat) : BitVec 32 := w.getD (k - 1) 0
    let s0 := (x 15).rotateRight 7 ^^^ (x 15).rotateRight 18 ^^^ (x 15 >>> 3)
    let s1 := (x 2).rotateRight 17 ^^^ (x 2).rotateRight 19 ^^^ (x 2 >>> 10)
    shaExpand n ((x 16 + s0 + x 7 + s1) :: w)

/-- One round: constant plus schedule word, and the eight working variables. -/
def shaRound (v : List (BitVec 32)) (kw : BitVec 32) : List (BitVec 32) :=
  let x (k : Nat) : BitVec 32 := v.getD k 0
  let (a, e) := (x 0, x 4)
  let t1 := x 7 + (e.rotateRight 6 ^^^ e.rotateRight 11 ^^^ e.rotateRight 25) + ((e &&& x 5) ^^^ (~~~e &&& x 6)) + kw
  let t2 := (a.rotateRight 2 ^^^ a.rotateRight 13 ^^^ a.rotateRight 22) + ((a &&& x 1) ^^^ (a &&& x 2) ^^^ (x 1 &&& x 2))
  [t1 + t2, a, x 1, x 2, x 3 + t1, e, x 5, x 6]

/-- The value after one block of 64 bytes. -/
def shaBlock (h : List (BitVec 32)) (b : List Byte) : List (BitVec 32) :=
  let w := (shaExpand 48 ((groupsOf 4 16 b).map (fun x => BitVec.ofNat 32 (ofBe x))).reverse).reverse
  let v := ((shaK.zip w).map (fun e => e.1 + e.2)).foldl shaRound h
  (h.zip v).map (fun e => e.1 + e.2)

/-- SHA-256 of a message: 32 bytes. -/
def sha256 (msg : List Byte) : List Byte :=
  let n := msg.length
  let padded := msg ++ 0x80 :: (List.replicate ((119 - n % 64) % 64) 0 ++ beBytes (8 * n) 8)
  ((groupsOf 64 (padded.length / 64) padded).foldl shaBlock shaInit).flatMap (fun w => beBytes w.toNat 4)

/-! ### Hash-based signatures

RFC 8554 over SHA-256: one-time signatures LMOTS_SHA256_N32_W8 (type 4), trees LMS_SHA256_M32_H15 (type 7) and H20 (type 8), and HSS of two
levels. A node is held as the number that its 32 bytes say. -/

/-- A node of 32 bytes. -/
abbrev Node := BitVec 256

/-- The node that a message hashes to. -/
def hashNode (msg : List Byte) : Node := BitVec.ofNat 256 (ofBe (sha256 msg))

/-- The bytes of a node. -/
def nodeBytes (x : Node) : List Byte := beBytes x.toNat 32

/-- What begins the hashes of a tree: its identifier, a number and a place or a domain. -/
def lmsPrefix (id : BitVec 128) (q d : Nat) : List Byte := beBytes id.toNat 16 ++ beBytes q 4 ++ beBytes d 2

/-- The 34 digits, of a byte each, that a one-time signature of a hash signs: the hash and its checksum. -/
def otsDigits (q : List Byte) : List Nat :=
  let d := q.map (fun b => b.toNat)
  let sum := d.foldl (fun acc x => acc + (255 - x)) 0
  d ++ [sum / 256 % 256, sum % 256]

/-- n links of the chain of place i of leaf q, from link j on. -/
def otsChain (id : BitVec 128) (q i : Nat) : Nat → Nat → Node → Node
  | 0, _, x => x
  | n + 1, j, x => otsChain id q i n (j + 1) (hashNode (lmsPrefix id q i ++ beBytes j 1 ++ nodeBytes x))

/-- The start of a chain, made from a seed as RFC 8554 makes it (its Appendix A). -/
def otsStart (id : BitVec 128) (seed : Node) (q i : Nat) : Node := hashNode (lmsPrefix id q i ++ [0xFF] ++ nodeBytes seed)

/-- The hash that a one-time signature signs. -/
def otsHash (id : BitVec 128) (q : Nat) (c msg : List Byte) : List Byte := sha256 (lmsPrefix id q 0x8181 ++ c ++ msg)

/-- The one-time public key that the ends of its chains make. -/
def otsKey (id : BitVec 128) (q : Nat) (ends : List Node) : Node := hashNode (lmsPrefix id q 0x8080 ++ ends.flatMap nodeBytes)

/-- The node of a leaf, whose number among the nodes is r. -/
def lmsLeaf (id : BitVec 128) (r : Nat) (key : Node) : Node := hashNode (lmsPrefix id r 0x8282 ++ nodeBytes key)

/-- The node above two nodes. -/
def lmsJoin (id : BitVec 128) (r : Nat) (a b : Node) : Node := hashNode (lmsPrefix id r 0x8383 ++ nodeBytes a ++ nodeBytes b)

/-- Node r of a tree of height h, k levels above the leaves. -/
def lmsNode (id : BitVec 128) (seed : Node) (h : Nat) : Nat → Nat → Node
  | 0, r => lmsLeaf id r (otsKey id (r - 2 ^ h) ((upto 34).map (fun i => otsChain id (r - 2 ^ h) i 255 0 (otsStart id seed (r - 2 ^ h) i))))
  | k + 1, r => lmsJoin id r (lmsNode id seed h k (2 * r)) (lmsNode id seed h k (2 * r + 1))

/-- The public key of a tree. -/
def lmsPublic (id : BitVec 128) (seed : Node) (h typ : Nat) : List Byte :=
  beBytes typ 4 ++ beBytes 4 4 ++ beBytes id.toNat 16 ++ nodeBytes (lmsNode id seed h h 1)

/-- The signature of a message by leaf q of a tree, with randomizer c. -/
def lmsSign (id : BitVec 128) (seed : Node) (h typ q : Nat) (c : Node) (msg : List Byte) : List Byte :=
  let digits := otsDigits (otsHash id q (nodeBytes c) msg)
  beBytes q 4 ++ beBytes 4 4 ++ nodeBytes c ++
    (upto 34).flatMap (fun i => nodeBytes (otsChain id q i (digits.getD i 0) 0 (otsStart id seed q i))) ++
    beBytes typ 4 ++ (upto h).flatMap (fun k => nodeBytes (lmsNode id seed h k (((2 ^ h + q) / 2 ^ k) ^^^ 1)))

/-- The root above a node, by the nodes of its path. -/
def lmsRoot (id : BitVec 128) : Nat → Node → List Node → Node
  | _, x, [] => x
  | r, x, y :: l => lmsRoot id (r / 2) (if r % 2 = 1 then lmsJoin id (r / 2) y x else lmsJoin id (r / 2) x y) l

/-- Whether a signature of LMS_SHA256_M32_H15 with LMOTS_SHA256_N32_W8 verifies over a message, under a public key. -/
def lmsVerify (key msg sig : List Byte) : Bool :=
  let word (l : List Byte) (a n : Nat) : Nat := ofBe ((l.drop a).take n)
  let nodes (a n : Nat) : List Node := (upto n).map (fun i => BitVec.ofNat 256 (word sig (a + 32 * i) 32))
  let id := BitVec.ofNat 128 (word key 8 16)
  let q := word sig 0 4
  let digits := otsDigits (otsHash id q ((sig.drop 8).take 32) msg)
  let ends := ((nodes 40 34).zip (upto 34)).map (fun e => otsChain id q e.2 (255 - digits.getD e.2 0) (digits.getD e.2 0) e.1)
  decide (key.length = 56 ∧ word key 0 4 = 7 ∧ word key 4 4 = 4 ∧ sig.length = 1612 ∧ word sig 4 4 = 4 ∧ word sig 1128 4 = 7 ∧ q < 2 ^ 15) &&
    lmsRoot id (2 ^ 15 + q) (lmsLeaf id (2 ^ 15 + q) (otsKey id q ends)) (nodes 1132 15) == BitVec.ofNat 256 (word key 24 32)

end Sys2Proof
end

