-- ==== Sys2Proof/Config.lean ====
section
/-! DEFINITION. What the spec leaves to each device: free values. They have no body, so that nothing can be proved of their values; the
counter State.freeCtr makes each use of a fresh one differ. -/

namespace Sys2Proof

/-- A byte that the spec calls unspecified: the work buffer of a collective under .fast (R364). -/
opaque Config.freeByte : Nat → Byte

/-- Whether a byte of a flume piece that failed holds its new value (R350). -/
opaque Config.newByte : Nat → Bool

/-- The private seed and the identifier of the top tree, from the fused secret that no agent can read (R393). -/
opaque Config.topSeed : BitVec 256
opaque Config.topId : BitVec 128

/-- The random seed and identifier of a boot epoch's bottom tree (R393). -/
opaque Config.bottomSeed : Nat → BitVec 256
opaque Config.bottomId : Nat → BitVec 128

/-- The randomizers C of the one-time signatures: of the top tree's for an epoch, of the bottom tree's for an epoch and a quote (R394). -/
opaque Config.topRandom : Nat → BitVec 256
opaque Config.quoteRandom : Nat → Nat → BitVec 256

/-- VF0's configuration record (R394, R395), which the firmware makes. -/
opaque Config.ownRecord : List Byte

/-- The public key, the signature, the version and the body of a firmware image (R392): the layout of an image is not in the spec. -/
opaque Config.imageKey : List Byte → List Byte
opaque Config.imageSignature : List Byte → List Byte
opaque Config.imageVersion : List Byte → Nat
opaque Config.imageBody : List Byte → List Byte

/-- The status that the boot ROM writes for an image that it does not accept; nonzero (R392), so it is one more than this. -/
opaque Config.imageStatus : List Byte → Nat

/-- The image whose firmware runs at the end of the device reset from which State.reset starts (R392, R395). -/
opaque Config.bootImage : List Byte

/-- The configuration that the firmware measures into M1 (R395). -/
opaque Config.firmware : List Byte

/-- The rate that DCQCN sets after a congestion notification (R389), in parts of 2^16 of the full rate. -/
opaque Config.loweredRate : Nat → Nat

end Sys2Proof
end

