-- ==== Sys2Proof/Syntax.lean ====
section
/-! DEFINITION. The syntax of the machine: one constructor of Instr for every row of spec/opcode_table.json.
182 constructors are instruction words (R105); their arguments are the operand fields of R96 and R97, high bit first, under
the field names of the table. 116 constructors are the steps that have no encoding (events: arrivals, completions, scheduler,
management and host steps); their arguments name the agent or the pending operation that the step concerns. -/

namespace Sys2Proof

/-- The guard fields of a word (R92): w.gn and w.greg. -/
structure Guard where
  neg : Bool
  reg : BitVec 3
  deriving DecidableEq, Repr

/-- A place of the pod (R359): package coordinates, VF and cell. -/
structure Place where
  x : BitVec 4
  y : BitVec 4
  z : BitVec 4
  vf : BitVec 7
  cell : BitVec 7
  deriving DecidableEq, Repr

/-- What a torus packet carries (R358, R362, R363). -/
inductive PacketBody where
  /-- a piece of an f.ring: landing handle, offset, data, and the barrier to account to (R362) -/
  | ring (land : BitVec 32) (off : Nat) (data : List (BitVec 8)) (acc : Option (BitVec 32 × Nat))
  /-- one piece of a rank's data of a step of a collective: the sender's descriptor header, step, source rank, place of the piece and
  payload (R358, R363, R364) -/
  | coll (hdr : List Nat) (tag : BitVec 32) (step src piece : Nat) (payload : List Nat)
  /-- the answer to a packet that this package has sent: none, or the code of a NAK (R360, R362, R367) -/
  | answer (code : Option (BitVec 8))
  deriving DecidableEq, Repr

/-- A packet that reaches this package over the torus or from its own die routers (R360); its number is the sender's for the operation
that sent it, and the answer to it carries the same. -/
structure Packet where
  src : Place
  dst : Place
  id : Nat
  body : PacketBody
  deriving DecidableEq, Repr

/-- Where an uncorrectable error strikes (R187, R214, R387, R432). -/
inductive ErrPlace where
  /-- an 8-byte word of device memory, by physical word number -/
  | device (word : Nat)
  /-- an 8-byte word of a cell's scratchpad -/
  | scratch (cell word : Nat)
  /-- an 8-byte word of a bulkhead's landings -/
  | landing (bh word : Nat)
  /-- a tile register -/
  | tile (cell t : Nat)
  /-- an accumulator, or its deckle register -/
  | acc (cell k : Nat)
  /-- a deckle register -/
  | deckle (cell k : Nat)
  deriving DecidableEq, Repr

/-- Every step of the part (spec/opcode_table.json). -/
inductive Instr where
  -- B engine, control (R105, w.eng = 0)
  /-- B_NOP (R119): Does nothing in the B engine. -/
  | bNop (g : Guard)
  /-- B_JMP (R119): Transfers control to address + 4·offset. -/
  | bJmp (g : Guard) (i : BitVec 18)
  /-- B_JMPR (R119): Transfers control to the VA held in a scalar register. -/
  | bJmpr (g : Guard) (a : BitVec 6)
  /-- B_CALL (R119): Calls address + 4·offset and writes the link to s63. -/
  | bCall (g : Guard) (i : BitVec 18)
  /-- B_CALLR (R119): Calls the VA in a scalar register and writes the link to s63. -/
  | bCallr (g : Guard) (a : BitVec 6)
  /-- B_RET (R119): Returns to the address held in s63. -/
  | bRet (g : Guard)
  /-- B_LOOP (R122): Starts a hardware loop on a loop counter with a trip count and stage count. -/
  | bLoop (g : Guard) (s : BitVec 3) (k : BitVec 2) (a i : BitVec 6)
  /-- B_LBRK (R125): Ends loop K and the loops nested in it, and resumes after its body. -/
  | bLbrk (g : Guard) (k : BitVec 2)
  /-- B_HALT (R128): Waits for the strand's earlier words, discards its queues and completes its item. -/
  | bHalt (g : Guard)
  /-- B_YIELD (R129): Makes the strand last in fetch order and acts as a pre-emption point. -/
  | bYield (g : Guard)
  /-- B_SLEEP (R131): Holds B for a register-given number of cycles with fetch stopped. -/
  | bSleep (g : Guard) (a : BitVec 6)
  /-- B_ARM (R133): Makes the context dormant, armed as a message handler at a handler address. -/
  | bArm (g : Guard) (i : BitVec 18)
  /-- B_MSG (R134): Sends up to eight payload words as an active message to a handler in a cell of the VF. -/
  | bMsg (g : Guard) (d a : BitVec 6) (c : BitVec 4)
  /-- B_TRAP (R136): Raises SWTRAP with an 18-bit code. -/
  | bTrap (g : Guard) (i : BitVec 18)
  /-- B_SYS (R136): Raises SYS with an 18-bit code. -/
  | bSys (g : Guard) (i : BitVec 18)
  /-- B_RFE (R404): Restores the trap frame, clears the handler flag, replays slots and resumes the saved queues. -/
  | bRfe (g : Guard)
  /-- B_FMT (R138): Sets sr.ftb and selects the loop counter that .ft words add to it. -/
  | bFmt (g : Guard) (k : BitVec 2) (b : BitVec 6)
  /-- B_PPT (R130): Pre-emption point: stops the strand for a pending switch request. -/
  | bPpt (g : Guard)
  /-- B_POST (R281): Hands a tile-task record VA to the scheduler and captures sr.srkey. -/
  | bPost (g : Guard) (a : BitVec 6)
  /-- B_TDEC (R281): Sends one decrement to a task's dependency counter. -/
  | bTdec (g : Guard) (a : BitVec 6)
  /-- B_CANCEL (R281): Sends a cancellation of a branch and its subtree to the scheduler. -/
  | bCancel (g : Guard) (a b : BitVec 6)
  /-- B_CANCEL_L (R141): Sends a cancellation of the strand's item group at a level to the launch unit. -/
  | bCancelL (g : Guard) (a b : BitVec 6)
  /-- B_LAUNCH (R139): Sends a launch-header VA to the launch unit for a device-side launch. -/
  | bLaunch (g : Guard) (a : BitVec 6)
  /-- B_WAIT (R298): Joins a semaphore's FIFO with a count and holds the strand until the grant lands. -/
  | bWait (g : Guard) (d : BitVec 6) (v : BitVec 8)
  /-- B_SIG (R298): Releases at pkg and signals a semaphore with a count. -/
  | bSig (g : Guard) (d : BitVec 6) (v : BitVec 8)
  /-- B_SMAP (R300): VF0 changes or moves one entry of the selected VF's semaphore map. -/
  | bSmap (g : Guard) (a b : BitVec 6)
  -- S engine, scalar (w.eng = 1)
  /-- S_ADD (R146): Adds two scalars modulo 2^64. -/
  | sAdd (g : Guard) (d a b : BitVec 6)
  /-- S_SUB (R146): Subtracts two scalars modulo 2^64. -/
  | sSub (g : Guard) (d a b : BitVec 6)
  /-- S_ADDI (R146): Adds a signed immediate to a scalar. -/
  | sAddi (g : Guard) (d a i : BitVec 6)
  /-- S_MUL (R146): Writes the low 64 bits of a product. -/
  | sMul (g : Guard) (d a b : BitVec 6)
  /-- S_MULH (R146): Writes the high 64 bits of a signed product. -/
  | sMulh (g : Guard) (d a b : BitVec 6)
  /-- S_MULHN (R146): Writes the high 64 bits of an unsigned product. -/
  | sMulhn (g : Guard) (d a b : BitVec 6)
  /-- S_DIV (R147): Signed division truncating toward zero, never faulting. -/
  | sDiv (g : Guard) (d a b : BitVec 6)
  /-- S_DIVN (R147): Unsigned division, never faulting. -/
  | sDivn (g : Guard) (d a b : BitVec 6)
  /-- S_REM (R147): Signed remainder with the sign of the dividend. -/
  | sRem (g : Guard) (d a b : BitVec 6)
  /-- S_REMN (R147): Unsigned remainder. -/
  | sRemn (g : Guard) (d a b : BitVec 6)
  /-- S_AND (R146): Bitwise AND of two scalars. -/
  | sAnd (g : Guard) (d a b : BitVec 6)
  /-- S_OR (R146): Bitwise OR of two scalars. -/
  | sOr (g : Guard) (d a b : BitVec 6)
  /-- S_XOR (R146): Bitwise XOR of two scalars. -/
  | sXor (g : Guard) (d a b : BitVec 6)
  /-- S_ANDN (R146): Bitwise AND with the complement of the second scalar. -/
  | sAndn (g : Guard) (d a b : BitVec 6)
  /-- S_SHL (R148): Shifts left by a register count. -/
  | sShl (g : Guard) (d a b : BitVec 6)
  /-- S_SHR (R148): Logical right shift by a register count. -/
  | sShr (g : Guard) (d a b : BitVec 6)
  /-- S_SRA (R148): Arithmetic right shift by a register count. -/
  | sSra (g : Guard) (d a b : BitVec 6)
  /-- S_ROT (R148): Rotates left by a register count. -/
  | sRot (g : Guard) (d a b : BitVec 6)
  /-- S_SHLI (R148): Shifts left by an immediate count. -/
  | sShli (g : Guard) (d a c : BitVec 6)
  /-- S_SHRI (R148): Logical right shift by an immediate count. -/
  | sShri (g : Guard) (d a c : BitVec 6)
  /-- S_SRAI (R148): Arithmetic right shift by an immediate count. -/
  | sSrai (g : Guard) (d a c : BitVec 6)
  /-- S_MIN (R146): Signed minimum. -/
  | sMin (g : Guard) (d a b : BitVec 6)
  /-- S_MAX (R146): Signed maximum. -/
  | sMax (g : Guard) (d a b : BitVec 6)
  /-- S_MINN (R146): Unsigned minimum. -/
  | sMinn (g : Guard) (d a b : BitVec 6)
  /-- S_MAXN (R146): Unsigned maximum. -/
  | sMaxn (g : Guard) (d a b : BitVec 6)
  /-- S_CLZ (R146): Counts leading zero bits. -/
  | sClz (g : Guard) (d a : BitVec 6)
  /-- S_POPC (R146): Counts one bits. -/
  | sPopc (g : Guard) (d a : BitVec 6)
  /-- S_EXT (R149): Extracts a bit field with optional sign extension. -/
  | sExt (g : Guard) (d a b : BitVec 6)
  /-- S_INS (R149): Inserts a bit field into the destination. -/
  | sIns (g : Guard) (d a b : BitVec 6)
  /-- S_MOV (R146): Copies a scalar with its poison tag. -/
  | sMov (g : Guard) (d a : BitVec 6)
  /-- S_LI (R146): Loads a sign-extended immediate. -/
  | sLi (g : Guard) (d : BitVec 6) (i : BitVec 12)
  /-- S_CMP (R150): Compares two scalars into a predicate. -/
  | sCmp (g : Guard) (c p : BitVec 3) (a b : BitVec 6)
  /-- S_CMPI (R150): Compares a scalar with an immediate into a predicate. -/
  | sCmpi (g : Guard) (c p : BitVec 3) (a i : BitVec 6)
  /-- S_PAND (R151): AND of two predicates. -/
  | sPand (g : Guard) (d a b : BitVec 3)
  /-- S_POR (R151): OR of two predicates. -/
  | sPor (g : Guard) (d a b : BitVec 3)
  /-- S_PXOR (R151): XOR of two predicates. -/
  | sPxor (g : Guard) (d a b : BitVec 3)
  /-- S_PNOT (R151): Complement of a predicate. -/
  | sPnot (g : Guard) (d a : BitVec 3)
  /-- S_WID (R152): Reads a field, or the whole, of the strand's work identifier. -/
  | sWid (g : Guard) (d : BitVec 6) (k : BitVec 3)
  /-- S_RDSR (R154): Reads a system register. -/
  | sRdsr (g : Guard) (d : BitVec 6) (r : BitVec 12)
  /-- S_WRSR (R154): Writes a system register, effective from issue + 1. -/
  | sWrsr (g : Guard) (d : BitVec 6) (r : BitVec 12)
  /-- S_RDCYC (R156): Reads the cell time of its issue cycle. -/
  | sRdcyc (g : Guard) (d : BitVec 6)
  /-- S_CHK (R158): Raises the tagged fault if a scalar register is poisoned. -/
  | sChk (g : Guard) (a : BitVec 6)
  -- V engine, vector (w.eng = 2)
  /-- V_FADD (R166): Lane-wise FP32 addition. -/
  | vFadd (g : Guard) (d a b : BitVec 5)
  /-- V_FSUB (R166): Lane-wise FP32 subtraction. -/
  | vFsub (g : Guard) (d a b : BitVec 5)
  /-- V_FMUL (R166): Lane-wise FP32 multiplication. -/
  | vFmul (g : Guard) (d a b : BitVec 5)
  /-- V_FFMA (R166): Lane-wise fused multiply-add with one rounding. -/
  | vFfma (g : Guard) (d a b : BitVec 5)
  /-- V_FMIN (R167): Lane-wise FP32 minimum. -/
  | vFmin (g : Guard) (d a b : BitVec 5)
  /-- V_FMAX (R167): Lane-wise FP32 maximum. -/
  | vFmax (g : Guard) (d a b : BitVec 5)
  /-- V_FABS (R166): Lane-wise absolute value. -/
  | vFabs (g : Guard) (d a : BitVec 5)
  /-- V_IADD (R166): Lane-wise 32-bit integer addition. -/
  | vIadd (g : Guard) (d a b : BitVec 5)
  /-- V_ISUB (R166): Lane-wise 32-bit integer subtraction. -/
  | vIsub (g : Guard) (d a b : BitVec 5)
  /-- V_IMUL (R166): Lane-wise low 32 bits of a product. -/
  | vImul (g : Guard) (d a b : BitVec 5)
  /-- V_IMIN (R166): Lane-wise signed minimum. -/
  | vImin (g : Guard) (d a b : BitVec 5)
  /-- V_IMAX (R166): Lane-wise signed maximum. -/
  | vImax (g : Guard) (d a b : BitVec 5)
  /-- V_AND (R166): Lane-wise AND. -/
  | vAnd (g : Guard) (d a b : BitVec 5)
  /-- V_OR (R166): Lane-wise OR. -/
  | vOr (g : Guard) (d a b : BitVec 5)
  /-- V_XOR (R166): Lane-wise XOR. -/
  | vXor (g : Guard) (d a b : BitVec 5)
  /-- V_SHL (R166): Lane-wise left shift. -/
  | vShl (g : Guard) (d a b : BitVec 5)
  /-- V_SHR (R166): Lane-wise logical right shift. -/
  | vShr (g : Guard) (d a b : BitVec 5)
  /-- V_SRA (R166): Lane-wise arithmetic right shift. -/
  | vSra (g : Guard) (d a b : BitVec 5)
  /-- V_FCMP (R168): Lane-wise FP32 compare into a mask. -/
  | vFcmp (g : Guard) (c d : BitVec 3) (a b : BitVec 5)
  /-- V_ICMP (R168): Lane-wise integer compare into a mask. -/
  | vIcmp (g : Guard) (c d : BitVec 3) (a b : BitVec 5)
  /-- V_MOV (R166): Lane-wise copy of bits. -/
  | vMov (g : Guard) (d a : BitVec 5)
  /-- V_BCAST (R170): Broadcasts the low 32 bits of a scalar to every lane. -/
  | vBcast (g : Guard) (d : BitVec 5) (a : BitVec 6)
  /-- V_MVS (R170): Moves one lane to a scalar. -/
  | vMvs (g : Guard) (d : BitVec 6) (a : BitVec 5) (b : BitVec 6)
  /-- V_INS (R170): Inserts a scalar into one lane. -/
  | vIns (g : Guard) (d : BitVec 5) (a b : BitVec 6)
  /-- V_PERM (R170): Permutes lanes by lane indices. -/
  | vPerm (g : Guard) (d a b : BitVec 5)
  /-- V_VID (R170): Writes each lane's index. -/
  | vVid (g : Guard) (d : BitVec 5)
  /-- V_REDSUM (R171): Fixed-tree FP32 sum of participating lanes into a scalar. -/
  | vRedsum (g : Guard) (d : BitVec 6) (a : BitVec 5)
  /-- V_REDMAX (R172): Greatest participating lane value into a scalar. -/
  | vRedmax (g : Guard) (d : BitVec 6) (a : BitVec 5)
  /-- V_REDMAXI (R172): Lowest lane index holding the greatest value. -/
  | vRedmaxi (g : Guard) (d : BitVec 6) (a : BitVec 5)
  /-- V_REDMIN (R172): Least non-NaN participating lane value into a scalar. -/
  | vRedmin (g : Guard) (d : BitVec 6) (a : BitVec 5)
  /-- V_SCAN (R173): Inclusive prefix sum, max or min over participating lanes. -/
  | vScan (g : Guard) (d a : BitVec 5) (o : BitVec 2)
  /-- V_CVT (R174): Narrowing or widening format conversion of 64 elements. -/
  | vCvt (g : Guard) (t : Bool) (d : BitVec 5) (w : Bool) (a : BitVec 5) (c : BitVec 4)
  /-- V_PACK (R178): Rounds 64 elements to NH codes and writes their planes. -/
  | vPack (g : Guard) (t : Bool) (d a : BitVec 5) (k : BitVec 3)
  /-- V_UNPK (R179): Reads NH planes and writes the FP32 level values. -/
  | vUnpk (g : Guard) (t : Bool) (d a : BitVec 5) (k : BitVec 3)
  /-- V_SCAL (R180): Applies block scales, or chooses a block scale and scales. -/
  | vScal (g : Guard) (t : Bool) (d a b : BitVec 5)
  /-- V_DRAW (R181): Writes Philox uniform draws for a key, position and purpose. -/
  | vDraw (g : Guard) (d : BitVec 5) (a b : BitVec 6)
  /-- V_CHK (R183): Raises the fault recorded in a vector register's poison tag. -/
  | vChk (g : Guard) (a : BitVec 5)
  /-- V_MAND (R169): AND of two masks. -/
  | vMand (g : Guard) (d a b : BitVec 3)
  /-- V_MOR (R169): OR of two masks. -/
  | vMor (g : Guard) (d a b : BitVec 3)
  /-- V_MNOT (R169): Complement of a mask. -/
  | vMnot (g : Guard) (d a : BitVec 3)
  /-- V_MPOP (R169): Counts guarded set bits of a mask into a scalar. -/
  | vMpop (g : Guard) (d : BitVec 6) (a : BitVec 3)
  -- X engine, special functions (w.eng = 3)
  /-- X_EXP2 (R182): Correctly rounded 2^x per lane. -/
  | xExp2 (g : Guard) (d a : BitVec 5)
  /-- X_LOG2 (R182): Correctly rounded log2 per lane. -/
  | xLog2 (g : Guard) (d a : BitVec 5)
  /-- X_RCP (R182): Correctly rounded reciprocal per lane. -/
  | xRcp (g : Guard) (d a : BitVec 5)
  /-- X_RSQRT (R182): Correctly rounded reciprocal square root per lane. -/
  | xRsqrt (g : Guard) (d a : BitVec 5)
  /-- X_SQRT (R182): Correctly rounded square root per lane. -/
  | xSqrt (g : Guard) (d a : BitVec 5)
  /-- X_TANH (R182): Correctly rounded tanh per lane. -/
  | xTanh (g : Guard) (d a : BitVec 5)
  /-- X_SIGM (R182): Correctly rounded logistic sigmoid per lane. -/
  | xSigm (g : Guard) (d a : BitVec 5)
  -- L engine, loads and stores (w.eng = 4)
  /-- L_LDS (R203): Loads 8 bytes from a scratch or peer handle. -/
  | lLds (g : Guard) (d a b : BitVec 6)
  /-- L_STS (R203): Stores 8 bytes through a scratch or peer handle. -/
  | lSts (g : Guard) (d a b : BitVec 6)
  /-- L_LDVS (R203): Loads 256 bytes into a vector register from a handle. -/
  | lLdvs (g : Guard) (d : BitVec 5) (a b : BitVec 6)
  /-- L_STVS (R203): Stores a vector register's 256 bytes through a handle. -/
  | lStvs (g : Guard) (d : BitVec 5) (a b : BitVec 6)
  /-- L_LDT (R204): Loads a 64×64 tile register from a scratch or peer handle. -/
  | lLdt (g : Guard) (k c : Bool) (d : BitVec 4) (a b : BitVec 6)
  /-- L_ATOM (R206): Performs an atomic operation on a scratch word. -/
  | lAtom (g : Guard) (o j : BitVec 3) (a b : BitVec 6)
  /-- L_HNEW (R199): Allots a tile handle from a descriptor, or returns the failed handle. -/
  | lHnew (g : Guard) (d a : BitVec 6) (p : BitVec 3)
  /-- L_HFREE (R200): Refuses further access to a scratch or peer handle and frees it after its accepted accesses. -/
  | lHfree (g : Guard) (a : BitVec 6)
  /-- L_HINFO (R201): Reads information about a handle or the free room of the cell. -/
  | lHinfo (g : Guard) (d a i : BitVec 6)
  /-- L_LDL (R204): Loads a tile register from a landing handle. -/
  | lLdl (g : Guard) (k c : Bool) (d : BitVec 4) (a b : BitVec 6)
  /-- L_REL (R200): Releases a landing handle after its accepted accesses. -/
  | lRel (g : Guard) (a : BitVec 6)
  /-- L_LDG (R322): Timed global load of 8 bytes, speculative with .sp. -/
  | lLdg (g : Guard) (d : BitVec 6) (s : Bool) (b : BitVec 5) (c : BitVec 6)
  /-- L_STG (R324): Posted global store of 8 bytes. -/
  | lStg (g : Guard) (d a b : BitVec 6)
  /-- L_LDVG (R322): Timed global load of 256 bytes into a vector register. -/
  | lLdvg (g : Guard) (d : BitVec 5) (s : Bool) (b : BitVec 5) (c : BitVec 6)
  /-- L_STVG (R324): Posted global store of a vector register. -/
  | lStvg (g : Guard) (d : BitVec 5) (a b : BitVec 6)
  /-- L_GATOM (R309): Global atomic executed at the home controller, old value at issue + Δ. -/
  | lGatom (g : Guard) (o j : BitVec 3) (a c : BitVec 6)
  /-- L_PREF (R325): Translates and caches a page without faulting. -/
  | lPref (g : Guard) (a b : BitVec 6)
  /-- L_LDTG (R323): Timed load of a tile image from global memory into a tile register. -/
  | lLdtg (g : Guard) (k : Bool) (d : BitVec 4) (s : Bool) (b : BitVec 5) (c : BitVec 6)
  /-- L_LDK (R332): Timed load of 64 K or V positions of a KV sequence into a tile register. -/
  | lLdk (g : Guard) (v : Bool) (d : BitVec 4) (s : Bool) (b : BitVec 5) (c : BitVec 6)
  /-- L_STK (R333): Posted write of one K or V row of a KV sequence. -/
  | lStk (g : Guard) (v : Bool) (d : BitVec 5) (a : BitVec 6)
  /-- L_KFORK (R334): Posted fork of a KV sequence, returning the child id. -/
  | lKfork (g : Guard) (d a : BitVec 6)
  /-- L_KFREE (R335): Posted release of a KV sequence. -/
  | lKfree (g : Guard) (a : BitVec 6)
  /-- L_RATOM (R308): Timed remote atomic through a peer handle. -/
  | lRatom (g : Guard) (o j : BitVec 3) (a c : BitVec 6)
  /-- L_BARR (R305): Releases at the object's scope and arrives at a barrier object. -/
  | lBarr (g : Guard) (d a b : BitVec 6)
  /-- L_BARW (R306): Waits until a barrier object's phase differs from a given phase. -/
  | lBarw (g : Guard) (d a b : BitVec 6)
  /-- L_BARE (R305): Releases and adds a signed byte count to a barrier object. -/
  | lBare (g : Guard) (d a b : BitVec 6)
  /-- L_FENCE (R292): Acquire, release or acquire-release fence at a scope. -/
  | lFence (g : Guard) (k : BitVec 2) (s : BitVec 3)
  /-- L_TFENCE (R293): Performs covered writes and discards cached translations in a scope. -/
  | lTfence (g : Guard) (s : BitVec 3)
  -- M engine, mats (w.eng = 5)
  /-- M_FUSE (R223): Sets a mat fusion shape or releases sides to TASK mode. -/
  | mFuse (g : Guard) (s : BitVec 5)
  /-- M_ZERO (R224): Zeroes a group's accumulators and bounds. -/
  | mZero (g : Guard) (k : BitVec 4)
  /-- M_MMA (R225): Adds one 64-element K-chunk into a group's accumulators. -/
  | mMma (g : Guard) (f : Bool) (k : BitVec 4) (r : Bool) (i : BitVec 4) (q : Bool) (j : BitVec 4)
  /-- M_MMAW (R225): Adds one K-chunk with wide FP32x2 accumulation. -/
  | mMmaw (g : Guard) (f : Bool) (k : BitVec 4) (r : Bool) (i : BitVec 4) (q : Bool) (j : BitVec 4)
  /-- M_DRAIN (R228): Drains a group's accumulators to a scratch handle. -/
  | mDrain (g : Guard) (k : BitVec 4) (a b : BitVec 6)
  /-- M_DRAIN_Q (R229): Drains a group's accumulators row by row into a result queue. -/
  | mDrainQ (g : Guard) (k : BitVec 4) (y : BitVec 2)
  /-- M_DRAIN_PEER (R230): Sends a single mat's accumulator and bound for addition into a peer cell's accumulator. -/
  | mDrainPeer (g : Guard) (k : BitVec 4) (a b : BitVec 6)
  /-- M_SCALE (R232): Multiplies a group's accumulators by an FP32 factor. -/
  | mScale (g : Guard) (k : BitVec 4) (a : BitVec 6)
  /-- M_DKR (R233): Reads half of a deckle register. -/
  | mDkr (g : Guard) (d : BitVec 6) (k : BitVec 4) (h : Bool)
  /-- M_DKW (R233): Writes a deckle register. -/
  | mDkw (g : Guard) (k : BitVec 4) (a b : BitVec 6)
  /-- M_TFREE (R234): Empties a tile register without reading it. -/
  | mTfree (g : Guard) (i : BitVec 4)
  /-- M_MWAIT (R235): Holds M until the masked mats have nothing in flight. -/
  | mMwait (g : Guard) (m : BitVec 8)
  /-- M_MSAVE (R236): Writes a mat's accumulator and deckle image to a scratch handle. -/
  | mMsave (g : Guard) (t : BitVec 3) (a b : BitVec 6)
  /-- M_MREST (R236): Restores a mat's accumulator and deckle image from a scratch handle. -/
  | mMrest (g : Guard) (t : BitVec 3) (a b : BitVec 6)
  /-- M_CHB (R241): Opens a calender chain on both sides with queries and a score scale. -/
  | mChb (g : Guard) (o q : Bool) (i : BitVec 4) (a : BitVec 6)
  /-- M_CHS (R244): Steps the open chain over one 128-key tile. -/
  | mChs (g : Guard) (d a b : BitVec 6)
  /-- M_CHE_Q (R248): Closes the chain, normalising O and pushing (m, l) to a result queue. -/
  | mCheQ (g : Guard) (y : BitVec 2)
  /-- M_CHE (R248): Closes the chain, normalising O and writing (m, l) to a scratch handle. -/
  | mChe (g : Guard) (a b : BitVec 6)
  /-- M_CHSV (R252): Saves the chain's row-state image to a scratch handle. -/
  | mChsv (g : Guard) (a b : BitVec 6)
  /-- M_CHLD (R253): Loads a row-state image into the open chain, checked at completion. -/
  | mChld (g : Guard) (a b : BitVec 6)
  -- F engine, flume (w.eng = 6)
  /-- F_LI (R343): Loads an immediate into a flume register. -/
  | fLi (d : BitVec 4) (i : BitVec 12)
  /-- F_ADD (R343): Adds two flume registers. -/
  | fAdd (d a b : BitVec 4)
  /-- F_JMP (R343): Jumps within the flume stream. -/
  | fJmp (i : BitVec 18)
  /-- F_LOOP (R344): Repeats a flume body a register-given number of times. -/
  | fLoop (t : BitVec 4) (i : BitVec 6)
  /-- F_END (R345): Waits for the stream's operations and ends the stream. -/
  | fEnd
  /-- F_COPY (R352): Starts a strided or transposing copy. -/
  | fCopy (s a : BitVec 4)
  /-- F_XLIST (R353): Starts a transfer-list walk. -/
  | fXlist (s a : BitVec 4)
  /-- F_GATH (R354): Starts an indexed gather of rows. -/
  | fGath (s a : BitVec 4)
  /-- F_SCAT (R354): Starts an indexed scatter of rows. -/
  | fScat (s a : BitVec 4)
  /-- F_KVCP (R355): Starts a KV copy, flatten, demote or promote. -/
  | fKvcp (s a : BitVec 4)
  /-- F_SVM (R356): Starts a stack-multiplier matrix-vector product. -/
  | fSvm (s a : BitVec 4)
  /-- F_RING (R362): Starts a transfer of landing data to a target cell's landing. -/
  | fRing (s a : BitVec 4)
  /-- F_COLL (R363): Starts this rank's part of a collective. -/
  | fColl (s a : BitVec 4) (m : BitVec 2)
  /-- F_WAIT (R346): Joins a semaphore FIFO as the cell's flume entry. -/
  | fWait (d : BitVec 4) (v : BitVec 8)
  /-- F_SIG (R346): Waits for earlier operations, releases at pkg and signals a semaphore. -/
  | fSig (d : BitVec 4) (v : BitVec 8)
  /-- F_BAR (R347): Waits for earlier operations, releases and updates a barrier object. -/
  | fBar (v h o : BitVec 4)
  /-- F_FENCE (R348): Flume fence after the stream's earlier operations. -/
  | fFence (k : BitVec 2) (s : BitVec 3)
  -- prefix (w.eng = 7)
  /-- P_EXT (R100): Prefix whose payload widens the immediate of the next word. -/
  | pExt (p : BitVec 29)
  -- steps without an encoding
  /-- FETCH (R42): The front end grants one fetch per cycle and the splitter routes the word to its queue. -/
  | fetch (cell : Nat)
  /-- LAUNCH_QUEUE_POLL (R36): Once per µs the launch unit reads active tail words and copies records. -/
  | launchQueuePoll
  /-- LAUNCH_START (R37): A launch record starts once the previous launch of its queue has completed. -/
  | launchStart (vf q : Nat)
  /-- LAUNCH_ACKNOWLEDGEMENT (R139): The launch unit's acknowledgement of a b.launch lands, possibly with a fault. -/
  | launchAcknowledgement (cell op : Nat)
  /-- OVERFLOW_LAUNCH_START (R140): A listed device-side launch starts when accepted launches fall below 64. -/
  | overflowLaunchStart (vf : Nat)
  /-- ITEM_TAKE (R32): An idle context takes the highest-priority pending item and is set up. -/
  | itemTake (cell : Nat)
  /-- ITEM_AGING (R32): Every 4,096 cc of waiting raises a pending item's effective priority. -/
  | itemAging (launch cell : Nat)
  /-- FLUME_STREAM_START (R38): The cell's next flume stream starts with its registers set. -/
  | flumeStreamStart (cell : Nat)
  /-- ITEM_COMPLETION (R52): A halted strand's operations complete and its context becomes idle. -/
  | itemCompletion (cell sc : Nat)
  /-- SHARE_COMPLETE (R53): A cell's, die's or device's share of a launch is complete and reports upward. -/
  | shareComplete (launch cell : Nat)
  /-- LAUNCH_COMPLETION (R54): Releases the launch's writes, writes the completion word and signals hdr.csem. -/
  | launchCompletion (launch : Nat)
  /-- TIMED_ARRIVAL (R46): A timed request's destination is written at issue + Δ. -/
  | timedArrival (cell op : Nat)
  /-- LATE_DATA_LANDING (R48): Late data lands, is written at issue + Δ and ends the freeze. -/
  | lateDataLanding (cell op : Nat)
  /-- ERROR_RESPONSE (R49): A NAK or fault response lands as poison or as a precise late fault. -/
  | errorResponse (cell op : Nat)
  /-- WATCHDOG (R49): A frozen cell with no response after 1 ms raises WATCHDOG. -/
  | watchdog (cell op : Nat)
  /-- QDEAD (R117): The queue-hold count reaching 65,536 faults the strand with QDEAD. -/
  | qdead (cell sc : Nat)
  /-- SLEEP_END (R131): A b.sleep count expires and fetch resumes. -/
  | sleepEnd (cell sc : Nat)
  /-- MESSAGE_STORE (R132): A message reaches and is stored in the target cell's message landing. -/
  | messageStore (i : Nat)
  /-- SEND_BUFFER_RELEASE (R132): A send-buffer entry is released at issue + 64 or freezes the cell. -/
  | sendBufferRelease (cell op : Nat)
  /-- MESSAGE_DELIVERY (R135): A stored message starts a matching dormant handler context. -/
  | messageDelivery (cell sc : Nat)
  /-- ITEM_CANCELLATION (R141): The launch unit cancels a group of items and later signals the semaphore. -/
  | itemCancellation (i : Nat)
  /-- TILE_LOAD_COMPLETE (R204): A scratch or landing tile load completes and the register becomes full. -/
  | tileLoadComplete (cell op : Nat)
  /-- HANDLE_FREE (R200): After its accepted accesses end, a handle's entry is freed and its generation advanced. -/
  | handleFree (cell idx : Nat)
  /-- LANDING_AUTO_FREE (R207): A landing's last declared consumer completion frees it. -/
  | landingAutoFree (bh landing : Nat)
  /-- PEER_ACCESS_AT_OWNER (R198): A peer load or store request is checked and applied at the owner's fill port. -/
  | peerAccessAtOwner (i : Nat)
  /-- REMOTE_ATOMIC_AT_OWNER (R308): An l.ratom is checked and applied at the owner cell. -/
  | remoteAtomicAtOwner (i : Nat)
  /-- SIDE_CLAIM (R209): A side in TASK mode becomes STRAND once no task runs on it. -/
  | sideClaim (cell side : Nat)
  /-- CHUNK_RESULT (R220): A chunk's result and bound are written at issue + occ + 20. -/
  | chunkResult (cell op : Nat)
  /-- DRAIN_COMPLETION (R227): A drain completes, empties its accumulators and sets dk.last. -/
  | drainCompletion (cell op : Nat)
  /-- RESULT_QUEUE_ROW_PUSH (R229): A drain or chain close pushes a row when a result-queue row is free. -/
  | resultQueueRowPush (cell op : Nat)
  /-- PEER_ADDITION (R231): A peer drain's values are added into the target accumulator or refused. -/
  | peerAddition (i : Nat)
  /-- PEER_DRAIN_ACK (R230): The acknowledgement or refusal of a peer drain lands. -/
  | peerDrainAck (cell op : Nat)
  /-- MREST_COMPLETION (R236): An m.mrest completes and refuses an inconsistent image. -/
  | mrestCompletion (cell op : Nat)
  /-- CHAIN_VALUE_PHASE (R246): A chain step's value phase starts at vs. -/
  | chainValuePhase (cell : Nat)
  /-- CHAIN_STEP_COMPLETION (R246): A chain step writes row state, O and bounds and counts landing consumers. -/
  | chainStepCompletion (cell : Nat)
  /-- CHAIN_CLOSE (R248): The chain close writes O and bounds and closes the chain at issue + 72. -/
  | chainClose (cell op : Nat)
  /-- CHLD_COMPLETION (R253): m.chld completes, checks the image and replaces the row state. -/
  | chldCompletion (cell op : Nat)
  /-- TASK_ENTRY (R262): The scheduler reads, checks and enters a posted task record. -/
  | taskEntry (i : Nat)
  /-- TASK_START (R273): The scheduler starts ready tasks on free mat groups. -/
  | taskStart (bh : Nat)
  /-- TASK_STEAL (R274): A side free for 64 cc steals a ready task from another bulkhead. -/
  | taskSteal (cell side : Nat)
  /-- TASK_CHUNK_ISSUE (R434): A task's chunk issues once its operand lines have arrived. -/
  | taskChunkIssue (vf n : Nat)
  /-- TASK_DRAIN_CHECK (R277): A task's drain check passes, fails with DECKLE or re-issues wide. -/
  | taskDrainCheck (vf n : Nat)
  /-- TASK_COMPLETION (R275): A task's last write is acknowledged; it releases, decrements successors and signals. -/
  | taskCompletion (vf n : Nat)
  /-- TASK_DECREMENT (R269): A b.tdec decrement reaches a task's counter. -/
  | taskDecrement (i : Nat)
  /-- TASK_AGING (R272): Every 4,096 cc a ready task's effective priority rises. -/
  | taskAging (vf n : Nat)
  /-- REPORT_TAKEN (R276): A task or stream fault report traps the responsible strand at its next B word. -/
  | reportTaken (cell sc : Nat)
  /-- BRANCH_CANCELLATION (R279): The scheduler cancels a branch subtree's tasks and later signals. -/
  | branchCancellation (i : Nat)
  /-- SEMAPHORE_SIGNAL_ARRIVAL (R297): A signal adds to a semaphore and grants queued waits. -/
  | semaphoreSignalArrival (i : Nat)
  /-- SEMAPHORE_WAIT_ARRIVAL (R297): A wait request joins a semaphore's FIFO. -/
  | semaphoreWaitArrival (i : Nat)
  /-- SEMAPHORE_GRANT_LANDING (R298): A grant lands at the waiter as an acquire. -/
  | semaphoreGrantLanding (cell unit : Nat)
  /-- SMAP_APPLY (R300): The semaphore units apply a map change after in-flight signals reach the old semaphore. -/
  | smapApply (cell sc : Nat)
  /-- FENCE_RETIREMENT (R292): A fence retires at issue + Tf, freezing if covered writes are late. -/
  | fenceRetirement (cell unit : Nat)
  /-- BARW_RETIREMENT (R306): A waiting l.barw retires when the phase changes. -/
  | barwRetirement (cell sc : Nat)
  /-- REMOTE_WAITER_RETRY (R306): A refused remote waiter retries every 64 cc. -/
  | remoteWaiterRetry (cell sc : Nat)
  /-- WRITE_PROPAGATION (R286): A global write enters another die's sequence. -/
  | writePropagation (die i : Nat)
  /-- GATOM_AT_HOME (R287): A global atomic executes at its word's home controller. -/
  | gatomAtHome (i : Nat)
  /-- DEMAND_ZERO_INSTALL (R320): The first write to a demand-zero leaf allocates and installs a frame. -/
  | demandZeroInstall (vf va : Nat)
  /-- FRAME_RETURN (R319): A released frame returns to the free list. -/
  | frameReturn (vf : Nat)
  /-- STORE_ACKNOWLEDGEMENT (R324): A posted store's acknowledgement lands and releases its send-buffer entry. -/
  | storeAcknowledgement (cell op : Nat)
  /-- KV_STORE_APPLY (R333): The KV unit applies an l.stk, copying the page on first append. -/
  | kvStoreApply (i : Nat)
  /-- KV_FORK_APPLY (R334): The KV unit creates a child sequence. -/
  | kvForkApply (i : Nat)
  /-- KV_FREE_APPLY (R335): The KV unit marks a sequence dead. -/
  | kvFreeApply (i : Nat)
  /-- KV_PAGE_OPERATION (R336): The KV unit serves one copy, flatten, demote or promote request. -/
  | kvPageOperation (cell op : Nat)
  /-- FLUME_PIECE (R350): A flume operation writes one piece of its data. -/
  | flumePiece (cell op : Nat)
  /-- FLUME_OPERATION_END (R340): A flume operation ends and writes its status register. -/
  | flumeOperationEnd (cell op : Nat)
  /-- SVM_RUN (R357): A stack runs a queued f.svm request and writes y and its bound. -/
  | svmRun (stack : Nat)
  /-- TORUS_PACKET_ARRIVAL (R360): A torus packet arrives and its peer-table permission is checked. -/
  | torusPacketArrival (pkt : Packet)
  /-- RING_PIECE_AT_TARGET (R362): The target cell checks and writes an f.ring piece into its landing. -/
  | ringPieceAtTarget (i : Nat)
  /-- COLLECTIVE_STEP (R364): A rank completes one step of a collective. -/
  | collectiveStep (cell op : Nat)
  /-- GONE_NOTICE (R366): A gone notice for a peer reaches a package. -/
  | goneNotice (place : BitVec 19)
  /-- ABORT_NOTICE (R367): An abort notice ends a rank's collective with PEERGONE. -/
  | abortNotice (dst : Place) (tag : BitVec 32)
  /-- LINKDOWN (R358): A Riune link is removed from service and an event written. -/
  | linkdown (link : Nat)
  /-- MGMT_POLL (R376): Once per µs the management unit reads go bits and takes a command. -/
  | mgmtPoll
  /-- CREATE (R377): Creates a VF from a configuration record. -/
  | create (slot : Nat)
  /-- DESTROY (R377): Resets and destroys a VF, freeing its resources. -/
  | destroy (slot : Nat)
  /-- RESET (R377): Resets a VF. -/
  | reset (slot : Nat)
  /-- WINDOW (R377): Writes or clears a window entry of a bulkhead. -/
  | window (slot : Nat)
  /-- KEYLOAD (R377): Loads a VF's second-tier AES key slot. -/
  | keyload (slot : Nat)
  /-- PEERTAB (R377): Writes a VF's torus peer entry. -/
  | peertab (slot : Nat)
  /-- SETQUOTA (R377): Replaces a VF's page and second-tier quotas. -/
  | setquota (slot : Nat)
  /-- STATS (R380): Writes a VF's counters into the command slot. -/
  | stats (slot : Nat)
  /-- QUOTE (R394): Writes a signed attestation quote for a VF. -/
  | quote (slot : Nat)
  /-- MEASURE (R377): Extends a measurement register with a value. -/
  | measure (slot : Nat)
  /-- POD (R377): Sets the package coordinates and pod extents. -/
  | pod (slot : Nat)
  /-- BINDQP (R390): Binds a queue pair to a VF. -/
  | bindqp (slot : Nat)
  /-- SCHED_SET (R407): SCHED op 0 sets a residency group's schedule. -/
  | schedSet (slot : Nat)
  /-- SCHED_SWITCH (R429): SCHED op 1 starts a switch to the next VF at once. -/
  | schedSwitch (slot : Nat)
  /-- SCHED_RELEASE (R416): SCHED op 2 restarts a VF's held or stopped launch queues. -/
  | schedRelease (slot : Nat)
  /-- LCANCEL (R379): Cancels launches of a VF from outside. -/
  | lcancel (slot : Nat)
  /-- BHFAULT (R388): A contained rail, PLL or clock fault starts a reset of the resident VF. -/
  | bhfault (bh cls : Nat)
  /-- UNCORRECTABLE_ERROR (R387): An uncorrectable error poisons a word or, in a burst, faults the bulkhead. -/
  | uncorrectableError (place : ErrPlace)
  /-- CORRECTED_ERROR (R187): A corrected error is counted for VF0. -/
  | correctedError (bh : Nat)
  /-- THERMAL (R25): The cold plate exceeds its limit and raises a THERMAL event. -/
  | thermal
  /-- COLD_PLATE_CRITICAL (R387): The cold plate exceeds its critical limit and every bulkhead is held in reset. -/
  | coldPlateCritical
  /-- COMMON_BLOCK_ERROR (R387): An uncorrectable common-block error holds every bulkhead in reset. -/
  | commonBlockError
  /-- RDMA_WRITE (R390): A host RDMA WRITE is translated and applied to a VF's memory. -/
  | rdmaWrite (qp : Nat) (rkey : BitVec 32) (va : Nat) (data : List (BitVec 8))
  /-- RDMA_READ (R390): A host RDMA READ is translated and answered. -/
  | rdmaRead (qp : Nat) (rkey : BitVec 32) (va n : Nat)
  /-- RDMA_COMPARE_AND_SWAP (R390): A host atomic compare-and-swap executes as an l.gatom. -/
  | rdmaCompareAndSwap (qp : Nat) (rkey : BitVec 32) (va : Nat) (cmp new : BitVec 64)
  /-- RDMA_FETCH_AND_ADD (R390): A host atomic fetch-and-add executes as an l.gatom. -/
  | rdmaFetchAndAdd (qp : Nat) (rkey : BitVec 32) (va : Nat) (add : BitVec 64)
  /-- RDMA_UNSUPPORTED (R389): SEND, unreliable transport or memory window operations are NAKed. -/
  | rdmaUnsupported (qp : Nat)
  /-- POWER_ON (R392): The boot ROM senses fuses, trains stack 0 and port 0 and serves a boot connection. -/
  | powerOn
  /-- BOOT_IMAGE_SUBMIT (R392): The ROM checks a written firmware image and starts it or reports a status. -/
  | bootImageSubmit
  /-- TRAP_ENTRY (R398): A strand's trap completes its issued operations, writes the frame and enters the handler. -/
  | trapEntry (cell sc : Nat)
  /-- PARTITION_RESET (R416): Resets a VF's bulkheads and tasks, keeping memory, and replays its queues. -/
  | partitionReset (vf : Nat)
  /-- SWITCH_TICK (R408): A group's tick sends switch requests and sets sr.dl. -/
  | switchTick (group : Nat)
  /-- STRAND_SWITCH_STOP (R130): A strand stops cleanly for a switch once its fetched words complete. -/
  | strandSwitchStop (cell sc : Nat)
  /-- CELL_CLOSE (R409): The cell's clock stops for the VF and unstopped strands are stopped by force. -/
  | cellClose (cell : Nat)
  /-- YARDER_SAVE (R413): A die's yarder copies in-use blocks and dirty stripes to the save area. -/
  | yarderSave (group die : Nat)
  /-- SAVE_DEADLINE (R415): At sr.dl an incomplete save rolls the switch back or, on a third miss, partition-resets. -/
  | saveDeadline (group : Nat)
  /-- RESTORE (R414): The yarder writes back the incoming VF's state and cells resume at r. -/
  | restore (group : Nat)
  /-- FLUME_FETCH (R339): The flume engine fetches one word of its current stream per cc at the stream's own program counter, taking loop back-edges and raising fetch faults. -/
  | flumeFetch (cell : Nat)
  /-- BULKHEAD_RESET_COMPLETE (R384): A bulkhead finishes retraining its PLL and rail, reopens its fabric gate and writes RESETDONE, up to 60 µs after the reset began. -/
  | bulkheadResetComplete (bh : Nat)
  /-- POWER_OFF (R392): Loss of power, after which nothing but the fuses survives. -/
  | powerOff
  /-- PACKAGE_RESET_OR_LOSS (R366): A neighbouring package is reset or lost, and this package floods gone notices for its VFs through the torus. -/
  | packageResetOrLoss (place : BitVec 12)
  /-- CONGESTION_NOTIFICATION_PACKET (R389): A RoCEv2 congestion notification packet arrives and the device lowers its rate under DCQCN. -/
  | congestionNotificationPacket (qp : Nat)
  /-- PRIORITY_FLOW_CONTROL_PAUSE (R389): A priority flow control frame arrives and pauses or resumes transmission on one of 8 priorities. -/
  | priorityFlowControlPause (prio : BitVec 3) (pause : Bool)
  deriving DecidableEq, Repr

end Sys2Proof
end

