-- ==== Sys2Proof/WellFormed.lean ====
section
/-! DEFINITION. What makes an instruction well formed beyond the shape of its fields: the guard rule of R92, the code fields of
R102 to R104, the v28 to v31 destination of R98, the register numbers of R154 and the operand rules that R134 and R201 call
decoding faults. A word that breaks one is ILLEGAL (R106). -/

namespace Sys2Proof

/-- Why a word is not an instruction (R106, R107). -/
inductive DecodeError where
  /-- an opcode that R105 does not list -/
  | unassigned
  /-- a reserved bit or field is not zero -/
  | reserved
  /-- w.gn = 1 with w.greg = 0 (R92) -/
  | badGuard
  /-- a code that R102 to R104, R134 or R201 do not list -/
  | badCode
  /-- v28 to v31 as a destination (R98) -/
  | badDest
  /-- a system register number outside R153 -/
  | badSysReg
  /-- fewer than four bytes -/
  | short
  deriving DecidableEq, Repr

/-- The system register numbers of R153. -/
def sysRegAssigned (r : BitVec 12) : Bool :=
  [0x000, 0x001, 0x002, 0x003, 0x010, 0x011, 0x012, 0x020, 0x021, 0x022, 0x023, 0x024, 0x030, 0x031,
   0x040, 0x041, 0x042, 0x043, 0x050, 0x051, 0x052, 0x053].contains r.toNat

/-- The item numbers of l.hinfo (R201); items 8 to 11 name no handle. -/
def hinfoItem (i a : BitVec 6) : Bool :=
  i.toNat ≤ 2 || (8 ≤ i.toNat && i.toNat ≤ 11 && a == 0)

/-- The guard rule of R92. -/
def Guard.ok (g : Guard) : Bool := !(g.neg && g.reg == 0)

/-- A vector destination is v0 to v27 (R98). -/
def vdest (d : BitVec 5) : Option DecodeError := if d.toNat < 28 then none else some .badDest

/-- A code field, listed or not. -/
def code (listed : Bool) : Option DecodeError := if listed then none else some .badCode

/-- The checks on the operand fields of one instruction, its guard apart. -/
def Instr.fieldProblem : Instr → Option DecodeError
  | .bMsg _ d a c => code (c.toNat ≤ 8 && d.toNat + c.toNat ≤ 64 && a.toNat ≠ 63)
  | .sWid _ _ k => code (k.toNat ≠ 6)
  | .sRdsr _ _ r => if sysRegAssigned r then none else some .badSysReg
  | .sWrsr _ _ r => if sysRegAssigned r then none else some .badSysReg
  | .vFadd _ d _ _ => vdest d
  | .vFsub _ d _ _ => vdest d
  | .vFmul _ d _ _ => vdest d
  | .vFfma _ d _ _ => vdest d
  | .vFmin _ d _ _ => vdest d
  | .vFmax _ d _ _ => vdest d
  | .vFabs _ d _ => vdest d
  | .vIadd _ d _ _ => vdest d
  | .vIsub _ d _ _ => vdest d
  | .vImul _ d _ _ => vdest d
  | .vImin _ d _ _ => vdest d
  | .vImax _ d _ _ => vdest d
  | .vAnd _ d _ _ => vdest d
  | .vOr _ d _ _ => vdest d
  | .vXor _ d _ _ => vdest d
  | .vShl _ d _ _ => vdest d
  | .vShr _ d _ _ => vdest d
  | .vSra _ d _ _ => vdest d
  | .vMov _ d _ => vdest d
  | .vBcast _ d _ => vdest d
  | .vIns _ d _ _ => vdest d
  | .vPerm _ d _ _ => vdest d
  | .vVid _ d => vdest d
  | .vScan _ d _ o => if o.toNat = 3 then some .badCode else vdest d
  | .vCvt _ _ d _ _ _ => vdest d
  | .vPack _ _ d _ _ => vdest d
  | .vUnpk _ _ d _ _ => vdest d
  | .vScal _ _ d _ _ => vdest d
  | .vDraw _ d _ _ => vdest d
  | .xExp2 _ d _ => vdest d
  | .xLog2 _ d _ => vdest d
  | .xRcp _ d _ => vdest d
  | .xRsqrt _ d _ => vdest d
  | .xSqrt _ d _ => vdest d
  | .xTanh _ d _ => vdest d
  | .xSigm _ d _ => vdest d
  | .lLdvs _ d _ _ => vdest d
  | .lLdvg _ d _ _ _ => vdest d
  | .lHinfo _ _ a i => code (hinfoItem i a)
  | .lAtom _ o _ _ _ => code (o.toNat ≠ 7)
  | .lGatom _ o _ _ _ => code (o.toNat ≠ 7)
  | .lRatom _ o _ _ _ => code (o.toNat ≠ 7)
  | .lFence _ k s => code (k.toNat ≠ 3 && s.toNat ≤ 4)
  | .lTfence _ s => code (s.toNat ≤ 4)
  | .fFence k s => code (k.toNat ≠ 3 && s.toNat ≤ 4)
  | .fColl _ _ m => code (m.toNat ≠ 3)
  | _ => none

/-- The guard of an instruction that has one. -/
def Instr.guard : Instr → Option Guard
  | .bNop g => some g
  | .bJmp g _ => some g
  | .bJmpr g _ => some g
  | .bCall g _ => some g
  | .bCallr g _ => some g
  | .bRet g => some g
  | .bLoop g _ _ _ _ => some g
  | .bLbrk g _ => some g
  | .bHalt g => some g
  | .bYield g => some g
  | .bSleep g _ => some g
  | .bArm g _ => some g
  | .bMsg g _ _ _ => some g
  | .bTrap g _ => some g
  | .bSys g _ => some g
  | .bRfe g => some g
  | .bFmt g _ _ => some g
  | .bPpt g => some g
  | .bPost g _ => some g
  | .bTdec g _ => some g
  | .bCancel g _ _ => some g
  | .bCancelL g _ _ => some g
  | .bLaunch g _ => some g
  | .bWait g _ _ => some g
  | .bSig g _ _ => some g
  | .bSmap g _ _ => some g
  | .sAdd g _ _ _ => some g
  | .sSub g _ _ _ => some g
  | .sAddi g _ _ _ => some g
  | .sMul g _ _ _ => some g
  | .sMulh g _ _ _ => some g
  | .sMulhn g _ _ _ => some g
  | .sDiv g _ _ _ => some g
  | .sDivn g _ _ _ => some g
  | .sRem g _ _ _ => some g
  | .sRemn g _ _ _ => some g
  | .sAnd g _ _ _ => some g
  | .sOr g _ _ _ => some g
  | .sXor g _ _ _ => some g
  | .sAndn g _ _ _ => some g
  | .sShl g _ _ _ => some g
  | .sShr g _ _ _ => some g
  | .sSra g _ _ _ => some g
  | .sRot g _ _ _ => some g
  | .sShli g _ _ _ => some g
  | .sShri g _ _ _ => some g
  | .sSrai g _ _ _ => some g
  | .sMin g _ _ _ => some g
  | .sMax g _ _ _ => some g
  | .sMinn g _ _ _ => some g
  | .sMaxn g _ _ _ => some g
  | .sClz g _ _ => some g
  | .sPopc g _ _ => some g
  | .sExt g _ _ _ => some g
  | .sIns g _ _ _ => some g
  | .sMov g _ _ => some g
  | .sLi g _ _ => some g
  | .sCmp g _ _ _ _ => some g
  | .sCmpi g _ _ _ _ => some g
  | .sPand g _ _ _ => some g
  | .sPor g _ _ _ => some g
  | .sPxor g _ _ _ => some g
  | .sPnot g _ _ => some g
  | .sWid g _ _ => some g
  | .sRdsr g _ _ => some g
  | .sWrsr g _ _ => some g
  | .sRdcyc g _ => some g
  | .sChk g _ => some g
  | .vFadd g _ _ _ => some g
  | .vFsub g _ _ _ => some g
  | .vFmul g _ _ _ => some g
  | .vFfma g _ _ _ => some g
  | .vFmin g _ _ _ => some g
  | .vFmax g _ _ _ => some g
  | .vFabs g _ _ => some g
  | .vIadd g _ _ _ => some g
  | .vIsub g _ _ _ => some g
  | .vImul g _ _ _ => some g
  | .vImin g _ _ _ => some g
  | .vImax g _ _ _ => some g
  | .vAnd g _ _ _ => some g
  | .vOr g _ _ _ => some g
  | .vXor g _ _ _ => some g
  | .vShl g _ _ _ => some g
  | .vShr g _ _ _ => some g
  | .vSra g _ _ _ => some g
  | .vFcmp g _ _ _ _ => some g
  | .vIcmp g _ _ _ _ => some g
  | .vMov g _ _ => some g
  | .vBcast g _ _ => some g
  | .vMvs g _ _ _ => some g
  | .vIns g _ _ _ => some g
  | .vPerm g _ _ _ => some g
  | .vVid g _ => some g
  | .vRedsum g _ _ => some g
  | .vRedmax g _ _ => some g
  | .vRedmaxi g _ _ => some g
  | .vRedmin g _ _ => some g
  | .vScan g _ _ _ => some g
  | .vCvt g _ _ _ _ _ => some g
  | .vPack g _ _ _ _ => some g
  | .vUnpk g _ _ _ _ => some g
  | .vScal g _ _ _ _ => some g
  | .vDraw g _ _ _ => some g
  | .vChk g _ => some g
  | .vMand g _ _ _ => some g
  | .vMor g _ _ _ => some g
  | .vMnot g _ _ => some g
  | .vMpop g _ _ => some g
  | .xExp2 g _ _ => some g
  | .xLog2 g _ _ => some g
  | .xRcp g _ _ => some g
  | .xRsqrt g _ _ => some g
  | .xSqrt g _ _ => some g
  | .xTanh g _ _ => some g
  | .xSigm g _ _ => some g
  | .lLds g _ _ _ => some g
  | .lSts g _ _ _ => some g
  | .lLdvs g _ _ _ => some g
  | .lStvs g _ _ _ => some g
  | .lLdt g _ _ _ _ _ => some g
  | .lAtom g _ _ _ _ => some g
  | .lHnew g _ _ _ => some g
  | .lHfree g _ => some g
  | .lHinfo g _ _ _ => some g
  | .lLdl g _ _ _ _ _ => some g
  | .lRel g _ => some g
  | .lLdg g _ _ _ _ => some g
  | .lStg g _ _ _ => some g
  | .lLdvg g _ _ _ _ => some g
  | .lStvg g _ _ _ => some g
  | .lGatom g _ _ _ _ => some g
  | .lPref g _ _ => some g
  | .lLdtg g _ _ _ _ _ => some g
  | .lLdk g _ _ _ _ _ => some g
  | .lStk g _ _ _ => some g
  | .lKfork g _ _ => some g
  | .lKfree g _ => some g
  | .lRatom g _ _ _ _ => some g
  | .lBarr g _ _ _ => some g
  | .lBarw g _ _ _ => some g
  | .lBare g _ _ _ => some g
  | .lFence g _ _ => some g
  | .lTfence g _ => some g
  | .mFuse g _ => some g
  | .mZero g _ => some g
  | .mMma g _ _ _ _ _ _ => some g
  | .mMmaw g _ _ _ _ _ _ => some g
  | .mDrain g _ _ _ => some g
  | .mDrainQ g _ _ => some g
  | .mDrainPeer g _ _ _ => some g
  | .mScale g _ _ => some g
  | .mDkr g _ _ _ => some g
  | .mDkw g _ _ _ => some g
  | .mTfree g _ => some g
  | .mMwait g _ => some g
  | .mMsave g _ _ _ => some g
  | .mMrest g _ _ _ => some g
  | .mChb g _ _ _ _ => some g
  | .mChs g _ _ _ => some g
  | .mCheQ g _ => some g
  | .mChe g _ _ => some g
  | .mChsv g _ _ => some g
  | .mChld g _ _ => some g
  | _ => none

/-- The first check that an instruction fails, if any. -/
def Instr.problem (i : Instr) : Option DecodeError :=
  match Instr.guard i with
  | some g => if g.ok then Instr.fieldProblem i else some .badGuard
  | none => Instr.fieldProblem i

/-- A well-formed instruction. -/
def Instr.WellFormed (i : Instr) : Bool := (Instr.problem i).isNone

end Sys2Proof
end

