-- ==== Sys2Proof/Decode.lean ====
section
/-! DEFINITION. The decoder and the encoder of instruction words, written from the encoding tables of R90 to R105 and of the
chapters that own each word. decodeWord is total: what is not an instruction is rejected by a name of DecodeError (R106). -/

namespace Sys2Proof

/-- Bits lo + n - 1 : lo of a word (R3). -/
def fld (w : Word) (lo n : Nat) : BitVec n := w.extractLsb' lo n

/-- One bit of a word, as a modifier. -/
def flag (w : Word) (lo : Nat) : Bool := w.getLsbD lo

/-- The guard fields, bits 21 and 20:18 (R90). -/
def guardOf (w : Word) : Guard := ⟨flag w 21, fld w 18 3⟩

/-- An instruction whose reserved bits are all zero, else the rejection (R106). -/
def need (zero : Bool) (i : Instr) : Except DecodeError Instr := if zero then .ok i else .error .reserved

/-- Words of engine code 0 (R105). -/
def decodeB (w : Word) : Except DecodeError Instr :=
  let g := guardOf w
  match (fld w 22 7).toNat with
  | 0x00 => need (fld w 0 18 == 0) (.bNop g)
  | 0x01 => .ok (.bJmp g (fld w 0 18))
  | 0x02 => need (fld w 0 6 == 0 && fld w 12 6 == 0) (.bJmpr g (fld w 6 6))
  | 0x03 => .ok (.bCall g (fld w 0 18))
  | 0x04 => need (fld w 0 6 == 0 && fld w 12 6 == 0) (.bCallr g (fld w 6 6))
  | 0x05 => need (fld w 0 18 == 0) (.bRet g)
  | 0x06 => need (fld w 17 1 == 0) (.bLoop g (fld w 14 3) (fld w 12 2) (fld w 6 6) (fld w 0 6))
  | 0x07 => need (fld w 0 12 == 0 && fld w 14 4 == 0) (.bLbrk g (fld w 12 2))
  | 0x08 => need (fld w 0 18 == 0) (.bHalt g)
  | 0x09 => need (fld w 0 18 == 0) (.bYield g)
  | 0x0a => need (fld w 0 6 == 0 && fld w 12 6 == 0) (.bSleep g (fld w 6 6))
  | 0x0b => .ok (.bArm g (fld w 0 18))
  | 0x0c => need (fld w 4 2 == 0) (.bMsg g (fld w 12 6) (fld w 6 6) (fld w 0 4))
  | 0x0d => .ok (.bTrap g (fld w 0 18))
  | 0x0e => .ok (.bSys g (fld w 0 18))
  | 0x0f => need (fld w 0 18 == 0) (.bRfe g)
  | 0x10 => need (fld w 6 6 == 0 && fld w 14 4 == 0) (.bFmt g (fld w 12 2) (fld w 0 6))
  | 0x11 => need (fld w 0 18 == 0) (.bPpt g)
  | 0x12 => need (fld w 0 6 == 0 && fld w 12 6 == 0) (.bPost g (fld w 6 6))
  | 0x13 => need (fld w 0 6 == 0 && fld w 12 6 == 0) (.bTdec g (fld w 6 6))
  | 0x14 => if flag w 12 then need (fld w 13 5 == 0) (.bCancelL g (fld w 6 6) (fld w 0 6)) else need (fld w 12 6 == 0) (.bCancel g (fld w 6 6) (fld w 0 6))
  | 0x15 => need (fld w 0 6 == 0 && fld w 12 6 == 0) (.bLaunch g (fld w 6 6))
  | 0x16 => need (fld w 8 4 == 0) (.bWait g (fld w 12 6) (fld w 0 8))
  | 0x17 => need (fld w 8 4 == 0) (.bSig g (fld w 12 6) (fld w 0 8))
  | 0x18 => need (fld w 12 6 == 0) (.bSmap g (fld w 6 6) (fld w 0 6))
  | _ => .error .unassigned

/-- Words of engine code 1 (R105). -/
def decodeS (w : Word) : Except DecodeError Instr :=
  let g := guardOf w
  match (fld w 22 7).toNat with
  | 0x00 => .ok (.sAdd g (fld w 12 6) (fld w 6 6) (fld w 0 6))
  | 0x01 => .ok (.sSub g (fld w 12 6) (fld w 6 6) (fld w 0 6))
  | 0x02 => .ok (.sAddi g (fld w 12 6) (fld w 6 6) (fld w 0 6))
  | 0x03 => .ok (.sMul g (fld w 12 6) (fld w 6 6) (fld w 0 6))
  | 0x04 => .ok (.sMulh g (fld w 12 6) (fld w 6 6) (fld w 0 6))
  | 0x05 => .ok (.sMulhn g (fld w 12 6) (fld w 6 6) (fld w 0 6))
  | 0x06 => .ok (.sDiv g (fld w 12 6) (fld w 6 6) (fld w 0 6))
  | 0x07 => .ok (.sDivn g (fld w 12 6) (fld w 6 6) (fld w 0 6))
  | 0x08 => .ok (.sRem g (fld w 12 6) (fld w 6 6) (fld w 0 6))
  | 0x09 => .ok (.sRemn g (fld w 12 6) (fld w 6 6) (fld w 0 6))
  | 0x0a => .ok (.sAnd g (fld w 12 6) (fld w 6 6) (fld w 0 6))
  | 0x0b => .ok (.sOr g (fld w 12 6) (fld w 6 6) (fld w 0 6))
  | 0x0c => .ok (.sXor g (fld w 12 6) (fld w 6 6) (fld w 0 6))
  | 0x0d => .ok (.sAndn g (fld w 12 6) (fld w 6 6) (fld w 0 6))
  | 0x0e => .ok (.sShl g (fld w 12 6) (fld w 6 6) (fld w 0 6))
  | 0x0f => .ok (.sShr g (fld w 12 6) (fld w 6 6) (fld w 0 6))
  | 0x10 => .ok (.sSra g (fld w 12 6) (fld w 6 6) (fld w 0 6))
  | 0x11 => .ok (.sRot g (fld w 12 6) (fld w 6 6) (fld w 0 6))
  | 0x12 => .ok (.sShli g (fld w 12 6) (fld w 6 6) (fld w 0 6))
  | 0x13 => .ok (.sShri g (fld w 12 6) (fld w 6 6) (fld w 0 6))
  | 0x14 => .ok (.sSrai g (fld w 12 6) (fld w 6 6) (fld w 0 6))
  | 0x15 => .ok (.sMin g (fld w 12 6) (fld w 6 6) (fld w 0 6))
  | 0x16 => .ok (.sMax g (fld w 12 6) (fld w 6 6) (fld w 0 6))
  | 0x17 => .ok (.sMinn g (fld w 12 6) (fld w 6 6) (fld w 0 6))
  | 0x18 => .ok (.sMaxn g (fld w 12 6) (fld w 6 6) (fld w 0 6))
  | 0x19 => need (fld w 0 6 == 0) (.sClz g (fld w 12 6) (fld w 6 6))
  | 0x1a => need (fld w 0 6 == 0) (.sPopc g (fld w 12 6) (fld w 6 6))
  | 0x1b => .ok (.sExt g (fld w 12 6) (fld w 6 6) (fld w 0 6))
  | 0x1c => .ok (.sIns g (fld w 12 6) (fld w 6 6) (fld w 0 6))
  | 0x1d => need (fld w 0 6 == 0) (.sMov g (fld w 12 6) (fld w 6 6))
  | 0x1e => .ok (.sLi g (fld w 12 6) (fld w 0 12))
  | 0x20 => .ok (.sCmp g (fld w 15 3) (fld w 12 3) (fld w 6 6) (fld w 0 6))
  | 0x21 => .ok (.sCmpi g (fld w 15 3) (fld w 12 3) (fld w 6 6) (fld w 0 6))
  | 0x22 => need (fld w 3 3 == 0 && fld w 9 3 == 0 && fld w 15 3 == 0) (.sPand g (fld w 12 3) (fld w 6 3) (fld w 0 3))
  | 0x23 => need (fld w 3 3 == 0 && fld w 9 3 == 0 && fld w 15 3 == 0) (.sPor g (fld w 12 3) (fld w 6 3) (fld w 0 3))
  | 0x24 => need (fld w 3 3 == 0 && fld w 9 3 == 0 && fld w 15 3 == 0) (.sPxor g (fld w 12 3) (fld w 6 3) (fld w 0 3))
  | 0x25 => need (fld w 0 6 == 0 && fld w 9 3 == 0 && fld w 15 3 == 0) (.sPnot g (fld w 12 3) (fld w 6 3))
  | 0x26 => need (fld w 3 9 == 0) (.sWid g (fld w 12 6) (fld w 0 3))
  | 0x27 => .ok (.sRdsr g (fld w 12 6) (fld w 0 12))
  | 0x28 => .ok (.sWrsr g (fld w 12 6) (fld w 0 12))
  | 0x29 => need (fld w 0 12 == 0) (.sRdcyc g (fld w 12 6))
  | 0x2a => need (fld w 0 6 == 0 && fld w 12 6 == 0) (.sChk g (fld w 6 6))
  | _ => .error .unassigned

/-- Words of engine code 2 (R105). -/
def decodeV (w : Word) : Except DecodeError Instr :=
  let g := guardOf w
  match (fld w 22 7).toNat with
  | 0x00 => need (fld w 5 1 == 0 && fld w 11 1 == 0 && fld w 17 1 == 0) (.vFadd g (fld w 12 5) (fld w 6 5) (fld w 0 5))
  | 0x01 => need (fld w 5 1 == 0 && fld w 11 1 == 0 && fld w 17 1 == 0) (.vFsub g (fld w 12 5) (fld w 6 5) (fld w 0 5))
  | 0x02 => need (fld w 5 1 == 0 && fld w 11 1 == 0 && fld w 17 1 == 0) (.vFmul g (fld w 12 5) (fld w 6 5) (fld w 0 5))
  | 0x03 => need (fld w 5 1 == 0 && fld w 11 1 == 0 && fld w 17 1 == 0) (.vFfma g (fld w 12 5) (fld w 6 5) (fld w 0 5))
  | 0x04 => need (fld w 5 1 == 0 && fld w 11 1 == 0 && fld w 17 1 == 0) (.vFmin g (fld w 12 5) (fld w 6 5) (fld w 0 5))
  | 0x05 => need (fld w 5 1 == 0 && fld w 11 1 == 0 && fld w 17 1 == 0) (.vFmax g (fld w 12 5) (fld w 6 5) (fld w 0 5))
  | 0x06 => need (fld w 0 6 == 0 && fld w 11 1 == 0 && fld w 17 1 == 0) (.vFabs g (fld w 12 5) (fld w 6 5))
  | 0x07 => need (fld w 5 1 == 0 && fld w 11 1 == 0 && fld w 17 1 == 0) (.vIadd g (fld w 12 5) (fld w 6 5) (fld w 0 5))
  | 0x08 => need (fld w 5 1 == 0 && fld w 11 1 == 0 && fld w 17 1 == 0) (.vIsub g (fld w 12 5) (fld w 6 5) (fld w 0 5))
  | 0x09 => need (fld w 5 1 == 0 && fld w 11 1 == 0 && fld w 17 1 == 0) (.vImul g (fld w 12 5) (fld w 6 5) (fld w 0 5))
  | 0x0a => need (fld w 5 1 == 0 && fld w 11 1 == 0 && fld w 17 1 == 0) (.vImin g (fld w 12 5) (fld w 6 5) (fld w 0 5))
  | 0x0b => need (fld w 5 1 == 0 && fld w 11 1 == 0 && fld w 17 1 == 0) (.vImax g (fld w 12 5) (fld w 6 5) (fld w 0 5))
  | 0x0c => need (fld w 5 1 == 0 && fld w 11 1 == 0 && fld w 17 1 == 0) (.vAnd g (fld w 12 5) (fld w 6 5) (fld w 0 5))
  | 0x0d => need (fld w 5 1 == 0 && fld w 11 1 == 0 && fld w 17 1 == 0) (.vOr g (fld w 12 5) (fld w 6 5) (fld w 0 5))
  | 0x0e => need (fld w 5 1 == 0 && fld w 11 1 == 0 && fld w 17 1 == 0) (.vXor g (fld w 12 5) (fld w 6 5) (fld w 0 5))
  | 0x0f => need (fld w 5 1 == 0 && fld w 11 1 == 0 && fld w 17 1 == 0) (.vShl g (fld w 12 5) (fld w 6 5) (fld w 0 5))
  | 0x10 => need (fld w 5 1 == 0 && fld w 11 1 == 0 && fld w 17 1 == 0) (.vShr g (fld w 12 5) (fld w 6 5) (fld w 0 5))
  | 0x11 => need (fld w 5 1 == 0 && fld w 11 1 == 0 && fld w 17 1 == 0) (.vSra g (fld w 12 5) (fld w 6 5) (fld w 0 5))
  | 0x12 => need (fld w 5 1 == 0 && fld w 11 1 == 0) (.vFcmp g (fld w 15 3) (fld w 12 3) (fld w 6 5) (fld w 0 5))
  | 0x13 => need (fld w 5 1 == 0 && fld w 11 1 == 0) (.vIcmp g (fld w 15 3) (fld w 12 3) (fld w 6 5) (fld w 0 5))
  | 0x14 => need (fld w 0 6 == 0 && fld w 11 1 == 0 && fld w 17 1 == 0) (.vMov g (fld w 12 5) (fld w 6 5))
  | 0x15 => need (fld w 0 6 == 0 && fld w 17 1 == 0) (.vBcast g (fld w 12 5) (fld w 6 6))
  | 0x16 => need (fld w 11 1 == 0) (.vMvs g (fld w 12 6) (fld w 6 5) (fld w 0 6))
  | 0x17 => need (fld w 17 1 == 0) (.vIns g (fld w 12 5) (fld w 6 6) (fld w 0 6))
  | 0x18 => need (fld w 5 1 == 0 && fld w 11 1 == 0 && fld w 17 1 == 0) (.vPerm g (fld w 12 5) (fld w 6 5) (fld w 0 5))
  | 0x19 => need (fld w 0 12 == 0 && fld w 17 1 == 0) (.vVid g (fld w 12 5))
  | 0x1a => need (fld w 0 6 == 0 && fld w 11 1 == 0) (.vRedsum g (fld w 12 6) (fld w 6 5))
  | 0x1b => need (fld w 0 6 == 0 && fld w 11 1 == 0) (.vRedmax g (fld w 12 6) (fld w 6 5))
  | 0x1c => need (fld w 0 6 == 0 && fld w 11 1 == 0) (.vRedmaxi g (fld w 12 6) (fld w 6 5))
  | 0x1d => need (fld w 0 6 == 0 && fld w 11 1 == 0) (.vRedmin g (fld w 12 6) (fld w 6 5))
  | 0x1e => need (fld w 2 4 == 0 && fld w 11 1 == 0 && fld w 17 1 == 0) (.vScan g (fld w 12 5) (fld w 6 5) (fld w 0 2))
  | 0x1f => need (fld w 4 2 == 0) (.vCvt g (flag w 17) (fld w 12 5) (flag w 11) (fld w 6 5) (fld w 0 4))
  | 0x20 => need (fld w 3 3 == 0 && fld w 11 1 == 0) (.vPack g (flag w 17) (fld w 12 5) (fld w 6 5) (fld w 0 3))
  | 0x21 => need (fld w 3 3 == 0 && fld w 11 1 == 0) (.vUnpk g (flag w 17) (fld w 12 5) (fld w 6 5) (fld w 0 3))
  | 0x22 => need (fld w 5 1 == 0 && fld w 11 1 == 0) (.vScal g (flag w 17) (fld w 12 5) (fld w 6 5) (fld w 0 5))
  | 0x23 => need (fld w 17 1 == 0) (.vDraw g (fld w 12 5) (fld w 6 6) (fld w 0 6))
  | 0x24 => need (fld w 0 6 == 0 && fld w 11 7 == 0) (.vChk g (fld w 6 5))
  | 0x25 => need (fld w 3 3 == 0 && fld w 9 3 == 0 && fld w 15 3 == 0) (.vMand g (fld w 12 3) (fld w 6 3) (fld w 0 3))
  | 0x26 => need (fld w 3 3 == 0 && fld w 9 3 == 0 && fld w 15 3 == 0) (.vMor g (fld w 12 3) (fld w 6 3) (fld w 0 3))
  | 0x27 => need (fld w 0 6 == 0 && fld w 9 3 == 0 && fld w 15 3 == 0) (.vMnot g (fld w 12 3) (fld w 6 3))
  | 0x28 => need (fld w 0 6 == 0 && fld w 9 3 == 0) (.vMpop g (fld w 12 6) (fld w 6 3))
  | _ => .error .unassigned

/-- Words of engine code 3 (R105). -/
def decodeX (w : Word) : Except DecodeError Instr :=
  let g := guardOf w
  match (fld w 22 7).toNat with
  | 0x00 => need (fld w 0 6 == 0 && fld w 11 1 == 0 && fld w 17 1 == 0) (.xExp2 g (fld w 12 5) (fld w 6 5))
  | 0x01 => need (fld w 0 6 == 0 && fld w 11 1 == 0 && fld w 17 1 == 0) (.xLog2 g (fld w 12 5) (fld w 6 5))
  | 0x02 => need (fld w 0 6 == 0 && fld w 11 1 == 0 && fld w 17 1 == 0) (.xRcp g (fld w 12 5) (fld w 6 5))
  | 0x03 => need (fld w 0 6 == 0 && fld w 11 1 == 0 && fld w 17 1 == 0) (.xRsqrt g (fld w 12 5) (fld w 6 5))
  | 0x04 => need (fld w 0 6 == 0 && fld w 11 1 == 0 && fld w 17 1 == 0) (.xSqrt g (fld w 12 5) (fld w 6 5))
  | 0x05 => need (fld w 0 6 == 0 && fld w 11 1 == 0 && fld w 17 1 == 0) (.xTanh g (fld w 12 5) (fld w 6 5))
  | 0x06 => need (fld w 0 6 == 0 && fld w 11 1 == 0 && fld w 17 1 == 0) (.xSigm g (fld w 12 5) (fld w 6 5))
  | _ => .error .unassigned

/-- Words of engine code 4 (R105). -/
def decodeL (w : Word) : Except DecodeError Instr :=
  let g := guardOf w
  match (fld w 22 7).toNat with
  | 0x00 => .ok (.lLds g (fld w 12 6) (fld w 6 6) (fld w 0 6))
  | 0x01 => .ok (.lSts g (fld w 12 6) (fld w 6 6) (fld w 0 6))
  | 0x02 => need (fld w 17 1 == 0) (.lLdvs g (fld w 12 5) (fld w 6 6) (fld w 0 6))
  | 0x03 => need (fld w 17 1 == 0) (.lStvs g (fld w 12 5) (fld w 6 6) (fld w 0 6))
  | 0x04 => .ok (.lLdt g (flag w 17) (flag w 16) (fld w 12 4) (fld w 6 6) (fld w 0 6))
  | 0x05 => .ok (.lAtom g (fld w 15 3) (fld w 12 3) (fld w 6 6) (fld w 0 6))
  | 0x06 => need (fld w 3 3 == 0) (.lHnew g (fld w 12 6) (fld w 6 6) (fld w 0 3))
  | 0x07 => need (fld w 0 6 == 0 && fld w 12 6 == 0) (.lHfree g (fld w 6 6))
  | 0x08 => .ok (.lHinfo g (fld w 12 6) (fld w 6 6) (fld w 0 6))
  | 0x09 => .ok (.lLdl g (flag w 17) (flag w 16) (fld w 12 4) (fld w 6 6) (fld w 0 6))
  | 0x0a => need (fld w 0 6 == 0 && fld w 12 6 == 0) (.lRel g (fld w 6 6))
  | 0x10 => .ok (.lLdg g (fld w 12 6) (flag w 11) (fld w 6 5) (fld w 0 6))
  | 0x11 => .ok (.lStg g (fld w 12 6) (fld w 6 6) (fld w 0 6))
  | 0x12 => need (fld w 17 1 == 0) (.lLdvg g (fld w 12 5) (flag w 11) (fld w 6 5) (fld w 0 6))
  | 0x13 => need (fld w 17 1 == 0) (.lStvg g (fld w 12 5) (fld w 6 6) (fld w 0 6))
  | 0x14 => .ok (.lGatom g (fld w 15 3) (fld w 12 3) (fld w 6 6) (fld w 0 6))
  | 0x15 => need (fld w 12 6 == 0) (.lPref g (fld w 6 6) (fld w 0 6))
  | 0x16 => need (fld w 17 1 == 0) (.lLdtg g (flag w 16) (fld w 12 4) (flag w 11) (fld w 6 5) (fld w 0 6))
  | 0x18 => need (fld w 17 1 == 0) (.lLdk g (flag w 16) (fld w 12 4) (flag w 11) (fld w 6 5) (fld w 0 6))
  | 0x19 => need (fld w 0 6 == 0) (.lStk g (flag w 17) (fld w 12 5) (fld w 6 6))
  | 0x1a => need (fld w 0 6 == 0) (.lKfork g (fld w 12 6) (fld w 6 6))
  | 0x1b => need (fld w 0 6 == 0 && fld w 12 6 == 0) (.lKfree g (fld w 6 6))
  | 0x1c => .ok (.lRatom g (fld w 15 3) (fld w 12 3) (fld w 6 6) (fld w 0 6))
  | 0x20 => .ok (.lBarr g (fld w 12 6) (fld w 6 6) (fld w 0 6))
  | 0x21 => .ok (.lBarw g (fld w 12 6) (fld w 6 6) (fld w 0 6))
  | 0x22 => .ok (.lBare g (fld w 12 6) (fld w 6 6) (fld w 0 6))
  | 0x23 => need (fld w 0 12 == 0 && fld w 15 1 == 0) (.lFence g (fld w 16 2) (fld w 12 3))
  | 0x24 => need (fld w 0 12 == 0 && fld w 15 3 == 0) (.lTfence g (fld w 12 3))
  | _ => .error .unassigned

/-- Words of engine code 5 (R105). -/
def decodeM (w : Word) : Except DecodeError Instr :=
  let g := guardOf w
  match (fld w 22 7).toNat with
  | 0x00 => need (fld w 5 13 == 0) (.mFuse g (fld w 0 5))
  | 0x01 => need (fld w 0 12 == 0 && fld w 16 2 == 0) (.mZero g (fld w 12 4))
  | 0x02 => need (fld w 5 1 == 0 && fld w 11 1 == 0 && fld w 17 1 == 0) (.mMma g (flag w 16) (fld w 12 4) (flag w 10) (fld w 6 4) (flag w 4) (fld w 0 4))
  | 0x03 => need (fld w 5 1 == 0 && fld w 11 1 == 0 && fld w 17 1 == 0) (.mMmaw g (flag w 16) (fld w 12 4) (flag w 10) (fld w 6 4) (flag w 4) (fld w 0 4))
  | 0x04 =>
    match (fld w 16 2).toNat with
    | 0 => .ok (.mDrain g (fld w 12 4) (fld w 6 6) (fld w 0 6))
    | 1 => need (fld w 0 6 == 0 && fld w 8 4 == 0) (.mDrainQ g (fld w 12 4) (fld w 6 2))
    | 2 => .ok (.mDrainPeer g (fld w 12 4) (fld w 6 6) (fld w 0 6))
    | _ => .error .badCode
  | 0x05 => need (fld w 0 6 == 0 && fld w 16 2 == 0) (.mScale g (fld w 12 4) (fld w 6 6))
  | 0x06 => need (fld w 1 5 == 0 && fld w 10 2 == 0) (.mDkr g (fld w 12 6) (fld w 6 4) (flag w 0))
  | 0x07 => need (fld w 16 2 == 0) (.mDkw g (fld w 12 4) (fld w 6 6) (fld w 0 6))
  | 0x08 => need (fld w 0 12 == 0 && fld w 16 2 == 0) (.mTfree g (fld w 12 4))
  | 0x09 => need (fld w 8 10 == 0) (.mMwait g (fld w 0 8))
  | 0x0a => need (fld w 15 3 == 0) (.mMsave g (fld w 12 3) (fld w 6 6) (fld w 0 6))
  | 0x0b => need (fld w 15 3 == 0) (.mMrest g (fld w 12 3) (fld w 6 6) (fld w 0 6))
  | 0x10 => need (fld w 0 6 == 0) (.mChb g (flag w 17) (flag w 16) (fld w 12 4) (fld w 6 6))
  | 0x11 => .ok (.mChs g (fld w 12 6) (fld w 6 6) (fld w 0 6))
  | 0x12 =>
    match (fld w 16 2).toNat with
    | 0 => need (fld w 0 12 == 0 && fld w 14 2 == 0) (.mCheQ g (fld w 12 2))
    | 1 => need (fld w 12 4 == 0) (.mChe g (fld w 6 6) (fld w 0 6))
    | _ => .error .badCode
  | 0x13 => need (fld w 12 6 == 0) (.mChsv g (fld w 6 6) (fld w 0 6))
  | 0x14 => need (fld w 12 6 == 0) (.mChld g (fld w 6 6) (fld w 0 6))
  | _ => .error .unassigned

/-- Words of engine code 6 (R105). -/
def decodeF (w : Word) : Except DecodeError Instr :=
  match (fld w 22 7).toNat with
  | 0x00 => need (fld w 16 2 == 0 && fld w 18 4 == 0) (.fLi (fld w 12 4) (fld w 0 12))
  | 0x01 => need (fld w 4 2 == 0 && fld w 10 2 == 0 && fld w 16 2 == 0 && fld w 18 4 == 0) (.fAdd (fld w 12 4) (fld w 6 4) (fld w 0 4))
  | 0x02 => need (fld w 18 4 == 0) (.fJmp (fld w 0 18))
  | 0x03 => need (fld w 6 6 == 0 && fld w 16 2 == 0 && fld w 18 4 == 0) (.fLoop (fld w 12 4) (fld w 0 6))
  | 0x04 => need (fld w 0 18 == 0 && fld w 18 4 == 0) (.fEnd)
  | 0x05 => need (fld w 0 6 == 0 && fld w 10 2 == 0 && fld w 16 2 == 0 && fld w 18 4 == 0) (.fCopy (fld w 12 4) (fld w 6 4))
  | 0x06 => need (fld w 0 6 == 0 && fld w 10 2 == 0 && fld w 16 2 == 0 && fld w 18 4 == 0) (.fXlist (fld w 12 4) (fld w 6 4))
  | 0x07 => need (fld w 0 6 == 0 && fld w 10 2 == 0 && fld w 16 2 == 0 && fld w 18 4 == 0) (.fGath (fld w 12 4) (fld w 6 4))
  | 0x08 => need (fld w 0 6 == 0 && fld w 10 2 == 0 && fld w 16 2 == 0 && fld w 18 4 == 0) (.fScat (fld w 12 4) (fld w 6 4))
  | 0x09 => need (fld w 0 6 == 0 && fld w 10 2 == 0 && fld w 16 2 == 0 && fld w 18 4 == 0) (.fKvcp (fld w 12 4) (fld w 6 4))
  | 0x0a => need (fld w 0 6 == 0 && fld w 10 2 == 0 && fld w 16 2 == 0 && fld w 18 4 == 0) (.fSvm (fld w 12 4) (fld w 6 4))
  | 0x0b => need (fld w 0 6 == 0 && fld w 10 2 == 0 && fld w 16 2 == 0 && fld w 18 4 == 0) (.fRing (fld w 12 4) (fld w 6 4))
  | 0x0c => need (fld w 2 4 == 0 && fld w 10 2 == 0 && fld w 16 2 == 0 && fld w 18 4 == 0) (.fColl (fld w 12 4) (fld w 6 4) (fld w 0 2))
  | 0x0d => need (fld w 8 4 == 0 && fld w 16 2 == 0 && fld w 18 4 == 0) (.fWait (fld w 12 4) (fld w 0 8))
  | 0x0e => need (fld w 8 4 == 0 && fld w 16 2 == 0 && fld w 18 4 == 0) (.fSig (fld w 12 4) (fld w 0 8))
  | 0x0f => need (fld w 4 2 == 0 && fld w 10 2 == 0 && fld w 16 2 == 0 && fld w 18 4 == 0) (.fBar (fld w 12 4) (fld w 6 4) (fld w 0 4))
  | 0x10 => need (fld w 0 12 == 0 && fld w 15 1 == 0 && fld w 18 4 == 0) (.fFence (fld w 16 2) (fld w 12 3))
  | _ => .error .unassigned

/-- The fields of a word, by its engine code (R91), before the checks of R92, R97 and R102 to R104. -/
def decodeFields (w : Word) : Except DecodeError Instr :=
  match (fld w 29 3).toNat with
  | 0 => decodeB w
  | 1 => decodeS w
  | 2 => decodeV w
  | 3 => decodeX w
  | 4 => decodeL w
  | 5 => decodeM w
  | 6 => decodeF w
  | _ => .ok (.pExt (fld w 0 29))

/-- The decoder: the instruction a word stands for, or why it stands for none (R106). -/
def decodeWord (w : Word) : Except DecodeError Instr :=
  match decodeFields w with
  | .error e => .error e
  | .ok i =>
    match Instr.problem i with
    | none => .ok i
    | some e => .error e

/-- The word at the head of a list of bytes, little-endian (R4, R90), and the bytes that follow it. -/
def decodeBytes : List Byte → Except DecodeError (Instr × List Byte)
  | b0 :: b1 :: b2 :: b3 :: rest =>
    match decodeWord (b3 ++ b2 ++ b1 ++ b0) with
    | .ok i => .ok (i, rest)
    | .error e => .error e
  | _ => .error .short

/-- The little-endian bytes of a word (R4). -/
def bytesOfWord (w : Word) : List Byte := [fld w 0 8, fld w 8 8, fld w 16 8, fld w 24 8]

/-- What this decoder reads from a table row's word: the word is laid out in memory order and decoded. -/
def decodeTableWord (_nbits w : Nat) : Option Instr :=
  match decodeBytes (bytesOfWord (BitVec.ofNat 32 w)) with
  | .ok (i, _) => some i
  | .error _ => none

/-- One bit as a number. -/
def bit (b : Bool) : Nat := if b then 1 else 0

/-- A word from its engine code, opcode, guard bits and operand bits (R90). -/
def packWord (eng op : Nat) (g : Guard) (opnd : Nat) : Word :=
  BitVec.ofNat 32 (eng * 0x20000000 + op * 0x400000 + bit g.neg * 0x200000 + g.reg.toNat * 0x40000 + opnd)

/-- An F word carries no guard (R92). -/
def packF (op opnd : Nat) : Word := BitVec.ofNat 32 (0xC0000000 + op * 0x400000 + opnd)

/-- The words of engine code 0 (R105). -/
def encodeB : Instr → Option Word
  | .bNop g => some (packWord 0 0x00 g (0))
  | .bJmp g i => some (packWord 0 0x01 g (i.toNat))
  | .bJmpr g a => some (packWord 0 0x02 g (a.toNat * 0x40))
  | .bCall g i => some (packWord 0 0x03 g (i.toNat))
  | .bCallr g a => some (packWord 0 0x04 g (a.toNat * 0x40))
  | .bRet g => some (packWord 0 0x05 g (0))
  | .bLoop g s k a i => some (packWord 0 0x06 g (s.toNat * 0x4000 + k.toNat * 0x1000 + a.toNat * 0x40 + i.toNat))
  | .bLbrk g k => some (packWord 0 0x07 g (k.toNat * 0x1000))
  | .bHalt g => some (packWord 0 0x08 g (0))
  | .bYield g => some (packWord 0 0x09 g (0))
  | .bSleep g a => some (packWord 0 0x0a g (a.toNat * 0x40))
  | .bArm g i => some (packWord 0 0x0b g (i.toNat))
  | .bMsg g d a c => some (packWord 0 0x0c g (d.toNat * 0x1000 + a.toNat * 0x40 + c.toNat))
  | .bTrap g i => some (packWord 0 0x0d g (i.toNat))
  | .bSys g i => some (packWord 0 0x0e g (i.toNat))
  | .bRfe g => some (packWord 0 0x0f g (0))
  | .bFmt g k b => some (packWord 0 0x10 g (k.toNat * 0x1000 + b.toNat))
  | .bPpt g => some (packWord 0 0x11 g (0))
  | .bPost g a => some (packWord 0 0x12 g (a.toNat * 0x40))
  | .bTdec g a => some (packWord 0 0x13 g (a.toNat * 0x40))
  | .bCancel g a b => some (packWord 0 0x14 g (a.toNat * 0x40 + b.toNat))
  | .bCancelL g a b => some (packWord 0 0x14 g (a.toNat * 0x40 + b.toNat + 0x1000))
  | .bLaunch g a => some (packWord 0 0x15 g (a.toNat * 0x40))
  | .bWait g d v => some (packWord 0 0x16 g (d.toNat * 0x1000 + v.toNat))
  | .bSig g d v => some (packWord 0 0x17 g (d.toNat * 0x1000 + v.toNat))
  | .bSmap g a b => some (packWord 0 0x18 g (a.toNat * 0x40 + b.toNat))
  | _ => none

/-- The words of engine code 1 (R105). -/
def encodeS : Instr → Option Word
  | .sAdd g d a b => some (packWord 1 0x00 g (d.toNat * 0x1000 + a.toNat * 0x40 + b.toNat))
  | .sSub g d a b => some (packWord 1 0x01 g (d.toNat * 0x1000 + a.toNat * 0x40 + b.toNat))
  | .sAddi g d a i => some (packWord 1 0x02 g (d.toNat * 0x1000 + a.toNat * 0x40 + i.toNat))
  | .sMul g d a b => some (packWord 1 0x03 g (d.toNat * 0x1000 + a.toNat * 0x40 + b.toNat))
  | .sMulh g d a b => some (packWord 1 0x04 g (d.toNat * 0x1000 + a.toNat * 0x40 + b.toNat))
  | .sMulhn g d a b => some (packWord 1 0x05 g (d.toNat * 0x1000 + a.toNat * 0x40 + b.toNat))
  | .sDiv g d a b => some (packWord 1 0x06 g (d.toNat * 0x1000 + a.toNat * 0x40 + b.toNat))
  | .sDivn g d a b => some (packWord 1 0x07 g (d.toNat * 0x1000 + a.toNat * 0x40 + b.toNat))
  | .sRem g d a b => some (packWord 1 0x08 g (d.toNat * 0x1000 + a.toNat * 0x40 + b.toNat))
  | .sRemn g d a b => some (packWord 1 0x09 g (d.toNat * 0x1000 + a.toNat * 0x40 + b.toNat))
  | .sAnd g d a b => some (packWord 1 0x0a g (d.toNat * 0x1000 + a.toNat * 0x40 + b.toNat))
  | .sOr g d a b => some (packWord 1 0x0b g (d.toNat * 0x1000 + a.toNat * 0x40 + b.toNat))
  | .sXor g d a b => some (packWord 1 0x0c g (d.toNat * 0x1000 + a.toNat * 0x40 + b.toNat))
  | .sAndn g d a b => some (packWord 1 0x0d g (d.toNat * 0x1000 + a.toNat * 0x40 + b.toNat))
  | .sShl g d a b => some (packWord 1 0x0e g (d.toNat * 0x1000 + a.toNat * 0x40 + b.toNat))
  | .sShr g d a b => some (packWord 1 0x0f g (d.toNat * 0x1000 + a.toNat * 0x40 + b.toNat))
  | .sSra g d a b => some (packWord 1 0x10 g (d.toNat * 0x1000 + a.toNat * 0x40 + b.toNat))
  | .sRot g d a b => some (packWord 1 0x11 g (d.toNat * 0x1000 + a.toNat * 0x40 + b.toNat))
  | .sShli g d a c => some (packWord 1 0x12 g (d.toNat * 0x1000 + a.toNat * 0x40 + c.toNat))
  | .sShri g d a c => some (packWord 1 0x13 g (d.toNat * 0x1000 + a.toNat * 0x40 + c.toNat))
  | .sSrai g d a c => some (packWord 1 0x14 g (d.toNat * 0x1000 + a.toNat * 0x40 + c.toNat))
  | .sMin g d a b => some (packWord 1 0x15 g (d.toNat * 0x1000 + a.toNat * 0x40 + b.toNat))
  | .sMax g d a b => some (packWord 1 0x16 g (d.toNat * 0x1000 + a.toNat * 0x40 + b.toNat))
  | .sMinn g d a b => some (packWord 1 0x17 g (d.toNat * 0x1000 + a.toNat * 0x40 + b.toNat))
  | .sMaxn g d a b => some (packWord 1 0x18 g (d.toNat * 0x1000 + a.toNat * 0x40 + b.toNat))
  | .sClz g d a => some (packWord 1 0x19 g (d.toNat * 0x1000 + a.toNat * 0x40))
  | .sPopc g d a => some (packWord 1 0x1a g (d.toNat * 0x1000 + a.toNat * 0x40))
  | .sExt g d a b => some (packWord 1 0x1b g (d.toNat * 0x1000 + a.toNat * 0x40 + b.toNat))
  | .sIns g d a b => some (packWord 1 0x1c g (d.toNat * 0x1000 + a.toNat * 0x40 + b.toNat))
  | .sMov g d a => some (packWord 1 0x1d g (d.toNat * 0x1000 + a.toNat * 0x40))
  | .sLi g d i => some (packWord 1 0x1e g (d.toNat * 0x1000 + i.toNat))
  | .sCmp g c p a b => some (packWord 1 0x20 g (c.toNat * 0x8000 + p.toNat * 0x1000 + a.toNat * 0x40 + b.toNat))
  | .sCmpi g c p a i => some (packWord 1 0x21 g (c.toNat * 0x8000 + p.toNat * 0x1000 + a.toNat * 0x40 + i.toNat))
  | .sPand g d a b => some (packWord 1 0x22 g (d.toNat * 0x1000 + a.toNat * 0x40 + b.toNat))
  | .sPor g d a b => some (packWord 1 0x23 g (d.toNat * 0x1000 + a.toNat * 0x40 + b.toNat))
  | .sPxor g d a b => some (packWord 1 0x24 g (d.toNat * 0x1000 + a.toNat * 0x40 + b.toNat))
  | .sPnot g d a => some (packWord 1 0x25 g (d.toNat * 0x1000 + a.toNat * 0x40))
  | .sWid g d k => some (packWord 1 0x26 g (d.toNat * 0x1000 + k.toNat))
  | .sRdsr g d r => some (packWord 1 0x27 g (d.toNat * 0x1000 + r.toNat))
  | .sWrsr g d r => some (packWord 1 0x28 g (d.toNat * 0x1000 + r.toNat))
  | .sRdcyc g d => some (packWord 1 0x29 g (d.toNat * 0x1000))
  | .sChk g a => some (packWord 1 0x2a g (a.toNat * 0x40))
  | _ => none

/-- The words of engine code 2 (R105). -/
def encodeV : Instr → Option Word
  | .vFadd g d a b => some (packWord 2 0x00 g (d.toNat * 0x1000 + a.toNat * 0x40 + b.toNat))
  | .vFsub g d a b => some (packWord 2 0x01 g (d.toNat * 0x1000 + a.toNat * 0x40 + b.toNat))
  | .vFmul g d a b => some (packWord 2 0x02 g (d.toNat * 0x1000 + a.toNat * 0x40 + b.toNat))
  | .vFfma g d a b => some (packWord 2 0x03 g (d.toNat * 0x1000 + a.toNat * 0x40 + b.toNat))
  | .vFmin g d a b => some (packWord 2 0x04 g (d.toNat * 0x1000 + a.toNat * 0x40 + b.toNat))
  | .vFmax g d a b => some (packWord 2 0x05 g (d.toNat * 0x1000 + a.toNat * 0x40 + b.toNat))
  | .vFabs g d a => some (packWord 2 0x06 g (d.toNat * 0x1000 + a.toNat * 0x40))
  | .vIadd g d a b => some (packWord 2 0x07 g (d.toNat * 0x1000 + a.toNat * 0x40 + b.toNat))
  | .vIsub g d a b => some (packWord 2 0x08 g (d.toNat * 0x1000 + a.toNat * 0x40 + b.toNat))
  | .vImul g d a b => some (packWord 2 0x09 g (d.toNat * 0x1000 + a.toNat * 0x40 + b.toNat))
  | .vImin g d a b => some (packWord 2 0x0a g (d.toNat * 0x1000 + a.toNat * 0x40 + b.toNat))
  | .vImax g d a b => some (packWord 2 0x0b g (d.toNat * 0x1000 + a.toNat * 0x40 + b.toNat))
  | .vAnd g d a b => some (packWord 2 0x0c g (d.toNat * 0x1000 + a.toNat * 0x40 + b.toNat))
  | .vOr g d a b => some (packWord 2 0x0d g (d.toNat * 0x1000 + a.toNat * 0x40 + b.toNat))
  | .vXor g d a b => some (packWord 2 0x0e g (d.toNat * 0x1000 + a.toNat * 0x40 + b.toNat))
  | .vShl g d a b => some (packWord 2 0x0f g (d.toNat * 0x1000 + a.toNat * 0x40 + b.toNat))
  | .vShr g d a b => some (packWord 2 0x10 g (d.toNat * 0x1000 + a.toNat * 0x40 + b.toNat))
  | .vSra g d a b => some (packWord 2 0x11 g (d.toNat * 0x1000 + a.toNat * 0x40 + b.toNat))
  | .vFcmp g c d a b => some (packWord 2 0x12 g (c.toNat * 0x8000 + d.toNat * 0x1000 + a.toNat * 0x40 + b.toNat))
  | .vIcmp g c d a b => some (packWord 2 0x13 g (c.toNat * 0x8000 + d.toNat * 0x1000 + a.toNat * 0x40 + b.toNat))
  | .vMov g d a => some (packWord 2 0x14 g (d.toNat * 0x1000 + a.toNat * 0x40))
  | .vBcast g d a => some (packWord 2 0x15 g (d.toNat * 0x1000 + a.toNat * 0x40))
  | .vMvs g d a b => some (packWord 2 0x16 g (d.toNat * 0x1000 + a.toNat * 0x40 + b.toNat))
  | .vIns g d a b => some (packWord 2 0x17 g (d.toNat * 0x1000 + a.toNat * 0x40 + b.toNat))
  | .vPerm g d a b => some (packWord 2 0x18 g (d.toNat * 0x1000 + a.toNat * 0x40 + b.toNat))
  | .vVid g d => some (packWord 2 0x19 g (d.toNat * 0x1000))
  | .vRedsum g d a => some (packWord 2 0x1a g (d.toNat * 0x1000 + a.toNat * 0x40))
  | .vRedmax g d a => some (packWord 2 0x1b g (d.toNat * 0x1000 + a.toNat * 0x40))
  | .vRedmaxi g d a => some (packWord 2 0x1c g (d.toNat * 0x1000 + a.toNat * 0x40))
  | .vRedmin g d a => some (packWord 2 0x1d g (d.toNat * 0x1000 + a.toNat * 0x40))
  | .vScan g d a o => some (packWord 2 0x1e g (d.toNat * 0x1000 + a.toNat * 0x40 + o.toNat))
  | .vCvt g t d w a c => some (packWord 2 0x1f g (bit t * 0x20000 + d.toNat * 0x1000 + bit w * 0x800 + a.toNat * 0x40 + c.toNat))
  | .vPack g t d a k => some (packWord 2 0x20 g (bit t * 0x20000 + d.toNat * 0x1000 + a.toNat * 0x40 + k.toNat))
  | .vUnpk g t d a k => some (packWord 2 0x21 g (bit t * 0x20000 + d.toNat * 0x1000 + a.toNat * 0x40 + k.toNat))
  | .vScal g t d a b => some (packWord 2 0x22 g (bit t * 0x20000 + d.toNat * 0x1000 + a.toNat * 0x40 + b.toNat))
  | .vDraw g d a b => some (packWord 2 0x23 g (d.toNat * 0x1000 + a.toNat * 0x40 + b.toNat))
  | .vChk g a => some (packWord 2 0x24 g (a.toNat * 0x40))
  | .vMand g d a b => some (packWord 2 0x25 g (d.toNat * 0x1000 + a.toNat * 0x40 + b.toNat))
  | .vMor g d a b => some (packWord 2 0x26 g (d.toNat * 0x1000 + a.toNat * 0x40 + b.toNat))
  | .vMnot g d a => some (packWord 2 0x27 g (d.toNat * 0x1000 + a.toNat * 0x40))
  | .vMpop g d a => some (packWord 2 0x28 g (d.toNat * 0x1000 + a.toNat * 0x40))
  | _ => none

/-- The words of engine code 3 (R105). -/
def encodeX : Instr → Option Word
  | .xExp2 g d a => some (packWord 3 0x00 g (d.toNat * 0x1000 + a.toNat * 0x40))
  | .xLog2 g d a => some (packWord 3 0x01 g (d.toNat * 0x1000 + a.toNat * 0x40))
  | .xRcp g d a => some (packWord 3 0x02 g (d.toNat * 0x1000 + a.toNat * 0x40))
  | .xRsqrt g d a => some (packWord 3 0x03 g (d.toNat * 0x1000 + a.toNat * 0x40))
  | .xSqrt g d a => some (packWord 3 0x04 g (d.toNat * 0x1000 + a.toNat * 0x40))
  | .xTanh g d a => some (packWord 3 0x05 g (d.toNat * 0x1000 + a.toNat * 0x40))
  | .xSigm g d a => some (packWord 3 0x06 g (d.toNat * 0x1000 + a.toNat * 0x40))
  | _ => none

/-- The words of engine code 4 (R105). -/
def encodeL : Instr → Option Word
  | .lLds g d a b => some (packWord 4 0x00 g (d.toNat * 0x1000 + a.toNat * 0x40 + b.toNat))
  | .lSts g d a b => some (packWord 4 0x01 g (d.toNat * 0x1000 + a.toNat * 0x40 + b.toNat))
  | .lLdvs g d a b => some (packWord 4 0x02 g (d.toNat * 0x1000 + a.toNat * 0x40 + b.toNat))
  | .lStvs g d a b => some (packWord 4 0x03 g (d.toNat * 0x1000 + a.toNat * 0x40 + b.toNat))
  | .lLdt g k c d a b => some (packWord 4 0x04 g (bit k * 0x20000 + bit c * 0x10000 + d.toNat * 0x1000 + a.toNat * 0x40 + b.toNat))
  | .lAtom g o j a b => some (packWord 4 0x05 g (o.toNat * 0x8000 + j.toNat * 0x1000 + a.toNat * 0x40 + b.toNat))
  | .lHnew g d a p => some (packWord 4 0x06 g (d.toNat * 0x1000 + a.toNat * 0x40 + p.toNat))
  | .lHfree g a => some (packWord 4 0x07 g (a.toNat * 0x40))
  | .lHinfo g d a i => some (packWord 4 0x08 g (d.toNat * 0x1000 + a.toNat * 0x40 + i.toNat))
  | .lLdl g k c d a b => some (packWord 4 0x09 g (bit k * 0x20000 + bit c * 0x10000 + d.toNat * 0x1000 + a.toNat * 0x40 + b.toNat))
  | .lRel g a => some (packWord 4 0x0a g (a.toNat * 0x40))
  | .lLdg g d s b c => some (packWord 4 0x10 g (d.toNat * 0x1000 + bit s * 0x800 + b.toNat * 0x40 + c.toNat))
  | .lStg g d a b => some (packWord 4 0x11 g (d.toNat * 0x1000 + a.toNat * 0x40 + b.toNat))
  | .lLdvg g d s b c => some (packWord 4 0x12 g (d.toNat * 0x1000 + bit s * 0x800 + b.toNat * 0x40 + c.toNat))
  | .lStvg g d a b => some (packWord 4 0x13 g (d.toNat * 0x1000 + a.toNat * 0x40 + b.toNat))
  | .lGatom g o j a c => some (packWord 4 0x14 g (o.toNat * 0x8000 + j.toNat * 0x1000 + a.toNat * 0x40 + c.toNat))
  | .lPref g a b => some (packWord 4 0x15 g (a.toNat * 0x40 + b.toNat))
  | .lLdtg g k d s b c => some (packWord 4 0x16 g (bit k * 0x10000 + d.toNat * 0x1000 + bit s * 0x800 + b.toNat * 0x40 + c.toNat))
  | .lLdk g v d s b c => some (packWord 4 0x18 g (bit v * 0x10000 + d.toNat * 0x1000 + bit s * 0x800 + b.toNat * 0x40 + c.toNat))
  | .lStk g v d a => some (packWord 4 0x19 g (bit v * 0x20000 + d.toNat * 0x1000 + a.toNat * 0x40))
  | .lKfork g d a => some (packWord 4 0x1a g (d.toNat * 0x1000 + a.toNat * 0x40))
  | .lKfree g a => some (packWord 4 0x1b g (a.toNat * 0x40))
  | .lRatom g o j a c => some (packWord 4 0x1c g (o.toNat * 0x8000 + j.toNat * 0x1000 + a.toNat * 0x40 + c.toNat))
  | .lBarr g d a b => some (packWord 4 0x20 g (d.toNat * 0x1000 + a.toNat * 0x40 + b.toNat))
  | .lBarw g d a b => some (packWord 4 0x21 g (d.toNat * 0x1000 + a.toNat * 0x40 + b.toNat))
  | .lBare g d a b => some (packWord 4 0x22 g (d.toNat * 0x1000 + a.toNat * 0x40 + b.toNat))
  | .lFence g k s => some (packWord 4 0x23 g (k.toNat * 0x10000 + s.toNat * 0x1000))
  | .lTfence g s => some (packWord 4 0x24 g (s.toNat * 0x1000))
  | _ => none

/-- The words of engine code 5 (R105). -/
def encodeM : Instr → Option Word
  | .mFuse g s => some (packWord 5 0x00 g (s.toNat))
  | .mZero g k => some (packWord 5 0x01 g (k.toNat * 0x1000))
  | .mMma g f k r i q j => some (packWord 5 0x02 g (bit f * 0x10000 + k.toNat * 0x1000 + bit r * 0x400 + i.toNat * 0x40 + bit q * 0x10 + j.toNat))
  | .mMmaw g f k r i q j => some (packWord 5 0x03 g (bit f * 0x10000 + k.toNat * 0x1000 + bit r * 0x400 + i.toNat * 0x40 + bit q * 0x10 + j.toNat))
  | .mDrain g k a b => some (packWord 5 0x04 g (k.toNat * 0x1000 + a.toNat * 0x40 + b.toNat))
  | .mDrainQ g k y => some (packWord 5 0x04 g (k.toNat * 0x1000 + y.toNat * 0x40 + 0x10000))
  | .mDrainPeer g k a b => some (packWord 5 0x04 g (k.toNat * 0x1000 + a.toNat * 0x40 + b.toNat + 0x20000))
  | .mScale g k a => some (packWord 5 0x05 g (k.toNat * 0x1000 + a.toNat * 0x40))
  | .mDkr g d k h => some (packWord 5 0x06 g (d.toNat * 0x1000 + k.toNat * 0x40 + bit h))
  | .mDkw g k a b => some (packWord 5 0x07 g (k.toNat * 0x1000 + a.toNat * 0x40 + b.toNat))
  | .mTfree g i => some (packWord 5 0x08 g (i.toNat * 0x1000))
  | .mMwait g m => some (packWord 5 0x09 g (m.toNat))
  | .mMsave g t a b => some (packWord 5 0x0a g (t.toNat * 0x1000 + a.toNat * 0x40 + b.toNat))
  | .mMrest g t a b => some (packWord 5 0x0b g (t.toNat * 0x1000 + a.toNat * 0x40 + b.toNat))
  | .mChb g o q i a => some (packWord 5 0x10 g (bit o * 0x20000 + bit q * 0x10000 + i.toNat * 0x1000 + a.toNat * 0x40))
  | .mChs g d a b => some (packWord 5 0x11 g (d.toNat * 0x1000 + a.toNat * 0x40 + b.toNat))
  | .mCheQ g y => some (packWord 5 0x12 g (y.toNat * 0x1000))
  | .mChe g a b => some (packWord 5 0x12 g (a.toNat * 0x40 + b.toNat + 0x10000))
  | .mChsv g a b => some (packWord 5 0x13 g (a.toNat * 0x40 + b.toNat))
  | .mChld g a b => some (packWord 5 0x14 g (a.toNat * 0x40 + b.toNat))
  | _ => none

/-- The words of engine code 6 (R105). -/
def encodeF : Instr → Option Word
  | .fLi d i => some (packF 0x00 (d.toNat * 0x1000 + i.toNat))
  | .fAdd d a b => some (packF 0x01 (d.toNat * 0x1000 + a.toNat * 0x40 + b.toNat))
  | .fJmp i => some (packF 0x02 (i.toNat))
  | .fLoop t i => some (packF 0x03 (t.toNat * 0x1000 + i.toNat))
  | .fEnd => some (packF 0x04 (0))
  | .fCopy s a => some (packF 0x05 (s.toNat * 0x1000 + a.toNat * 0x40))
  | .fXlist s a => some (packF 0x06 (s.toNat * 0x1000 + a.toNat * 0x40))
  | .fGath s a => some (packF 0x07 (s.toNat * 0x1000 + a.toNat * 0x40))
  | .fScat s a => some (packF 0x08 (s.toNat * 0x1000 + a.toNat * 0x40))
  | .fKvcp s a => some (packF 0x09 (s.toNat * 0x1000 + a.toNat * 0x40))
  | .fSvm s a => some (packF 0x0a (s.toNat * 0x1000 + a.toNat * 0x40))
  | .fRing s a => some (packF 0x0b (s.toNat * 0x1000 + a.toNat * 0x40))
  | .fColl s a m => some (packF 0x0c (s.toNat * 0x1000 + a.toNat * 0x40 + m.toNat))
  | .fWait d v => some (packF 0x0d (d.toNat * 0x1000 + v.toNat))
  | .fSig d v => some (packF 0x0e (d.toNat * 0x1000 + v.toNat))
  | .fBar v h o => some (packF 0x0f (v.toNat * 0x1000 + h.toNat * 0x40 + o.toNat))
  | .fFence k s => some (packF 0x10 (k.toNat * 0x10000 + s.toNat * 0x1000))
  | .pExt p => some (BitVec.ofNat 32 (0xE0000000 + p.toNat))
  | _ => none

/-- The encoder, written from the same tables: the word of an instruction; a step that has no encoding has none. -/
def encode (i : Instr) : Option Word :=
  encodeB i <|> encodeS i <|> encodeV i <|> encodeX i <|> encodeL i <|> encodeM i <|> encodeF i

/-- The bytes of an instruction's word, in memory order. -/
def encodeBytes (i : Instr) : Option (List Byte) := (encode i).map bytesOfWord

end Sys2Proof
end

