-- ==== Sys2Proof/Machine/Num.lean ====
section
/-! DEFINITION. Exact arithmetic and the rounding rules of the numbers chapter: storage formats (R55 to R58), rounding modes
(R65 to R68), saturation and flags (R70, R71), the Philox generator (R69), block scales (R63, R64), K-chunk addition (R77, R80),
deckle-bound arithmetic (R81 to R84) and NH codes (R60 to R62). Values are exact until a function named after a rounding. -/

namespace Sys2Proof

/-- An exact value: NaN, a signed infinity, or ± m · 2^e (m = 0 is a signed zero). -/
inductive FVal where
  | nan
  | inf (neg : Bool)
  | fin (neg : Bool) (m : Nat) (e : Int)
  deriving DecidableEq, Repr

/-- Status flags as sr.stat numbers them (R71): OVF 0, UNF 1, INX 2, NAN 3, DKX 4. -/
abbrev Flags := BitVec 5

def Flags.ovf : Flags := 1
def Flags.unf : Flags := 2
def Flags.inx : Flags := 4
def Flags.nan : Flags := 8
def Flags.dkx : Flags := 16

/-- 2^k for an integer k ≥ 0, else 1. -/
def pow2 (k : Int) : Nat := 2 ^ k.toNat

/-- A signed integer from sign and magnitude. -/
def signed (neg : Bool) (m : Nat) : Int := if neg then -(m : Int) else m

/-- The exact value of an integer times 2^e; zero is +0. -/
def FVal.ofInt (i : Int) (e : Int) : FVal := .fin (decide (i < 0)) i.natAbs e

namespace FVal

def zero : FVal := .fin false 0 0

def isNan : FVal → Bool
  | .nan => true
  | _ => false

def isInf : FVal → Bool
  | .inf _ => true
  | _ => false

def isFin : FVal → Bool
  | .fin _ _ _ => true
  | _ => false

/-- Zero of either sign. -/
def isZero : FVal → Bool
  | .fin _ m _ => m == 0
  | _ => false

def isNeg : FVal → Bool
  | .nan => false
  | .inf n => n
  | .fin n _ _ => n

def isNegZero (x : FVal) : Bool := x.isZero && x.isNeg

def neg : FVal → FVal
  | .nan => .nan
  | .inf n => .inf (!n)
  | .fin n m e => .fin (!n) m e

def abs : FVal → FVal
  | .nan => .nan
  | .inf _ => .inf false
  | .fin _ m e => .fin false m e

/-- The value times 2^k, exactly. -/
def scale2 (k : Int) : FVal → FVal
  | .fin n m e => .fin n m (e + k)
  | x => x

/-- The significand as a signed integer at exponent e0 ≤ e. -/
def intAt (e0 : Int) : FVal → Int
  | .fin n m e => signed n (m * pow2 (e - e0))
  | _ => 0

def expo : FVal → Int
  | .fin _ _ e => e
  | _ => 0

/-- The exact sum; an exact zero is +0 except (−0) + (−0) (R167). -/
def add : FVal → FVal → FVal
  | .nan, _ => .nan
  | _, .nan => .nan
  | .inf a, .inf b => if a = b then .inf a else .nan
  | .inf a, _ => .inf a
  | _, .inf b => .inf b
  | .fin n1 m1 e1, .fin n2 m2 e2 =>
    let e0 := min e1 e2
    let i := signed n1 (m1 * pow2 (e1 - e0)) + signed n2 (m2 * pow2 (e2 - e0))
    if i = 0 then .fin (n1 && n2 && m1 == 0 && m2 == 0) 0 0 else .fin (decide (i < 0)) i.natAbs e0

def sub (x y : FVal) : FVal := add x y.neg

/-- The exact product; a zero product takes the exclusive-or of the signs (R167). -/
def mul : FVal → FVal → FVal
  | .nan, _ => .nan
  | _, .nan => .nan
  | .inf a, .inf b => .inf (a != b)
  | .inf a, .fin n m _ => if m = 0 then .nan else .inf (a != n)
  | .fin n m _, .inf b => if m = 0 then .nan else .inf (n != b)
  | .fin n1 m1 e1, .fin n2 m2 e2 => .fin (n1 != n2) (m1 * m2) (e1 + e2)

/-- x < y for values that are not NaN, with −0 equal to +0. -/
def lt : FVal → FVal → Bool
  | .nan, _ => false
  | _, .nan => false
  | .inf a, .inf b => a && !b
  | .inf a, .fin _ _ _ => a
  | .fin _ _ _, .inf b => !b
  | .fin n1 m1 e1, .fin n2 m2 e2 =>
    let e0 := min e1 e2
    decide (signed n1 (m1 * pow2 (e1 - e0)) < signed n2 (m2 * pow2 (e2 - e0)))

/-- Equality of numbers; NaN equals nothing (R57). -/
def eq (x y : FVal) : Bool := !x.isNan && !y.isNan && !lt x y && !lt y x

def le (x y : FVal) : Bool := lt x y || eq x y

/-- The order of R167 and R172: −0 below +0; NaN below every number. -/
def below (x y : FVal) : Bool :=
  match x.isNan, y.isNan with
  | true, b => !b
  | false, true => false
  | false, false => lt x y || (eq x y && x.isNegZero && y.isZero && !y.isNeg)

/-- The exponent E with 2^E ≤ |x| < 2^(E+1), for a nonzero finite x. -/
def msb : FVal → Int
  | .fin _ m e => (Nat.log2 m : Int) + e
  | _ => 0

/-- The greater magnitude of two, NaN and infinities first. -/
def maxAbs (x y : FVal) : FVal :=
  if x.isNan || y.isNan then .nan else if lt x.abs y.abs then y.abs else x.abs

end FVal

/-! ### Formats (R55, R56) -/

/-- A floating format: exponent bits, fraction bits, bias, and whether all-ones exponents encode Inf and NaN (not in E4M3). -/
structure FloatFmt where
  ebits : Nat
  mbits : Nat
  bias : Nat
  ieee : Bool
  deriving DecidableEq, Repr

def FloatFmt.fp32 : FloatFmt := ⟨8, 23, 127, true⟩
def FloatFmt.bf16 : FloatFmt := ⟨8, 7, 127, true⟩
def FloatFmt.fp16 : FloatFmt := ⟨5, 10, 15, true⟩
def FloatFmt.e4m3 : FloatFmt := ⟨4, 3, 7, false⟩
def FloatFmt.e5m2 : FloatFmt := ⟨5, 2, 15, true⟩

namespace FloatFmt

def width (f : FloatFmt) : Nat := 1 + f.ebits + f.mbits

/-- The smallest normal exponent. -/
def emin (f : FloatFmt) : Int := 1 - (f.bias : Int)

/-- The all-ones exponent field. -/
def emax (f : FloatFmt) : Nat := 2 ^ f.ebits - 1

/-- The largest finite value (R55). -/
def maxFin (f : FloatFmt) : FVal :=
  if f.ieee then .fin false (2 ^ (f.mbits + 1) - 1) ((f.emax : Int) - 1 - f.bias - f.mbits)
  else .fin false (2 ^ (f.mbits + 1) - 2) ((f.emax : Int) - f.bias - f.mbits)

/-- The canonical quiet NaN (R57). -/
def nanBits (f : FloatFmt) : Nat :=
  if f.ieee then f.emax * 2 ^ f.mbits + 2 ^ (f.mbits - 1) else f.emax * 2 ^ f.mbits + 7

/-- The infinity of a format that has one, else the largest finite value. -/
def infBits (f : FloatFmt) (neg : Bool) : Nat :=
  (if neg then 2 ^ (f.ebits + f.mbits) else 0) +
    (if f.ieee then f.emax * 2 ^ f.mbits else f.emax * 2 ^ f.mbits + 6)

/-- The largest finite value of a sign. -/
def maxBits (f : FloatFmt) (neg : Bool) : Nat :=
  (if neg then 2 ^ (f.ebits + f.mbits) else 0) +
    (if f.ieee then f.emax * 2 ^ f.mbits - 1 else f.emax * 2 ^ f.mbits + 6)

/-- The exact value of an encoding (R56). -/
def decode (f : FloatFmt) (b : Nat) : FVal :=
  let neg := b / 2 ^ (f.ebits + f.mbits) % 2 == 1
  let ex := b / 2 ^ f.mbits % 2 ^ f.ebits
  let fr := b % 2 ^ f.mbits
  if f.ieee && ex == f.emax then (if fr = 0 then .inf neg else .nan)
  else if !f.ieee && ex == f.emax && fr == 7 then .nan
  else if ex = 0 then .fin neg fr (f.emin - f.mbits)
  else .fin neg (2 ^ f.mbits + fr) ((ex : Int) - f.bias - f.mbits)

/-- The encoding of ± n · 2^q with n ≤ 2^(m+1) and q at least the subnormal quantum; none when it passes the largest finite value. -/
def pack (f : FloatFmt) (neg : Bool) (n : Nat) (q : Int) : Option Nat :=
  let (n, q) := if n = 2 ^ (f.mbits + 1) then (2 ^ f.mbits, q + 1) else (n, q)
  let sg := if neg then 2 ^ (f.ebits + f.mbits) else 0
  if n < 2 ^ f.mbits then some (sg + n)
  else
    let ex := (q + f.mbits + f.bias).toNat
    let fr := n - 2 ^ f.mbits
    if f.ieee then (if f.emax ≤ ex then none else some (sg + ex * 2 ^ f.mbits + fr))
    else if f.emax < ex ∨ (ex = f.emax ∧ fr = 7) then none else some (sg + ex * 2 ^ f.mbits + fr)

end FloatFmt

/-- The exact value of FP32 bits. -/
def f32 (b : BitVec 32) : FVal := FloatFmt.fp32.decode b.toNat

/-! ### Philox (R69) -/

/-- One round of Philox4x32. -/
def philoxRound (k0 k1 : BitVec 32) (c : BitVec 32 × BitVec 32 × BitVec 32 × BitVec 32) :
    BitVec 32 × BitVec 32 × BitVec 32 × BitVec 32 :=
  let (c0, c1, c2, c3) := c
  let p0 := 0xD2511F53 * c0.toNat
  let p1 := 0xCD9E8D57 * c2.toNat
  (BitVec.ofNat 32 (p1 / 2 ^ 32) ^^^ c1 ^^^ k0, BitVec.ofNat 32 p1, BitVec.ofNat 32 (p0 / 2 ^ 32) ^^^ c3 ^^^ k1, BitVec.ofNat 32 p0)

/-- n rounds, the key stepped before every round but the first. -/
def philoxRounds : Nat → BitVec 32 → BitVec 32 → BitVec 32 × BitVec 32 × BitVec 32 × BitVec 32 →
    BitVec 32 × BitVec 32 × BitVec 32 × BitVec 32
  | 0, _, _, c => c
  | n + 1, k0, k1, c => philoxRounds n (k0 + 0x9E3779B9) (k1 + 0xBB67AE85) (philoxRound k0 k1 c)

/-- Philox4x32-10, word 0. -/
def philox (key : BitVec 64) (c0 c1 c2 c3 : BitVec 32) : BitVec 32 :=
  (philoxRounds 10 (key.extractLsb' 0 32) (key.extractLsb' 32 32) (c0, c1, c2, c3)).1

/-- What a stochastic rounding draws from: key, element index and salt (R68). -/
structure Draw where
  key : BitVec 64
  idx : BitVec 64
  salt : BitVec 32
  deriving DecidableEq, Repr

def Draw.none : Draw := ⟨0, 0, 0⟩

/-- Word 0 of the rounding draw (R68). -/
def Draw.word (d : Draw) : Nat :=
  (philox d.key (d.idx.extractLsb' 0 32) (d.idx.extractLsb' 32 32) d.salt 0xFFFFFFFF).toNat

/-! ### Rounding (R65 to R68, R70) -/

/-- The rounding modes of R65. -/
inductive RMode where
  | rne | rz | ru | rd | ef | sr
  deriving DecidableEq, Repr

/-- The mode of a rounding field; 6 and 7 are reserved. -/
def RMode.ofCode (c : Nat) : Option RMode :=
  match c with
  | 0 => some .rne
  | 1 => some .rz
  | 2 => some .ru
  | 3 => some .rd
  | 4 => some .ef
  | 5 => some .sr
  | _ => none

/-- Whether the magnitude goes up. The value is keep + (rem + sticky part) / 2^sh; n is the number of draw bits of R68. -/
def roundUp (mode : RMode) (neg : Bool) (keep rem sh : Nat) (sticky : Bool) (d : Draw) (n : Nat) : Bool :=
  let half := 2 ^ sh / 2
  match mode with
  | .rz => false
  | .ru => !neg && (rem != 0 || sticky)
  | .rd => neg && (rem != 0 || sticky)
  | .sr => decide (2 ^ n ≤ rem * 2 ^ n / 2 ^ sh + d.word / 2 ^ (32 - n)) && (rem != 0 || sticky)
  | _ => decide (half < rem) || (rem == half && (sticky || keep % 2 == 1) && sh != 0)

/-- The integer nearest ± m · 2^e in units of 2^q under a mode, with its inexactness. g is the weight exponent of R68. -/
def roundAt (mode : RMode) (neg : Bool) (m : Nat) (e : Int) (sticky : Bool) (q : Int) (d : Draw) (g : Int) : Nat × Bool :=
  if q ≤ e then
    let keep := m * pow2 (e - q)
    (if roundUp mode neg keep 0 0 sticky d 0 then keep + 1 else keep, sticky)
  else
    let sh := (q - e).toNat
    let keep := m / 2 ^ sh
    let rem := m % 2 ^ sh
    let n := min 32 (q - g).toNat
    (if roundUp mode neg keep rem sh sticky d n then keep + 1 else keep, rem != 0 || sticky)

/-- The FP32 exponent weight g of R68 for a value: its least significant significand bit in FP32. -/
def gExp (x : FVal) : Int := max x.msb (-126) - 23

/-- A rounding result: the encoding, its flags, and whether it saturated. -/
structure Rounded where
  bits : Nat
  flags : Flags
  sat : Bool
  deriving DecidableEq, Repr

/-- UNF of R71. -/
def unfFlag (f : FloatFmt) (bits : Nat) (inexact : Bool) : Flags :=
  if inexact && bits % 2 ^ f.mbits != 0 && bits / 2 ^ f.mbits % 2 ^ f.ebits == 0 then Flags.unf else 0

/-- Rounding of a finite value (with a sticky part) to FP32 as arithmetic (R70, second table). A value beyond the largest finite magnitude
sets OVF under every directed mode and SR, also where it becomes the largest finite value; under the nearest modes it overflows where
the nearest value does (log entry 11). -/
def round32Fin (mode : RMode) (neg : Bool) (m : Nat) (e : Int) (sticky : Bool) (d : Draw) (g : Int) : BitVec 32 × Flags :=
  let f := FloatFmt.fp32
  if m = 0 && !sticky then (if neg then 0x80000000 else 0, 0)
  else
    let q := max ((Nat.log2 m : Int) + e) f.emin - f.mbits
    let (n, inx) := roundAt mode neg m e sticky q d g
    let beyond := FVal.lt f.maxFin (.fin false m e) || (sticky && FVal.eq f.maxFin (.fin false m e))
    match f.pack neg n q with
    | some b => (BitVec.ofNat 32 b, (if inx then Flags.inx else 0) ||| unfFlag f b inx |||
        (if beyond && mode != .rne && mode != .ef then Flags.ovf else 0))
    | none =>
      let up := match mode with
        | .rz => false
        | .ru => !neg
        | .rd => neg
        | _ => true
      (BitVec.ofNat 32 (if up then f.infBits neg else f.maxBits neg), Flags.ovf ||| Flags.inx)

/-- Rounding to FP32 under a mode (R70). NaN becomes canonical and sets NAN. -/
def round32 (mode : RMode) (x : FVal) (d : Draw) (g : Int) : BitVec 32 × Flags :=
  match x with
  | .nan => (0x7FC00000, Flags.nan)
  | .inf neg => (BitVec.ofNat 32 (FloatFmt.fp32.infBits neg), 0)
  | .fin neg m e => round32Fin mode neg m e false d g

/-- rne32 (R8). -/
def rne32 (x : FVal) : BitVec 32 × Flags := round32 .rne x Draw.none 0

/-- bound_up (R8): toward +∞. -/
def boundUp (x : FVal) : BitVec 32 := (round32 .ru x Draw.none 0).1

/-- What a value is rounded to. -/
inductive Target where
  | fp32
  | flt (f : FloatFmt)
  | int (lo hi : Int) (w : Nat)
  | nh (k : Nat)
  deriving DecidableEq, Repr

/-- A narrowing rounding of a finite value to a floating format: beyond the largest finite magnitude it saturates (R66, R70). -/
def roundFlt (f : FloatFmt) (mode : RMode) (neg : Bool) (m : Nat) (e : Int) (d : Draw) (g : Int) : Rounded :=
  if m = 0 then ⟨if neg then 2 ^ (f.ebits + f.mbits) else 0, 0, false⟩
  else if FVal.lt f.maxFin (.fin false m e) then ⟨f.maxBits neg, Flags.ovf ||| Flags.inx, true⟩
  else
    let q := max ((Nat.log2 m : Int) + e) f.emin - f.mbits
    let (n, inx) := roundAt mode neg m e false q d g
    match f.pack neg n q with
    | some b => ⟨b, (if inx then Flags.inx else 0) ||| unfFlag f b inx, false⟩
    | none => ⟨f.maxBits neg, Flags.ovf ||| Flags.inx, true⟩

/-- The low w bits of an integer. -/
def intBits (w : Nat) (i : Int) : Nat := (i % (2 ^ w : Int)).toNat

/-- A narrowing rounding of a finite value to an integer range (R66, R70): beyond its largest magnitudes it saturates; a value between −1
and the 0 at which an unsigned range ends is rounded first, and saturates when that gives −1. -/
def roundInt (lo hi : Int) (w : Nat) (mode : RMode) (neg : Bool) (m : Nat) (e : Int) (d : Draw) (g : Int) : Rounded :=
  let x := FVal.fin neg m e
  if FVal.lt (FVal.ofInt hi 0) x then ⟨intBits w hi, Flags.ovf ||| Flags.inx, true⟩
  else if FVal.lt x (FVal.ofInt (if lo = 0 then -1 else lo) 0) then ⟨intBits w lo, Flags.ovf ||| Flags.inx, true⟩
  else
    let (n, inx) := roundAt mode neg m e false 0 d g
    if signed neg n < lo then ⟨intBits w lo, Flags.ovf ||| Flags.inx, true⟩
    else ⟨intBits w (signed neg n), if inx then Flags.inx else 0, false⟩

/-- floor of an integer times 2^e. -/
def floorShift (i : Int) (e : Int) : Int := if 0 ≤ e then i * pow2 e else i / (pow2 (-e) : Int)

/-- The NHk code that a finite y, in units of the level spacing, rounds to on the unbounded sequence of levels c + 1/2 (R66, R178). -/
def nhCode (mode : RMode) (neg : Bool) (m : Nat) (e : Int) (d : Draw) (g : Int) : Int :=
  let e1 := min e (-1)
  let twice : Int := signed neg (m * pow2 (e + 1 - e1))       -- 2·y in units of 2^e1
  let one : Int := pow2 (-e1)                                -- 1 in units of 2^e1
  let fl : Int := (twice / 2) / one
  let half : Int := one
  -- levels: 2·level = (2c + 1)·one
  let exact := decide (twice % one = 0) && decide ((twice / one) % 2 = 1)
  if exact then (twice / one - 1) / 2
  else
    let down : Int := (twice - half) / (2 * one)                -- greatest c with c + 1/2 ≤ y
    match mode with
    | .ru => down + 1
    | .rd => down
    | .rz => if twice = 0 then 0 else if neg then down + 1 - (if -half < twice then 1 else 0) else (if twice < half then 0 else down)
    | .sr =>
      if twice = 0 then 0
      else if !neg && twice < half then 0
      else if neg && -half < twice then -1
      else
        let n := min 32 (0 - g).toNat
        let lo2 : Int := if neg then (2 * (down + 1) + 1) * one else (2 * down + 1) * one
        let rem := (twice - lo2).natAbs
        let up := decide (2 ^ n ≤ rem * 2 ^ n / (2 * one.toNat) + d.word / 2 ^ (32 - n))
        if neg then (if up then down else down + 1) else (if up then down + 1 else down)
    | _ => if twice % (2 * one) = 0 then (let c := twice / (2 * one); if c % 2 = 0 then c else c - 1) else fl

/-- A narrowing rounding of a finite value, in units of the block scale, to NHk. Rounding acts on the unbounded sequence of levels, and a
result beyond the outermost level saturates (R64, R178); an x that lies beyond it and rounds back to it is no saturation, but sets OVF and
INX as R66 says of every narrowing target (log entry 11); a v.pack drops that OVF (packIssue). -/
def roundNh (k : Nat) (mode : RMode) (neg : Bool) (m : Nat) (e : Int) (d : Draw) (g : Int) : Rounded :=
  let ey := e + (k : Int) - 1
  let c := nhCode mode neg m ey d (g + (k : Int) - 1)
  let hi : Int := 2 ^ (k - 1) - 1
  let lo : Int := -(2 ^ (k - 1))
  if hi < c then ⟨intBits k hi, Flags.ovf ||| Flags.inx, true⟩
  else if c < lo then ⟨intBits k lo, Flags.ovf ||| Flags.inx, true⟩
  else if FVal.lt (FVal.ofInt (2 * hi + 1) (-1)) (.fin neg m ey) || FVal.lt (.fin neg m ey) (FVal.ofInt (2 * lo + 1) (-1)) then
    ⟨intBits k c, Flags.ovf ||| Flags.inx, false⟩
  else
    let exact := FVal.eq (.fin neg m ey) (FVal.ofInt (2 * c + 1) (-1))
    ⟨intBits k c, if exact then 0 else Flags.inx, false⟩

/-- Rounding to any target under a mode (R65, R66, R70); EF is the nearest-even step of R67. -/
def roundTo (t : Target) (mode : RMode) (x : FVal) (d : Draw) (g : Int) : Rounded :=
  match t, x with
  | .fp32, x => let (b, fl) := round32 mode x d g; ⟨b.toNat, fl, false⟩
  | .flt f, .nan => ⟨f.nanBits, Flags.nan, false⟩
  | .flt f, .inf neg => ⟨f.maxBits neg, Flags.ovf ||| Flags.inx, true⟩
  | .flt f, .fin neg m e => roundFlt f mode neg m e d g
  | .int _ _ _, .nan => ⟨0, Flags.nan, false⟩
  | .int lo hi w, .inf neg => ⟨intBits w (if neg then lo else hi), Flags.ovf ||| Flags.inx, true⟩
  | .int lo hi w, .fin neg m e => roundInt lo hi w mode neg m e d g
  | .nh _, .nan => ⟨0, Flags.nan, false⟩
  | .nh k, .inf neg => ⟨intBits k (if neg then -(2 ^ (k - 1)) else 2 ^ (k - 1) - 1), Flags.ovf ||| Flags.inx, true⟩
  | .nh k, .fin neg m e => roundNh k mode neg m e d g

/-- A k-bit field read as two's complement. -/
def sextNat (k b : Nat) : Int := if b % 2 ^ k < 2 ^ (k - 1) then (b % 2 ^ k : Int) else (b % 2 ^ k : Int) - 2 ^ k

/-- The exact value of an encoding of a target; NH in units of the block scale (R60, R62). -/
def Target.value (t : Target) (b : Nat) : FVal :=
  match t with
  | .fp32 => FloatFmt.fp32.decode b
  | .flt f => f.decode b
  | .int lo _ w => FVal.ofInt (if lo < 0 then sextNat w b else (b : Int)) 0
  | .nh k => FVal.ofInt (2 * sextNat k b + 1) (-(k : Int))

/-- The bits one element of a target takes. -/
def Target.width : Target → Nat
  | .fp32 => 32
  | .flt f => f.width
  | .int _ _ w => w
  | .nh k => k

/-- The target of a format code (R55); NH takes its plane count. FP32x2 and reserved codes have none here. -/
def Target.ofCode (c k : Nat) : Option Target :=
  match c with
  | 0 => some .fp32
  | 1 => some (.flt .bf16)
  | 2 => some (.flt .fp16)
  | 3 => some (.flt .e4m3)
  | 4 => some (.flt .e5m2)
  | 5 => some (.nh k)
  | 6 => some (.int (-128) 127 8)
  | 7 => some (.int (-32768) 32767 16)
  | 8 => some (.int (-2147483648) 2147483647 32)
  | 9 => some (.int 0 255 8)
  | 10 => some (.int 0 65535 16)
  | _ => none

/-- One element of a block under error feedback (R67): its rounding and the next residual. With no residual a zero stays as it is, −0
included, as a representable value does under every mode (R66; DEDUCED, log entry 12). -/
def efStep (t : Target) (resid : FVal) (x : FVal) : Rounded × FVal :=
  let (yb, yfl) := rne32 (if x.isZero && resid.isZero then x else x.add resid)
  let y := f32 yb
  let r := roundTo t .rne y Draw.none 0
  let next := if !y.isFin || r.sat then FVal.zero else f32 (rne32 (y.sub (t.value r.bits))).1
  let inexact := x.isFin && y.isFin && !FVal.eq x (t.value r.bits)
  let unf := match t with
    | .flt f => unfFlag f r.bits (inexact && !r.sat)
    | .fp32 => unfFlag .fp32 r.bits inexact
    | _ => 0
  ({ r with flags := (r.flags &&& (Flags.ovf ||| Flags.nan)) ||| (if inexact || r.sat then Flags.inx else 0) ||| unf |||
      (if x.isFin then yfl &&& (Flags.ovf ||| (if y.isFin then 0 else Flags.inx)) else 0) }, next)

/-- A block under error feedback (R67). -/
def efBlock (t : Target) : FVal → List FVal → List Rounded
  | _, [] => []
  | resid, x :: r => let (q, nx) := efStep t resid x; q :: efBlock t nx r

/-- The roundings of a block of elements under a mode; each element has its draw and its weight exponent. -/
def roundBlock (t : Target) (mode : RMode) (xs : List (FVal × Draw × Int)) : List Rounded :=
  match mode with
  | .ef => efBlock t FVal.zero (xs.map (·.1))
  | m => xs.map (fun x => roundTo t m x.1 x.2.1 x.2.2)

/-! ### Block scales (R63, R64) -/

/-- The factor of a scale byte: none for a zero block, NaN for a NaN block (R63). -/
def applyScale (e : BitVec 8) (x : FVal) : FVal :=
  if e = 0 then FVal.zero else if e = 0xFF then .nan else x.scale2 ((e.toNat : Int) - 127)

/-- The largest magnitude of a list of finite or infinite values. -/
def maxMag (xs : List FVal) : FVal := xs.foldl (fun a x => if FVal.lt a x.abs then x.abs else a) FVal.zero

/-- The least e in lo … lo + n for which p holds, else 254. -/
def leastScale (p : Nat → Bool) : Nat → Nat → Nat
  | _, 0 => 254
  | e, n + 1 => if p e then e else leastScale p (e + 1) n

/-- The scale byte chosen for a block of exact values (R64). -/
def chooseScale (t : Target) (xs : List FVal) : BitVec 8 :=
  if xs.any FVal.isNan then 0xFF
  else if xs.all FVal.isZero then 0
  else
    let mx := maxMag xs
    let ok (e : Nat) : Bool :=
      match t with
      | .nh _ => FVal.lt mx (.fin false 1 ((e : Int) - 127))
      | .flt f => FVal.le mx (f.maxFin.scale2 ((e : Int) - 127))
      | _ => true
    BitVec.ofNat 8 (leastScale ok 1 254)

/-! ### K-chunks (R77, R80) -/

/-- The specials of add_chunk: NaN or an infinity, or none when all is finite. -/
def chunkSpecial (acc : FVal) (ps : List FVal) : Option FVal :=
  let all := acc :: ps
  let pos := all.any (fun x => x == .inf false)
  let neg := all.any (fun x => x == .inf true)
  if all.any FVal.isNan || (pos && neg) then some .nan
  else if pos then some (.inf false) else if neg then some (.inf true) else none

/-- The exact sum of a list of finite values. -/
def exactSum (ps : List FVal) : FVal := ps.foldl FVal.add (.fin false 0 0)

/-- add_chunk (R77): the new accumulator element and its flags (OVF and NAN only, R72). -/
def addChunk (acc : BitVec 32) (ps : List FVal) : BitVec 32 × Flags :=
  let a := f32 acc
  match chunkSpecial a ps with
  | some .nan => (0x7FC00000, Flags.nan)
  | some x => ((rne32 x).1, 0)
  | none =>
    let x := a.add (exactSum ps)
    if x.isZero then (if a.isNegZero && ps.all FVal.isNegZero then 0x80000000 else 0, 0)
    else let (b, fl) := rne32 x; (b, fl &&& (Flags.ovf ||| Flags.nan))

/-- add_chunk_wide (R80): hi, lo and the flags. -/
def addChunkWide (hi lo : BitVec 32) (ps : List FVal) : BitVec 32 × BitVec 32 × Flags :=
  let a := (f32 hi).add (f32 lo)
  match chunkSpecial a ps with
  | some .nan => (0x7FC00000, 0, Flags.nan)
  | some x => ((rne32 x).1, 0, 0)
  | none =>
    let x := a.add (exactSum ps)
    let (h, fl) := rne32 x
    if (f32 h).isFin then (h, (rne32 (x.sub (f32 h))).1, fl &&& (Flags.ovf ||| Flags.nan)) else (h, 0, fl &&& (Flags.ovf ||| Flags.nan))

/-! ### Deckle bounds (R81 to R84) -/

/-- a ⊕↑ b (R8) on stored bounds, b taken exactly. -/
def bAdd (a : BitVec 32) (b : FVal) : BitVec 32 :=
  let x := (f32 a).add b
  if x.isNan then 0x7F800000 else boundUp x

/-- +Inf, the bound of a tile with a NaN or an infinity (R81). -/
def bInf : BitVec 32 := 0x7F800000

/-- A bound that has passed the largest FP32 value, its old value and all it was computed from being finite, has overflowed: OVF (R70). -/
def boundOvf (finite : Bool) (b : BitVec 32) : Flags := if finite && b == bInf then Flags.ovf else 0

/-- A bound, as a stored word, is finite. -/
def boundFin (b : BitVec 32) : Bool := decide (b.toNat % 2 ^ 31 < 0x7F800000)

/-- The chunk term 2^(Emax − s), or 2^−150 below 2^−126 (R82). -/
def emaxTerm (mx : FVal) (s : Int) : FVal :=
  if mx.isZero || decide (mx.msb < -126) then .fin false 1 (-150) else .fin false 1 (mx.msb - s)

/-- ulp(M) of a target without block scales (R83). -/
def ulpOf (t : Target) (mx : FVal) : FVal :=
  let f (fm : FloatFmt) : FVal :=
    let e := if mx.isZero then fm.emin else max mx.msb fm.emin
    .fin false 1 (e - fm.mbits)
  match t with
  | .fp32 => f .fp32
  | .flt fm => f fm
  | .int _ _ _ => .fin false 1 0
  | .nh k => .fin false 1 (1 - (k : Int))

/-! ### Pairwise order helpers -/

/-- fmin and fmax of R167: the operand returned and the flags. -/
def fminmax (wantMax : Bool) (x y : BitVec 32) : BitVec 32 × Flags :=
  let a := f32 x
  let b := f32 y
  match a.isNan, b.isNan with
  | true, true => (0x7FC00000, Flags.nan)
  | true, false => (y, 0)
  | false, true => (x, 0)
  | false, false => if wantMax then (if FVal.below a b then y else x, 0) else (if FVal.below b a then y else x, 0)

end Sys2Proof
end

