-- ==== Sys2Proof/Machine/Codes.lean ====
section
/-! DEFINITION. Numbers that several chapters share: fault codes (R396), statuses (R377, R341), fixed times and addresses. -/

namespace Sys2Proof

/-- Fault codes (R396). -/
abbrev Code := BitVec 6

namespace Code
def illegal : Code := 0x01
def priv : Code := 0x02
def prefixFault : Code := 0x03
def align : Code := 0x04
def poison : Code := 0x05
def page : Code := 0x06
def prot : Code := 0x07
def quota : Code := 0x08
def handle : Code := 0x09
def bounds : Code := 0x0A
def qdead : Code := 0x0B
def matshape : Code := 0x0C
def chain : Code := 0x0D
def deckle : Code := 0x0E
def depunder : Code := 0x0F
def taskrec : Code := 0x10
def semmap : Code := 0x11
def barrier : Code := 0x12
def kvinteg : Code := 0x13
def forkdepth : Code := 0x14
def window : Code := 0x15
def flume : Code := 0x16
def fabric : Code := 0x17
def swtrap : Code := 0x18
def sys : Code := 0x19
def preempt : Code := 0x1A
def watchdog : Code := 0x1B
end Code

/-- Engine codes (R91). -/
def engB : Nat := 0
def engS : Nat := 1
def engV : Nat := 2
def engX : Nat := 3
def engL : Nat := 4
def engM : Nat := 5
def engF : Nat := 6

/-- Bytes of a frame and frames of a slice (R310). -/
def frameBytes : Nat := 65536
def sliceFrames : Nat := 49152

/-- Tf of a scope (R288). -/
def scopeTf (sc : Nat) : Nat := if sc = 0 then 2 else if sc = 1 then 8 else if sc = 2 then 40 else if sc = 3 then 120 else 400

/-- Tt of a scope (R288). -/
def scopeTt (sc : Nat) : Nat := if sc = 0 then 8 else if sc = 1 then 16 else if sc = 2 then 64 else if sc = 3 then 192 else 400

/-- The die of a cell, and the bulkhead of a cell (R12). -/
def dieOf (cell : Nat) : Nat := cell / 32
def bhOf (cell : Nat) : Nat := cell / 2

/-- The VA of the management region in VF0's space (R424). -/
def mgmtVa : Nat := 0x8000000000

end Sys2Proof
end

