-- ==== Sys2Proof/Machine/State.lean ====
section
/-! DEFINITION. The state of the machine, as plain data: strands, cells, bulkheads, virtual functions and the device, with every
piece of state that the spec names (INVENTORY.md lists each with its rule), and State.reset, the machine at the end of the device
reset of R395. A Table lists the entries that differ from a default; the fields' docstrings name the rules. -/

namespace Sys2Proof.Machine

open Sys2Proof

/-! ### Strands -/

/-- A scalar register or queue entry: its value and its poison tag (R142, R157). -/
structure Sval where
  val : Dword := 0
  tag : Option Code := none
  deriving DecidableEq, Repr

/-- A vector register: its lanes and its poison tag, a code and a VA (R159, R161). -/
structure Vreg where
  val : Vec := 0
  tag : Option (Code × BitVec 60) := none
  deriving DecidableEq, Repr

/-- The loop state of one counter (R121); j is also the value of lc_k. -/
structure Loop where
  act : Bool := false
  start : Dword := 0
  last : Dword := 0
  n : BitVec 3 := 0
  lo : BitVec 32 := 0
  hi : BitVec 32 := 0
  tgt : BitVec 32 := 0
  j : BitVec 32 := 0
  deriving DecidableEq, Repr

/-- A word in an engine queue with its prefix, address and tags (R43, R101, R123, R126, R401). seq is its place in fetch order. -/
structure Entry where
  word : Word := 0
  pfx : Option (BitVec 29) := none
  addr : Dword := 0
  lcTag : BitVec 32 := 0
  ftbTag : BitVec 6 := 0
  stages : Option (BitVec 3 × BitVec 7) := none
  marker : Option Code := none
  seq : Nat := 0
  /-- its engine has selected it, and its guard has been read and is true (R93) -/
  passed : Bool := false
  deriving DecidableEq, Repr

/-- A result that an issued word will write (R50, R145, R165). -/
inductive PendW where
  /-- a scalar register or, for s48 to s55, a push -/
  | s (r : BitVec 6) (v : Sval)
  /-- the release of a reserved queue entry without a push (R163) -/
  | unreserve (r : BitVec 6)
  | p (i : BitVec 3) (v : Bool)
  | m (i : BitVec 3) (v mask : Dword)
  /-- lanes selected by mask, and the new tag (none: unchanged) (R161) -/
  | v (d : BitVec 5) (val : Vec) (mask : Dword) (tag : Option (Option (Code × BitVec 60)))
  | stat (f : BitVec 5)
  | sr (n : BitVec 12) (v : Dword)
  /-- semm.sel of a VF (R295) -/
  | semm (vf : BitVec 7) (sel : BitVec 8)
  deriving DecidableEq, Repr

/-- A result in flight: due cycle, engine and issue order (R143). -/
structure Pend where
  due : Nat
  eng : Nat
  ord : Nat
  /-- the place of its word in fetch order -/
  seq : Nat := 0
  w : PendW
  deriving DecidableEq, Repr

/-- A replay slot (R399, R401). -/
structure Slot where
  ent : Entry := {}
  valid : Bool := true
  code : Code := 0
  eng : BitVec 3 := 0
  taddr : Dword := 0
  ops : List Dword := []
  vec : Option Vec := none
  /-- the cell time in which its fault landed (R399) -/
  at' : Nat := 0
  deriving DecidableEq, Repr

/-- A trap in progress (R397): when it began, the fault taken, and which kind it is. -/
structure Trap where
  at' : Nat := 0
  code : Code := 0
  tcode : BitVec 18 := 0
  taddr : Dword := 0
  fpc : Dword := 0
  eng : BitVec 3 := 0
  late : Bool := false
  rep : Bool := false
  /-- the cycle e of R398 step 1, once every awaited operation has completed -/
  ready : Option Nat := none
  /-- the frame has been written (R398 step 3), with this many late faults -/
  framed : Option Nat := none
  deriving DecidableEq, Repr

/-- A fault report waiting for a strand (R276, R342): engine 6 for a stream fault, 7 for a task. -/
structure Report where
  eng : BitVec 3 := 7
  code : Code := 0
  taddr : Dword := 0
  deriving DecidableEq, Repr

/-- The states of a strand context (R39). -/
inductive StrandSt where
  | idle | running | dormant
  deriving DecidableEq, Repr

/-- A strand context (R115): everything that belongs to it. -/
structure Strand where
  st : StrandSt := .idle
  /-- the launch and the work identifier and linear index of the item it holds (R40, R152) -/
  launch : Option Nat := none
  wid : Dword := 0
  idx : Nat := 0
  pc : Dword := 0
  /-- s1 to s63 but for q0 to q7 (R142) -/
  s : Table Sval := []
  /-- q0 to q7, oldest entry first (R116) -/
  q : Table (List Sval) := []
  /-- p1 to p7 in bits 7:1 (R144) -/
  p : BitVec 8 := 0
  /-- m1 to m7 (R162) -/
  m : Table Dword := []
  /-- v0 to v27 (R159) -/
  v : Table Vreg := []
  /-- y0 to y3, oldest row first (R164) -/
  y : Table (List Vec) := []
  /-- lc0 to lc3 (R121) -/
  loops : Table Loop := []
  /-- loop resume mark (R127) -/
  pmark : Bool := false
  /-- the loop that the mark is about (R127), which the frame does not hold; a field of the model -/
  markK : Option (BitVec 2) := none
  /-- the code recorded in the image of a strand stopped by force: PREEMPT (R396, R409) -/
  stopCode : Option Code := none
  /-- the counter that b.fmt selected, and sr.ftb (R138) -/
  fk : BitVec 2 := 0
  ftb : BitVec 6 := 0
  /-- sr.stat, sr.srkey, sr.tvec, sr.cause, sr.tinfo, sr.taddr, sr.tscr, sr.vfsel (R153) -/
  stat : BitVec 5 := 0
  srkey : Dword := 0
  tvec : Dword := 0
  cause : BitVec 24 := 0
  tinfo : BitVec 43 := 0
  taddr : Dword := 0
  tscr : Dword := 0
  vfsel : BitVec 7 := 0
  /-- the handler flag (R136, R137) -/
  handler : Bool := false
  /-- the cell time at which the handler was entered (R398) -/
  entered : Nat := 0
  /-- the armed handler address of a dormant strand (R133) -/
  armed : Dword := 0
  /-- the cell time from which it has been dormant (R133, R135) -/
  armedAt : Nat := 0
  /-- b.halt has executed and the item's completion is due (R52, R128) -/
  halted : Bool := false
  /-- the cell time at which a b.sleep in progress ends (R131) -/
  sleepEnd : Option Nat := none
  /-- the six engine queues, head first (R43) -/
  queues : Table (List Entry) := []
  /-- a fetched prefix that waits for the next word (R101) -/
  pfx : Option (BitVec 29) := none
  pfxAt : Dword := 0
  /-- fetch waits for a B word (R42, R118) -/
  fblk : Bool := false
  /-- the next place in fetch order -/
  seq : Nat := 0
  /-- the cell times from which the strand may fetch and issue (R427) -/
  fetchFrom : Nat := 0
  issueFrom : Nat := 0
  /-- results in flight -/
  pend : List Pend := []
  trap : Option Trap := none
  /-- late faults landed and not yet in a frame, oldest first (R399) -/
  lates : List Slot := []
  /-- slots that b.rfe gave back for re-issue (R404) -/
  replay : List Slot := []
  reports : List Report := []
  /-- QDEAD watchdog count, and whether a word was fetched or issued in this cycle (R117) -/
  qdead : Nat := 0
  active : Bool := false
  /-- a switch request is pending; its loop window is cut; the strand has stopped for it (R127, R130, R409) -/
  swReq : Bool := false
  swCut : Option (BitVec 2) := none
  swStop : Bool := false
  /-- fetch stopped for the switch, waiting for fetched words to complete -/
  swHalt : Bool := false
  /-- it was dormant when its trap began (R397) -/
  wasDormant : Bool := false
  /-- the fetch order of the words and slots of the trap frame, which the frame does not hold (R401); a field of the model -/
  savedSeq : Table (List Nat) := []
  /-- the stage counts of the words of the trap frame, which the frame does not hold (R123, R401); a field of the model -/
  savedStages : Table (List (BitVec 3)) := []
  /-- the loops before the fetch of a guarded b.ppt or b.yield with a request pending, with its place in fetch order: it acts only at
  its issue (R127, R130) -/
  pptLoops : Option (Nat × Table Loop) := none
  deriving DecidableEq, Repr

/-! ### Operations in flight of a cell -/

/-- A tile register's contents (R212 to R214). -/
inductive TileSt where
  | empty | loading | full
  deriving DecidableEq, Repr

structure Tile where
  st : TileSt := .empty
  /-- format code, planes − 1 for NH, whether scaled (R205, R323) -/
  fmt : BitVec 4 := 0
  pl : BitVec 3 := 0
  sc : Bool := false
  elems : TileBits := 0
  scales : BitVec 512 := 0
  beta : BitVec 32 := 0
  /-- a deferred fault (R322) -/
  dfault : Option (Code × BitVec 60) := none
  poison : Bool := false
  deriving DecidableEq, Repr

/-- Which later words of its strand an operation holds: none, words that write, all, B words alone or L words alone (R200, R292, R299,
R300, R306). -/
inductive Holds where
  | none | writes | all | b | l
  deriving DecidableEq, Repr

/-- A handle that an operation in flight uses (R200): a tile-table entry of a cell or a landing of a bulkhead. -/
inductive HUse where
  | scratch (cell idx : Nat)
  | landing (bh n : Nat)
  deriving DecidableEq, Repr

/-- Bytes of one line that move in one access: their address in a scratchpad or landing, their place in the transfer, and, for a
write, the bytes. -/
structure Part where
  addr : Nat := 0
  len : Nat := 0
  pos : Nat := 0
  data : List Byte := []
  deriving DecidableEq, Repr

/-- The shape of a tile load (R204, R205): format, planes − 1, bytes of a row, element bytes, .col, scales and bound present. -/
structure TileGeo where
  fmt : BitVec 4 := 0
  pl : BitVec 3 := 0
  w : Nat := 0
  e : Nat := 0
  col : Bool := false
  sc : Bool := false
  bt : Bool := false
  deriving DecidableEq, Repr

/-- Where a load from a scratchpad or landing goes. -/
inductive LDst where
  | s (d : BitVec 6)
  | v (d : BitVec 5)
  | t (n : Nat) (g : TileGeo)
  deriving DecidableEq, Repr

/-- What a PEER handle records (R197, R382): the target handle, and the window it was made through: bulkhead, number and entry. -/
structure Peer where
  target : Dword := 0
  win : Option (Nat × Nat × Dword) := none
  deriving DecidableEq, Repr

/-- A request that has left the cell and has not been applied where it is served. -/
inductive Req where
  /-- an l.gatom on its way to the home controller (R309) -/
  | gatom (o : BitVec 3) (va : Nat) (x y : Dword)
  /-- an l.gatom executed at its home: the write that enters its own die when it lands (R287) -/
  | gatomLand (op : BitVec 3) (pa : Nat) (x y : Dword)
  /-- a load through a PEER handle: the byte ranges to read, and a tile's shape (R198) -/
  | peerRead (p : Peer) (parts : List (Nat × Nat)) (geo : Option TileGeo)
  /-- a store through a PEER handle -/
  | peerWrite (p : Peer) (off : Nat) (data : List Byte)
  /-- a load or store through a PEER handle that its owner has accepted: the cell and its entry, whether it reads, the parts still to move
  through the fill port, the bytes read and their number, and a tile's shape (R185, R186) -/
  | moving (cell idx : Nat) (rd : Bool) (todo : List Part) (got : Table Byte) (n : Nat) (geo : Option TileGeo)
  /-- an l.ratom (R308) -/
  | ratom (p : Peer) (o : BitVec 3) (off : Nat) (x y : Dword)
  /-- an l.barr or l.bare through a PEER handle (R305) -/
  | bar (p : Peer) (off da : Nat) (db : Int)
  /-- an l.stk, l.kfork or l.kfree on its way to the KV unit (R331) -/
  | kvStore (v : Bool) (a : Dword) (row : Vec) (w : Nat)
  | kvFork (a : Dword)
  | kvFree (a : Dword)
  /-- a peer drain (R230): target cell and accumulator, the values, and the bound -/
  | peerDrain (cell acc : Nat) (vals : AccBits) (bound : BitVec 32)
  deriving DecidableEq, Repr

/-- What a drain does to one member when it completes (R218, R227): its accumulator, the bound, whether it was exceeded, and the flags of its
conversion term. -/
structure DrainMem where
  acc : Nat := 0
  bound : BitVec 32 := 0
  exc : Bool := false
  ovf : BitVec 5 := 0
  deriving DecidableEq, Repr

/-- What an M operation that moves lines does when it completes. -/
inductive MDone where
  | drain (mem : List DrainMem)
  | msave
  | mrest (mat : Nat)
  | chsv
  | chld
  deriving DecidableEq, Repr

/-- A member's chunk: accumulator, whether it accumulates wide, the two staged operands and their effective planes (R225, R226). -/
structure Staged where
  acc : Nat
  wide : Bool
  widens : Bool := false
  x : Tile
  y : Tile
  px : Nat
  py : Nat
  deriving DecidableEq, Repr

/-- The data operations of the flume (R340). -/
inductive FKind where
  | copy | xlist | gath | scat | kvcp | svm | ring | coll
  deriving DecidableEq, Repr

/-- A collective in progress (R363, R364): mode, this rank, the group, the next step, the partial result (each element a number: FP32 or
I32 bits, a 320-bit word, or a byte), the result once obtained, and, under .fast and in an allgather, the ranks whose data have come. -/
structure Coll where
  mode : Nat := 0
  rank : Nat := 0
  group : List Dword := []
  step : Nat := 0
  x : List Nat := []
  res : Option (List Nat) := none
  got : List (Nat × List Nat) := []
  /-- flags that widening and the last rounding set, which no status word shows (R86, R89) -/
  flags : BitVec 5 := 0
  deriving DecidableEq, Repr

/-- A data operation of the flume (R340, R349): its descriptor, the next piece (and the place within a segment), the segment read, the
count of R341, st.aux, an accounting that waits for its writes, and the status code once it has ended. -/
structure FState where
  kind : FKind := .copy
  d : BitVec 4 := 0
  desc : List Byte := []
  piece : Nat := 0
  sub : Nat := 0
  seg : List Byte := []
  count : Nat := 0
  aux : Nat := 0
  due : Option (Nat × List Nat) := none
  code : Option (BitVec 8) := none
  /-- the landing that an f.ring sends from (R362) -/
  land : Option Nat := none
  /-- pieces of an f.ring, or packets of a collective, sent to other packages, and those of them acknowledged (R358, R362) -/
  sent : Nat := 0
  acked : Nat := 0
  coll : Option Coll := none
  /-- the handles that it was accepted with (R200) -/
  held : List HUse := []
  deriving DecidableEq, Repr

/-- What an operation in flight does when it completes. -/
inductive OpBody where
  /-- a timed request for a scalar (R46): destination, the data once it is fixed, .sp -/
  | timedS (d : BitVec 6) (data : Option Dword) (sp : Bool)
  /-- a timed request for a vector register -/
  | timedV (d : BitVec 5) (data : Option Vec) (sp : Bool)
  /-- a timed request for a tile register -/
  | timedT (t : Nat) (data : Option Tile) (sp : Bool)
  /-- a posted store (R324) -/
  | store
  /-- an l.kfork (R334): the destination of the child's id, once it is known -/
  | kfork (d : BitVec 6) (id : Option Dword)
  /-- flags that a posted word leaves at its acknowledgement (R333) -/
  | stk (flags : BitVec 5)
  /-- a b.msg in its send-buffer entry (R132) -/
  | msg (stored : Bool)
  /-- a b.launch (R139): the header's VA, the writes that its release covers, and whether the launch unit has taken it -/
  | launch (va : Dword) (cover : List Nat) (taken : Bool)
  /-- a fence (R292, R293): what it waits for, and the scope whose cached translations it discards -/
  | fence (cover : List Nat) (discard : Option Nat)
  /-- an l.barr or l.bare that performs its covered writes (R305), then updates: object, da, db, and the destination of l.barr -/
  | barRel (cover : List Nat) (idx off da : Nat) (db : Int) (d : Option (BitVec 6)) (peer : Option (Peer × Nat))
  | barUpdate (idx off da : Nat) (db : Int) (d : Option (BitVec 6))
  /-- a semaphore wait (R298): virtual number and count; granted when its grant has been made -/
  | semWait (v : BitVec 8) (n : Nat) (granted : Bool)
  /-- an l.barw (R306): owner cell, table index and offset of the object, phase, whether it is registered, and whether the phase has
  been seen to differ -/
  | barWait (cell idx gen off : Nat) (phase : BitVec 12) (peer reg met : Bool)
  /-- a b.smap waiting for the semaphore units (R300) -/
  | smap (vf : Nat) (v : BitVec 8) (ent : BitVec 16) (move : Bool)
  /-- a load from a scratchpad or, when land is given, a landing: the groups of lines still to read, the bytes read, and the offset of
  the first poisoned word met (R203, R204) -/
  | sload (dst : LDst) (land : Option Nat) (todo : List (List Part)) (got : Table Byte) (bad : Option Nat)
  /-- a store to the scratchpad: the groups of lines still to write (R203) -/
  | sstore (todo : List (List Part))
  /-- a scratch atomic (R206): the parts of its word, operation, operands, destination -/
  | satom (parts : List Part) (off : Nat) (o : BitVec 3) (x y : Dword) (d : BitVec 6)
  /-- a K-chunk (R225) -/
  | chunk (ms : List Staged)
  /-- an M operation that moves lines from cycle start on (R220, R246) -/
  | mlines (rd : Bool) (start : Nat) (todo : List (List Part)) (got : Table Byte) (what : MDone)
  /-- a drain to a result queue: the rows still to push, with the flags of their elements (R229) -/
  | drainQ (y : BitVec 2) (rows : List (Vec × BitVec 5)) (mem : List DrainMem)
  /-- a peer drain (R230): acknowledged when its request has been applied -/
  | drainP (mem : List DrainMem)
  /-- an m.scale (R232) -/
  | scale (accs : List Nat) (f : BitVec 32)
  /-- a chain step, held in the cell's chain (R246) -/
  | chainStep
  /-- the close of a chain (R248): rows still to push, or the parts of its output still to write -/
  | che (y : Option (BitVec 2)) (rows : List Vec) (out : Option (List Part))
  /-- a peer addition in progress at its target (R231): the sender's cell and operation -/
  | peerAdd (acc : Nat) (vals : AccBits) (bound : BitVec 32) (cell op : Nat)
  /-- a data operation of the flume -/
  | flume (f : FState)
  /-- an l.hfree or l.rel that waits for the handle's accesses (R200) -/
  | hfree (u : HUse)
  /-- the global stores of a trap frame (R398 step 3) -/
  | frame
  /-- a b.rfe: the frame as its reads have found it (R404) -/
  | rfe (f : List Byte)
  deriving DecidableEq, Repr

/-- What an operation holds while it is in flight (R47, R132). -/
inductive Buf where
  | none | landing | send
  deriving DecidableEq, Repr

/-- An operation in flight: its strand (4 for the flume stream), its word and operands (R399), when it is due, and an error response. -/
structure Op where
  id : Nat
  sc : Nat
  eng : Nat
  ent : Entry
  ops : List Dword := []
  vec : Option Vec := none
  /-- its word came from a replay slot -/
  slot : Bool := false
  issued : Nat
  due : Nat
  /-- access address, if it has one (R49) -/
  addr : Option Dword := none
  buf : Buf := .none
  holds : Holds := .none
  /-- the handles that it uses (R200) -/
  uses : List HUse := []
  /-- the accumulators that it acts on (R219) -/
  accs : List Nat := []
  /-- a peer addition that has arrived and waits for the operations before it (R221) -/
  waits : Bool := false
  req : Option Req := none
  /-- an error response: its code and sr.taddr -/
  err : Option (Code × Dword) := none
  body : OpBody
  deriving DecidableEq, Repr

/-! ### Messages -/

/-- An active message (R132 to R135): its operation in the sender's send buffer, sender, target, handler VA and payload. -/
structure Msg where
  op : Nat := 0
  cell : Nat := 0
  sc : Nat := 0
  target : Nat := 0
  handler : Dword := 0
  payload : List Dword := []
  deriving DecidableEq, Repr

/-! ### Cells -/

/-- An entry of a tile table (R188 to R197). -/
structure TEntry where
  used : Bool := false
  gen : BitVec 8 := 0
  desc : Dword := 0
  peer : Peer := {}
  stripe : Nat := 0
  stripes : Nat := 0
  /-- it refuses accesses and waits to be freed, at the earliest in a cycle of the device's clock (R200) -/
  refused : Bool := false
  freeAt : Nat := 0
  /-- the launch whose item gave it out (R196) -/
  launch : Option Nat := none
  deriving DecidableEq, Repr

/-- A landing of a bulkhead and its table entry (R184, R195, R207). -/
structure Landing where
  used : Bool := false
  gen : BitVec 8 := 0
  desc : Dword := 0
  /-- declared consumers still outstanding, and whether any were declared -/
  cons : Nat := 0
  refused : Bool := false
  freeAt : Nat := 0
  /-- the cycle of the device's clock from which each bank's fill port is free (R185) -/
  fill : Table Nat := []
  launch : Option Nat := none
  bytes : Table Byte := []
  poison : Table Bool := []
  /-- written since its VF's last restore or scrub (R413) -/
  dirty : Bool := false
  deriving DecidableEq, Repr

/-- An accumulator with the poison of its words and of its deckle register's (R214, R215). -/
structure Accum where
  val : AccBits := 0
  poison : Bool := false
  dpoison : Bool := false
  deriving DecidableEq, Repr

/-- A source of keys or values of a chain step (R242, R243): format, planes − 1, whether scaled, bytes of a row's block of 64, the bytes
of the valid rows and their scales as the reads have found them, and the parts still to read. -/
structure ChSrc where
  fmt : BitVec 4 := 0
  pl : BitVec 3 := 0
  sc : Bool := false
  land : Option (Nat × Nat) := none
  todo : List (List Part) := []
  got : Table Byte := []
  bad : Bool := false
  deriving DecidableEq, Repr

/-- A chain step in flight (R244 to R246). -/
structure ChStep where
  op : Nat := 0
  issued : Nat := 0
  vs : Nat := 0
  tv : Nat := 0
  nk : Nat := 0
  diag : Bool := false
  /-- a task's causal step (R265): the query position and first key, for the mask -/
  causal : Option (Nat × Nat) := none
  key : ChSrc := {}
  val : ChSrc := {}
  started : Bool := false
  deriving DecidableEq, Repr

/-- The chain of a cell (R238, R239). -/
structure Chain where
  d128 : Bool := false
  bank : Bool := false
  wide : Bool := false
  c : BitVec 32 := 0
  lam : BitVec 32 := 0
  ntile : BitVec 32 := 0
  m : List (BitVec 32) := []
  l : List (BitVec 32) := []
  f : List (BitVec 32) := []
  q : List Tile := []
  steps : List ChStep := []
  /-- the value phase of the last step issued (R246) -/
  vs : Nat := 0
  tv : Nat := 0
  fresh : Bool := true
  /-- from when the score arrays are free -/
  busy : Nat := 0
  poison : Bool := false
  deriving DecidableEq, Repr

/-- A loop of a flume stream (R344): first and last word, and passes left after this one. -/
structure FLoop where
  start : Dword := 0
  last : Dword := 0
  left : Nat := 0
  deriving DecidableEq, Repr

/-- The flume engine of a cell (R339 to R348): the stream's launch, program counter, registers, a prefix that waits, the fetched word,
and its loops, innermost first. -/
structure Flume where
  launch : Option Nat := none
  pc : Dword := 0
  regs : Table Dword := []
  pfx : Option (BitVec 29) := none
  word : Option Entry := none
  loops : List FLoop := []
  /-- a stream fault has stopped it (R342) -/
  stopped : Bool := false
  /-- the writes that an f.bar waits for (R347) -/
  cover : Option (List Nat) := none
  deriving DecidableEq, Repr

/-- What a cell does at its close with its mats and with the tasks that run on its groups (R410). -/
inductive SwitchChoice where
  | drain | save | discard
  deriving DecidableEq, Repr

/-- A cell (R14). -/
structure Cell where
  /-- the VF whose context runs here; none while no VF is resident -/
  vf : Option Nat := none
  /-- cell time (R46) -/
  time : Nat := 0
  /-- operations on which the cell is frozen, and the wall time (thirds of ns) at which the freeze began (R48) -/
  frozenOn : List Nat := []
  frozenAt : Nat := 0
  strands : Table Strand := []
  /-- operations in flight, oldest first -/
  ops : List Op := []
  /-- strand granted a fetch last, and the strand that each engine issued last (R42, R44) -/
  lastFetch : Nat := 3
  lastIssue : Table Nat := []
  /-- cell time from which each engine issues its next word (R145, R165) -/
  busy : Table Nat := []
  /-- scratchpad bytes and poisoned 8-byte words (R184, R187) -/
  scratch : Table Byte := []
  spoison : Table Bool := []
  /-- the cycle of the device's clock from which each bank's fill port is free (R185) -/
  fill : Table Nat := []
  tiles : Table Tile := []
  /-- the message landing, oldest first (R132) -/
  msgs : List Msg := []
  /-- the tile table (R194) -/
  table : Table TEntry := []
  /-- accumulators a0 to a15 and deckle registers d0 to d15 (R208, R216) -/
  accs : Table Accum := []
  dks : Table (BitVec 128) := []
  /-- the sides in STRAND mode, and a claim in progress (R209): the cell time from which no task has run there -/
  strandSide : Table Bool := []
  claim : Table Nat := []
  /-- the pairs and quads in force, by shape code (R210) -/
  shapes : List Nat := []
  /-- banks that lines of M operations which completed in this cycle have taken at the cell port (R185) -/
  taken : List Nat := []
  /-- cell times from which each mat's array and accumulator path are free (R219, R220) -/
  array : Table Nat := []
  path : Table Nat := []
  /-- tile registers that become empty in the next cycle (R212) -/
  emptying : List Nat := []
  chain : Option Chain := none
  /-- the task that runs on each side, by VF and number (R273) -/
  sideTask : Table (Nat × Nat) := []
  /-- cell time from which each side has been free, for stealing (R274) -/
  freeSince : Table Nat := []
  flume : Flume := {}
  /-- stripes written since the VF's last restore or scrub (R413) -/
  dirty : Table Bool := []
  /-- leaves that the cell has cached from its walks, by page of the VA (R293) -/
  tlb : Table Dword := []
  /-- the format cache (R76): 64 entries, each a value or a fault with the entry's VA; empty before the first launch start -/
  fmtCache : Table (BitVec 32) := []
  fmtFault : Table (Code × Dword) := []
  /-- sr.dl (R408) -/
  dl : BitVec 48 := 0
  /-- the switch logic has closed the cell (R409) -/
  closed : Bool := false
  /-- its choice at the close (R410) -/
  choice : Option SwitchChoice := none
  /-- cycles that its running tasks have gone beyond cell time since its close (R410) -/
  ahead : Nat := 0
  /-- it has resumed in this cycle of the device, which is its cycle r, and its time goes on with the next (R414, R427) -/
  resuming : Bool := false
  deriving DecidableEq, Repr

/-! ### Memory -/

/-- A global write that has not entered every die sequence (R285, R286): its number among the writes of its die, the writes that
precede it (one count per die), and the dies it has yet to enter. -/
structure GWrite where
  id : Nat
  die : Nat
  num : Nat
  deps : List Nat
  todo : List Nat
  /-- the byte range that the zeroing of a frame clears (R318): its start and size -/
  zero : Option (Nat × Nat) := none
  bytes : List (Nat × Byte)
  deriving DecidableEq, Repr

/-- A global atomic that has its place in home order and has not landed (R287): its operation, its word and its die; whether a write of the
word has entered that die's sequence since; and the word before it in home order, with the bytes of the writes since. -/
structure AtomTurn where
  op : Nat
  word : Nat
  die : Nat
  passed : Bool := false
  old : Dword := 0
  deriving DecidableEq, Repr

/-- Device memory (R284 to R287, R310, R432): the bytes as each die's sequence has them, the bytes in home order, the poisoned
words, the writes still to propagate, each die's count of the writes of each die that its sequence holds, and the atomics between their
home and their landing. -/
structure DevMem where
  views : Table (Table Byte) := []
  home : Table Byte := []
  poison : Table Bool := []
  flight : List GWrite := []
  clocks : Table (List Nat) := []
  turns : List AtomTurn := []
  deriving DecidableEq, Repr

/-! ### Semaphores -/

/-- A waiter of a semaphore: cell, unit (strand, or 4 for the flume stream), operation, count (R297). -/
structure Waiter where
  cell : Nat
  unit : Nat
  op : Nat
  vf : Nat
  v : BitVec 8
  n : Nat
  deriving DecidableEq, Repr

/-- A physical semaphore (R294). -/
structure Sem where
  mapped : Bool := false
  val : BitVec 32 := 0
  fifo : List Waiter := []
  deriving DecidableEq, Repr

/-- A signal on its way to a physical semaphore: the writes its release covers, and the earliest cell time of its sender at which it
arrives at a semaphore of the sender's bulkhead (R298). -/
structure Sig where
  ps : Nat
  n : Nat
  cover : List Nat := []
  cell : Nat := 0
  sc : Nat := 4
  vf : Nat := 0
  due : Nat := 0
  deriving DecidableEq, Repr

/-- A wait request on its way (R298). -/
structure WaitReq where
  ps : Nat
  w : Waiter
  due : Nat := 0
  deriving DecidableEq, Repr

/-! ### Launches -/

/-- Items withdrawn from a launch: the group at a level of the item with a linear index (R30, R141). -/
structure Drop where
  level : Nat
  idx : Nat
  deriving DecidableEq, Repr

/-- The state of a launch's flume stream on a cell (R38). -/
inductive StreamSt where
  | none | pending | running | done
  deriving DecidableEq, Repr

/-- A cell's share of a launch (R32, R53): how many items it was given, whether and in which order it has started, the linear index
from which items are untaken, the levels gained by waiting, and how many items have completed. -/
structure Share where
  total : Nat := 0
  started : Bool := false
  order : Nat := 0
  startTime : Nat := 0
  next : Nat := 0
  age : Nat := 0
  finished : Nat := 0
  stream : StreamSt := .none
  reported : Bool := false
  deriving DecidableEq, Repr

/-- A launch in progress (R33 to R38). -/
structure Launch where
  vf : Nat := 0
  /-- the host queue it came from; none for a device-side launch -/
  queue : Option Nat := none
  entry : Dword := 0
  fentry : Dword := 0
  ctl : Dword := 0
  ext : List Nat := []
  args : Dword := 0
  csem : BitVec 16 := 0xFFFF
  ftb : BitVec 6 := 0
  cwoff : Dword := 0
  /-- the queue's head count after its record (R417) -/
  count : Nat := 0
  shares : Table Share := []
  cancelled : Bool := false
  drops : List Drop := []
  /-- global writes in flight when its shares ended, which its release at sys waits for (R54) -/
  cover : List Nat := []
  deriving DecidableEq, Repr

/-! ### Virtual functions -/

/-- The configuration record (R372). -/
structure VfCfg where
  shape : BitVec 16 := 0
  nlq : Nat := 0
  resv : Nat := 0
  slices : BitVec 128 := 0
  ptroot : Dword := 0
  fmttab : Nat := 0
  tasks : Nat := 0
  branch : Nat := 0
  seqtab : Nat := 0
  nseq : Nat := 0
  nroot : Nat := 0
  quota : Nat := 0
  tier2 : Nat := 0
  lqtab : Nat := 0
  rkey : BitVec 32 := 0
  /-- the 128 bytes as copied, for quotes (R394) -/
  raw : List Byte := []
  deriving DecidableEq, Repr

/-- A tile task that runs (R273, R434): the cell and side of its group (side 2: both), the cycle of its start, the next chunk or step, the
cycle from which it may issue, the cycle in which its last result is written, its private accumulators (hi and lo) and bounds, and,
after its drain check, the cycle of the check, the writes still due, each with its cycle after the check, and those made; a chain task's
chain (R257). Its cycles are cell time of its group's cell (R5, R48). -/
structure TaskRun where
  cell : Nat := 0
  side : Nat := 0
  start : Nat := 0
  next : Nat := 0
  free : Nat := 0
  last : Nat := 0
  accs : List AccBits := []
  los : List AccBits := []
  bounds : List (BitVec 32) := []
  checked : Option Nat := none
  writes : List (Nat × Nat × List Byte) := []
  cover : List Nat := []
  chain : Option Chain := none
  deriving DecidableEq, Repr

/-- A pending tile task (R259 to R282): the record and descriptor as copied, its format entry, the poster and the poster's item, the
captured sr.srkey, its counter, the wall time of its entry and of its readiness with the levels gained by aging, its home bulkhead
and slot (none: listed), its place in order of entry, re-issues, flags, and its run. -/
structure Task where
  raw : List Byte := []
  desc : List Byte := []
  fmt : BitVec 32 := 0
  cell : Nat := 0
  sc : Nat := 0
  launch : Option Nat := none
  idx : Nat := 0
  srkey : Dword := 0
  deps : Nat := 0
  ready : Option Nat := none
  age : Nat := 0
  bh : Nat := 0
  slot : Option Nat := none
  order : Nat := 0
  rcnt : Nat := 0
  flags : BitVec 5 := 0
  run : Option TaskRun := none
  /-- it has been cancelled while it ran, and stops at its next boundary (R279) -/
  dead : Bool := false
  deriving DecidableEq, Repr

/-- A launch queue (R373): ring, head and tail words, log2 of its size, the head count, whether it is stopped or held, and the
records copied from it that have not started. -/
structure Lq where
  ring : Dword := 0
  head : Dword := 0
  tail : Dword := 0
  lsize : Nat := 0
  count : Nat := 0
  stopped : Bool := false
  held : Bool := false
  waiting : List (List Byte × Nat) := []
  busy : Bool := false
  /-- it replays from its head count at the VF's next residency (R416) -/
  replay : Bool := false
  deriving DecidableEq, Repr

/-- A second-tier page (R337): ciphertext, tag and serial. -/
structure TierPage where
  cipher : List Byte := []
  tag : BitVec 128 := 0
  serial : Nat := 0
  deriving DecidableEq, Repr

/-- The counters that STATS reports (R380). -/
structure Counters where
  messages : Nat := 0
  corrected : Nat := 0
  signals : Nat := 0
  stale : Nat := 0
  refused : Nat := 0
  rdma : Nat := 0
  deriving DecidableEq, Repr

/-- A core image as it was copied (R412): what it holds of the cell and, in an even cell, of its bulkhead's landing table, and its bytes. -/
structure CoreImage where
  cell : Cell := {}
  lands : Table Landing := []
  size : Nat := 0
  deriving DecidableEq, Repr

/-- The context of a VF that is not resident (R412, R428): its cells' images, and which blocks are valid. -/
structure Saved where
  cells : Table Cell := []
  lands : Table (Table Landing) := []
  /-- core images (by cell), stripes (by cell) and landings (by bulkhead) whose copies in the save area are valid -/
  cores : Table CoreImage := []
  stripes : Table (Table Bool) := []
  lvalid : Table (Table Bool) := []
  deriving DecidableEq, Repr

/-- A virtual function. -/
structure Vf where
  live : Bool := false
  cfg : VfCfg := {}
  /-- sr.vfgen (R386) -/
  gen : BitVec 8 := 0
  /-- the semaphore map and semm.sel (R295) -/
  semMap : Table (BitVec 16) := []
  semSel : BitVec 8 := 0
  /-- the page allocator (R317): the free list as runs of frames, head first, and H -/
  free : List (Nat × Nat) := []
  held : Nat := 0
  /-- frames released and not yet returned (R319) -/
  returning : List Nat := []
  /-- a partition reset is due (R416) -/
  presetDue : Bool := false
  counters : Counters := {}
  lqs : List Lq := []
  /-- headers of device-side launches beyond 64, oldest first (R140), and the frames their list holds (R431) -/
  overflow : List (List Byte × Nat) := []
  overFrames : List Nat := []
  tasks : Table Task := []
  /-- cycles of the device's clock in which it has been resident: the scheduler's time for its tasks (R272, R282) -/
  clock : Nat := 0
  /-- slots of tasks that have left, by bulkhead and slot, with the cycle from which each is free (R267) -/
  slotFree : List (Nat × Nat × Nat) := []
  /-- frames held by each bulkhead's task overflow list (R267, R431) -/
  listFrames : Table (List Nat) := []
  /-- the key slot (R337), whether a key has been loaded since the last reset (R394), and the serial -/
  key : BitVec 256 := 0
  keyLoaded : Bool := false
  serial : Nat := 0
  tier : Table TierPage := []
  /-- 16 KiB units of overlay-table frames that no table uses (R330), lowest first -/
  kvUnits : List Nat := []
  /-- numbers of cancelled tasks that have not been entered again (R270) -/
  cancelledTasks : List Nat := []
  /-- the torus peer table (R360) -/
  peers : Table (BitVec 32) := []
  /-- the save area's base (R426) -/
  saveBase : Nat := 0
  /-- length of the initial free list (R374) -/
  listLen : Nat := 0
  saved : Option Saved := none
  valid : Saved := {}
  deriving DecidableEq, Repr

/-! ### The device -/

/-- What the default order does next: an instruction's step, what is due in a cell, the reading of the guard of a word that is held, the
issue of an engine's head word, the flume's head word, the commit of results due in a cell, the accesses of its cell port, the steps of a part of the device, or the next cell cycle. -/
inductive Act where
  | run (i : Instr)
  | due (cell : Nat)
  | select (cell sc eng : Nat)
  | issue (cell sc eng : Nat)
  | flume (cell : Nat)
  | commit (cell : Nat)
  | port (cell : Nat)
  | device (part : Nat)
  | tick
  deriving DecidableEq, Repr

/-- The word being issued: where, with which tags, and the operands of a replay slot (R401, R404). held is set when the word stays
at the head of its queue. -/
structure Cur where
  cell : Nat := 0
  sc : Nat := 0
  eng : Nat := 0
  ent : Entry := {}
  replay : Option Slot := none
  held : Bool := false
  /-- held only for a queue-register or result-queue entry (R117) -/
  heldQ : Bool := false
  deriving DecidableEq, Repr

/-- The choices of the environment: operations whose response is late (R48), by number; the tree of a .fast collective; the delays of the
memory lines of tile tasks. -/
structure Env where
  slow : List Nat := []
  /-- which two partial results a collective under .fast combines next, by place; (0, 1) when the list is empty (R87) -/
  merges : List (Nat × Nat) := []
  /-- by how many cycles the lines that the next chunks, steps and inputs of tile tasks read from memory are late (R419, R434) -/
  late : List Nat := []
  deriving DecidableEq, Repr

/-- A bulkhead (R13, R368): its fabric gate, and the wall time at which a reset in progress ends. -/
structure Bh where
  gateClosed : Bool := false
  resetEnd : Option Nat := none
  /-- wall time of the last RESETDONE (R388) -/
  lastDone : Option Nat := none
  /-- held in reset until the device is booted again (R387, R388) -/
  held : Bool := false
  landings : Table Landing := []
  /-- window entries 0 to 7 (R381) -/
  windows : Table Dword := []
  /-- wall times of recent uncorrectable errors (R387) -/
  errors : List Nat := []
  deriving DecidableEq, Repr

/-- A switch of a group in progress (R408 to R415): the outgoing and incoming VF, the wall times of its request and deadline, the dies
whose save is complete, and those that copy. -/
structure Switch where
  out : Nat := 0
  inn : Nat := 0
  start : Nat := 0
  deadline : Nat := 0
  saved : List Nat := []
  /-- the wall time at which the copies of each die that has begun its save can be complete (R433) -/
  begun : Table Nat := []
  deriving DecidableEq, Repr

/-- A residency group, by shape (R371, R407): rotation, resident VF, tick and deadline in µs, a schedule for the next tick, the wall time
of the next tick, and the switch in progress. -/
structure Group where
  rotation : List Nat := []
  resident : Nat := 0
  tick : Nat := 2000
  dl : Nat := 100
  next : Option (List Nat × Nat × Nat) := none
  nextTick : Nat := 0
  switch : Option Switch := none
  /-- a VF whose restore waits for a reset's end (R407, R415) -/
  incoming : Option Nat := none
  deriving DecidableEq, Repr

/-- A record posted to the scheduler and not yet entered (R281). -/
structure Post where
  vf : Nat := 0
  va : Dword := 0
  /-- the writes that its release covers -/
  cover : List Nat := []
  cell : Nat := 0
  sc : Nat := 0
  launch : Option Nat := none
  idx : Nat := 0
  srkey : Dword := 0
  deriving DecidableEq, Repr

/-- A decrement of b.tdec on its way (R281). -/
structure Tdec where
  vf : Nat := 0
  n : Nat := 0
  cell : Nat := 0
  sc : Nat := 0
  launch : Option Nat := none
  idx : Nat := 0
  deriving DecidableEq, Repr

/-- A branch cancellation on its way (R280), or a cancellation of items (R141). -/
structure Cancel where
  vf : Nat := 0
  branch : BitVec 20 := 0
  sem : Option (BitVec 8) := none
  cell : Nat := 0
  sc : Nat := 0
  launch : Option Nat := none
  idx : Nat := 0
  lvl : Nat := 0
  /-- the contexts that an item cancellation has stopped, once it has taken effect -/
  stopped : Option (List (Nat × Nat)) := none
  deriving DecidableEq, Repr

/-- A queue pair (R390): the VF it is bound to, whether its connection is in the error state, and its rate after congestion (R389), in
parts of 2^16 of the full rate. -/
structure Qp where
  vf : Option Nat := none
  err : Bool := false
  rate : Nat := 65536
  deriving DecidableEq, Repr

/-- What the device sends to the outside: RDMA answers and torus traffic. -/
inductive Out where
  | ack (qp : Nat)
  | data (qp : Nat) (l : List Byte)
  | nakAccess (qp : Nat)
  | nakInvalid (qp : Nat)
  | packet (p : Packet)
  | gone (dst : BitVec 12) (place : BitVec 19)
  | abort (dst : Place) (tag : BitVec 32)
  deriving DecidableEq, Repr

/-- The management unit (R375 to R379): the slot whose command runs and its bytes as they were taken, whether the command has begun, whether
a DESTROY has made another VF resident, what the command then waits for (the end of a VF's reset; launches that LCANCEL has selected; the
end of a group's switch), and when it next reads the go bits. -/
structure Mgmt where
  run : Option Nat := none
  slot : List Byte := []
  begun : Bool := false
  moved : Bool := false
  waitLaunches : List Nat := []
  waitGroup : Option Nat := none
  nextPoll : Nat := 0
  deriving DecidableEq, Repr

/-- Power, boot and identity (R392 to R395): whether the ROM waits for an image, the fuses, the boot epoch and the quotes of it, and the
measurement registers M0 to M7 (R375) that have been written since the reset. -/
structure Boot where
  power : Bool := true
  rom : Bool := false
  keyHash : BitVec 256 := 0
  minVersion : Nat := 0
  blown : Nat := 1
  quotes : Nat := 0
  measured : Table (BitVec 256) := []
  deriving DecidableEq, Repr

/-- The state of the machine. -/
structure State where
  /-- what is to happen next, before the default order goes on; a field of the model -/
  agenda : List Act := []
  /-- the place of the default order in its cycle; a field of the model -/
  phase : Nat := 0
  cur : Cur := {}
  env : Env := {}
  /-- the number of free values used so far (Config); a field of the model -/
  freeCtr : Nat := 0
  nextId : Nat := 0
  /-- wall time in thirds of a nanosecond (R5, R153) -/
  wall3 : Nat := 0
  cells : Table Cell := []
  mem : DevMem := {}
  bhs : Table Bh := []
  sems : Table Sem := []
  sigs : List Sig := []
  /-- messages on their way, oldest first -/
  msgs : List Msg := []
  waits : List WaitReq := []
  vfs : Table Vf := []
  launches : Table Launch := []
  groups : Table Group := []
  posts : List Post := []
  tdecs : List Tdec := []
  cancels : List Cancel := []
  itemCancels : List Cancel := []
  /-- pieces of f.ring on their way to a landing of this package (R362) -/
  rings : List Packet := []
  /-- f.svm requests queued at each stack: cell and operation, oldest first (R357) -/
  svmq : Table (List (Nat × Nat)) := []
  /-- the VF that each stack's multipliers served last (R27) -/
  svmLast : Table Nat := []
  /-- packets of collectives, and answers to packets, that have reached this package and wait for their operation (R362, R364) -/
  torus : List Packet := []
  /-- abort notices and gone notices on their way to ranks of this package (R366, R367) -/
  aborts : List (Place × BitVec 32) := []
  gones : List (BitVec 19) := []
  qps : Table Qp := []
  mgmt : Mgmt := {}
  boot : Boot := {}
  /-- package coordinates and pod extents (R359): x, y, z, nx, ny, nz; no transfer runs before POD (R395) -/
  pod : Option (Nat × Nat × Nat × Nat × Nat × Nat) := none
  /-- Riune links removed from service (R358) -/
  linksDown : Table Bool := []
  /-- RDMA writes that are not acknowledged yet: queue pair and writes (R391) -/
  acks : List (Nat × List Nat) := []
  /-- Ethernet priorities that are paused (R389) -/
  paused : BitVec 8 := 0
  out : List Out := []
  /-- wall time of the launch unit's next poll (R36) -/
  nextPoll : Nat := 0
  deriving DecidableEq, Repr

/-- VF0 at the end of bring-up (R395): BH0 and slices 0 to 3; its own record's other fields are DESIGN CHOICE, log entry 8. The frames of
the management region are not on the free list (R375). -/
def Vf.zero : Vf :=
  { live := true, cfg := { shape := 0x0100, slices := 0xF, quota := 196604 }, free := [(4, 196604)] }

/-- The machine at the end of the device reset of R395: memory and every bulkhead scrubbed, VF0 on cells 0 and 1 of BH0, sr.wall 0. -/
def State.reset : State :=
  { cells := [(0, { vf := some 0 }), (1, { vf := some 0 })], vfs := [(0, Vf.zero)], qps := [(0, { vf := some 0 })] }

/-- Why the machine stops. -/
inductive Fault where
  /-- raised by step alone, when the package has lost power (R392): nothing runs until power returns. Safe: no state follows -/
  | noPower
  deriving DecidableEq, Repr

/-- Why an instruction has no meaning. -/
inductive Refusal where
  /-- raised by exec for an instruction whose meaning is not written; safe, since nothing is claimed of it -/
  | notModelled (mnemonic : String)
  deriving DecidableEq, Repr

end Sys2Proof.Machine
end

