-- ==== Sys2Proof/Machine/Ops.lean ====
section
/-! DEFINITION. The named operations over the state: cells, strands and their registers, results in flight, device memory and its
die sequences (R284 to R287), translation (R312 to R316), the page allocator (R317, R318, R320), and raising a fault (R397, R399,
R403). Taking the trap that a fault begins is in Traps.lean. -/

namespace Sys2Proof.Machine

open Sys2Proof

/-! ### Access to the parts of the state -/

def State.cell (s : State) (c : Nat) : Cell := tget {} s.cells c

def State.modCell (s : State) (c : Nat) (f : Cell → Cell) : State := { s with cells := tput c (f (s.cell c)) s.cells }

def Cell.strand (x : Cell) (sc : Nat) : Strand := tget {} x.strands sc

def Cell.modStrand (x : Cell) (sc : Nat) (f : Strand → Strand) : Cell := { x with strands := tput sc (f (x.strand sc)) x.strands }

def State.strand (s : State) (c sc : Nat) : Strand := (s.cell c).strand sc

def State.modStrand (s : State) (c sc : Nat) (f : Strand → Strand) : State := s.modCell c (fun x => x.modStrand sc f)

def State.vf (s : State) (n : Nat) : Vf := tget {} s.vfs n

def State.modVf (s : State) (n : Nat) (f : Vf → Vf) : State := { s with vfs := tput n (f (s.vf n)) s.vfs }

/-- The strand whose word is being issued. -/
def State.me (s : State) : Strand := s.strand s.cur.cell s.cur.sc

def State.modMe (s : State) (f : Strand → Strand) : State := s.modStrand s.cur.cell s.cur.sc f

/-- The cell of the word being issued. -/
def State.here (s : State) : Cell := s.cell s.cur.cell

def State.modHere (s : State) (f : Cell → Cell) : State := s.modCell s.cur.cell f

/-- The cell time of the word being issued. -/
def State.now (s : State) : Nat := s.here.time

/-- The number of the VF that runs on a cell; VF0 where none does. -/
def State.vfOf (s : State) (c : Nat) : Nat := (s.cell c).vf.getD 0

/-- sr.wall in ns (R153). -/
def State.wall (s : State) : Nat := s.wall3 / 3

/-- The cycle of the device's clock (R5). -/
def State.cyc (s : State) : Nat := s.wall3 / 2

/-- hdr.ctl of a launch (R34). -/
def State.hdrCtl (s : State) (l : Option Nat) : Dword :=
  match l with
  | some n => (tget {} s.launches n).ctl
  | none => 0

/-- A number for a new operation, write or launch. -/
def State.fresh (s : State) : Nat × State := (s.nextId, { s with nextId := s.nextId + 1 })

/-! ### Scalar registers and queues (R98, R116, R142) -/

/-- q0 to q7 are s48 to s55. -/
def isQ (r : BitVec 6) : Bool := decide (48 ≤ r.toNat) && decide (r.toNat ≤ 55)

/-- The queue register of s48 to s55. -/
def qOf (r : BitVec 6) : Nat := r.toNat - 48

def Strand.queue (st : Strand) (i : Nat) : List Sval := tget [] st.q i

/-- A scalar register as a source: s0 reads 0, a queue register shows its oldest entry. -/
def Strand.readS (st : Strand) (r : BitVec 6) : Sval :=
  if r = 0 then {} else if isQ r then ((st.queue (qOf r)).head?).getD {} else tget {} st.s r.toNat

/-- A write of a scalar register: discarded for s0, a push for a queue register. -/
def Strand.writeS (st : Strand) (r : BitVec 6) (v : Sval) : Strand :=
  if r = 0 then st
  else if isQ r then { st with q := tset [] st.q (qOf r) (st.queue (qOf r) ++ [v]) }
  else { st with s := tset {} st.s r.toNat v }

/-- The oldest entry of a queue register leaves it. -/
def Strand.popQ (st : Strand) (i : Nat) : Strand := { st with q := tset [] st.q i (st.queue i).tail }

def Strand.yq (st : Strand) (i : Nat) : List Vec := tget [] st.y i

def Strand.popY (st : Strand) (i : Nat) : Strand := { st with y := tset [] st.y i (st.yq i).tail }

/-- p0 reads true (R144). -/
def Strand.readP (st : Strand) (i : BitVec 3) : Bool := i == 0 || st.p.getLsbD i.toNat

def Strand.writeP (st : Strand) (i : BitVec 3) (v : Bool) : Strand :=
  if i = 0 then st
  else { st with p := if v then st.p ||| ((1 : BitVec 8) <<< i.toNat) else st.p &&& ~~~((1 : BitVec 8) <<< i.toNat) }

/-- m0 reads all-ones (R162). -/
def Strand.readM (st : Strand) (i : BitVec 3) : Dword := if i = 0 then BitVec.allOnes 64 else tget 0 st.m i.toNat

def Strand.writeM (st : Strand) (i : BitVec 3) (v mask : Dword) : Strand :=
  if i = 0 then st else { st with m := tset 0 st.m i.toNat ((v &&& mask) ||| (st.readM i &&& ~~~mask)) }

/-- Lane i of a vector (R159). -/
def lane (v : Vec) (i : Nat) : BitVec 32 := v.extractLsb' (32 * i) 32

/-- The vector whose lanes are a list's elements, lane 0 first. -/
def ofLanes (l : List (BitVec 32)) : Vec := BitVec.ofNat 2048 (l.foldr (fun x acc => x.toNat + 2 ^ 32 * acc) 0)

/-- The lanes of a vector. -/
def lanes (v : Vec) : List (BitVec 32) := (upto 64).map (lane v)

/-- The mask of 64 lanes as a vector of all-ones and all-zeros lanes. -/
def laneMask (m : Dword) : Vec := ofLanes ((upto 64).map (fun i => if m.getLsbD i then BitVec.allOnes 32 else 0))

def Strand.readV (st : Strand) (r : BitVec 5) : Vreg :=
  if 28 ≤ r.toNat then { val := ((st.yq (r.toNat - 28)).head?).getD 0 } else tget {} st.v r.toNat

/-- A masked write of a vector register with its tag rule (R94, R161). -/
def Strand.writeV (st : Strand) (r : BitVec 5) (v : Vec) (mask : Dword) (tag : Option (Option (Code × BitVec 60))) : Strand :=
  let old := tget {} st.v r.toNat
  let lm := laneMask mask
  { st with v := tset {} st.v r.toNat { val := (v &&& lm) ||| (old.val &&& ~~~lm), tag := tag.getD old.tag } }

def Strand.lc (st : Strand) (k : Nat) : Loop := tget {} st.loops k

def Strand.setLc (st : Strand) (k : Nat) (l : Loop) : Strand := { st with loops := tset {} st.loops k l }

/-- The engine queue of an engine. -/
def Strand.engq (st : Strand) (e : Nat) : List Entry := tget [] st.queues e

def Strand.setEngq (st : Strand) (e : Nat) (l : List Entry) : Strand := { st with queues := tset [] st.queues e l }

/-! ### Results in flight (R50, R143) -/

/-- A result of the word being issued, due lat cycles after its issue. -/
def State.result (s : State) (lat : Nat) (w : PendW) : State :=
  let p : Pend := { due := s.now + lat, eng := s.cur.eng, ord := s.nextId, seq := s.cur.ent.seq, w := w }
  { s with nextId := s.nextId + 1 }.modMe (fun st => { st with pend := st.pend ++ [p] })

/-- What one result in flight does when it is written. -/
def Strand.commit1 (st : Strand) (w : PendW) : Strand :=
  match w with
  | .s r v => st.writeS r v
  | .unreserve _ => st
  | .p i v => st.writeP i v
  | .m i v mask => st.writeM i v mask
  | .v d val mask tag => st.writeV d val mask tag
  | .stat f => { st with stat := st.stat ||| f }
  | .semm _ _ => st
  | .sr n v =>
    match n.toNat with
    | 0x010 => { st with stat := v.truncate 5 }
    | 0x011 => { st with srkey := v }
    | 0x020 => { st with tvec := v }
    | 0x021 => { st with cause := v.truncate 24 }
    | 0x022 => { st with tinfo := (v &&& 0x7FFFFFFFF1F).truncate 43 }
    | 0x023 => { st with taddr := v }
    | 0x024 => { st with tscr := v }
    | 0x043 => { st with vfsel := v.truncate 7 }
    | _ => st

/-- The order in which results of one cycle are written: engine code, then issue order; a write of sr.stat precedes flags (R143, R155). -/
def Pend.before (a b : Pend) : Bool :=
  decide (a.due < b.due) || (a.due == b.due && (decide (a.eng < b.eng) || (a.eng == b.eng && decide (a.ord < b.ord))))

/-- Flags of a cycle are ORed after a write of sr.stat that takes effect in it (R155). -/
def Pend.late (p : Pend) : Bool :=
  match p.w with
  | .stat _ => true
  | _ => false

/-- The results that satisfy a condition are written. -/
def Strand.commitWhere (st : Strand) (ok : Pend → Bool) : Strand :=
  let ready := st.pend.filter ok
  let rest := st.pend.filter (fun p => !ok p)
  let order := sortBy Pend.before (ready.filter (fun p => !p.late)) ++ sortBy Pend.before (ready.filter Pend.late)
  order.foldl (fun x p => x.commit1 p.w) { st with pend := rest }

/-- Every result due by cell time t from engines up to e is written. -/
def Strand.commitDue (st : Strand) (t e : Nat) : Strand := st.commitWhere (fun p => decide (p.due ≤ t) && decide (p.eng ≤ e))

/-- The results due by cell time t of engines up to L that precede a word of L are written (R143). -/
def Strand.commitBefore (st : Strand) (t ord : Nat) : Strand :=
  st.commitWhere (fun p => decide (p.due ≤ t) && decide (p.eng ≤ 4) && decide (p.ord < ord))

/-- The part of a result in flight that lies outside the strand: semm.sel. -/
def State.commitOut (s : State) (t : Nat) (p : Pend) : State :=
  match p.w with
  | .semm vf sel => if p.due ≤ t then s.modVf vf.toNat (fun v => { v with semSel := sel }) else s
  | _ => s

/-- Results due in every strand of a cell. -/
def State.commitCell (s : State) (c e : Nat) : State :=
  [0, 1, 2, 3].foldl (fun x sc =>
    let pend := (x.strand c sc).pend
    if pend.isEmpty then x
    else
      let t := (x.cell c).time
      (pend.foldl (fun y p => y.commitOut t p) x).modStrand c sc (fun st => st.commitDue t e)) s

/-! ### Operations in flight -/

def State.ops (s : State) (c : Nat) : List Op := (s.cell c).ops

def State.addOp (s : State) (c : Nat) (o : Op) : State := s.modCell c (fun x => { x with ops := x.ops ++ [o] })

def State.findOp (s : State) (c id : Nat) : Option Op := (s.ops c).find? (fun o => o.id == id)

def State.dropOp (s : State) (c id : Nat) : State := s.modCell c (fun x => { x with ops := x.ops.filter (fun o => o.id != id) })

def State.modOp (s : State) (c id : Nat) (f : Op → Op) : State :=
  s.modCell c (fun x => { x with ops := x.ops.map (fun o => if o.id == id then f o else o) })

/-- A new operation of the word being issued, due lat cycles after its issue. -/
def State.startOp (s : State) (lat : Nat) (body : OpBody) (f : Op → Op) : Nat × State :=
  let (id, s) := s.fresh
  (id, s.addOp s.cur.cell (f { id := id, sc := s.cur.sc, eng := s.cur.eng, ent := s.cur.ent, slot := s.cur.replay.isSome, issued := s.now,
                               due := s.now + lat, body := body }))

/-- An error response of an operation (R49). -/
def State.failOp (s : State) (c id : Nat) (code : Code) (a : Dword) : State := s.modOp c id (fun o => { o with err := some (code, a) })

/-! ### Device memory (R284 to R287) -/

/-- The bytes of device memory as a die's sequence has them. -/
def DevMem.view (m : DevMem) (d : Nat) : Table Byte := tget [] m.views d

/-- The counts of writes of each die that a die's sequence holds. -/
def DevMem.clock (m : DevMem) (d : Nat) : List Nat := tget [0, 0, 0, 0] m.clocks d

/-- The canonical form of device memory: in each sequence and in home order, and among the poisoned words, the keys rise and no entry
equals what an unlisted one reads as. -/
def Memory.wf (m : DevMem) : Bool := m.views.all (fun e => tcanon 0 e.2) && tcanon 0 m.home && tcanon false m.poison

/-- n bytes from a, little-endian (R4). -/
def leRead (t : Table Byte) (a : Nat) : Nat → Nat
  | 0 => 0
  | n + 1 => (tget 0 t a).toNat + 256 * leRead t (a + 1) n

/-- n bytes from a. -/
def bytesAt (t : Table Byte) (a n : Nat) : List Byte := (span a n).map (tget 0 t)

/-- The little-endian bytes of a number. -/
def leBytes (v : Nat) : Nat → List Byte
  | 0 => []
  | n + 1 => BitVec.ofNat 8 v :: leBytes (v / 256) n

/-- The number whose little-endian bytes a list holds. -/
def ofBytes (l : List Byte) : Nat := l.foldr (fun b acc => b.toNat + 256 * acc) 0

/-- Bytes placed from an address on. -/
def placed (a : Nat) : List Byte → List (Nat × Byte)
  | [] => []
  | b :: r => (a, b) :: placed (a + 1) r

def writeAll (t : Table Byte) (l : List (Nat × Byte)) : Table Byte := l.foldl (fun x e => tset 0 x e.1 e.2) t

/-- An 8-byte word is poisoned (R432). -/
def DevMem.poisoned (m : DevMem) (a : Nat) : Bool := tget false m.poison (a / 8)

/-- The words that a list of bytes covers whole lose their poison (R432). -/
def DevMem.cure (m : DevMem) (l : List (Nat × Byte)) : DevMem :=
  if m.poison.isEmpty then m
  else { m with poison := m.poison.filter (fun e => !((upto 8).all (fun i => l.any (fun x => x.1 == 8 * e.1 + i)))) }

def bump (l : List Nat) (d : Nat) : List Nat := modifyAt (· + 1) l d

/-- A write of some words enters a die's sequence, before atomics of that die that are still to land (R287). -/
def DevMem.pass (m : DevMem) (d : Nat) (hit : Nat → Bool) : DevMem :=
  if m.turns.isEmpty then m
  else { m with turns := m.turns.map (fun t => if t.die == d && hit t.word then { t with passed := true } else t) }

/-- Bytes touch an 8-byte word. -/
def touches (l : List (Nat × Byte)) (w : Nat) : Bool := l.any (fun e => e.1 / 8 == w)

/-- A range of bytes that is zeroed touches an 8-byte word. -/
def touched (lo n w : Nat) : Bool := decide (lo / 8 ≤ w) && decide (w < (lo + n) / 8)

/-- The word before an atomic with the bytes of a write in it: they come before the atomic if it takes its place again (R287). -/
def AtomTurn.over (l : List (Nat × Byte)) (t : AtomTurn) : AtomTurn :=
  if touches l t.word then
    { t with old := BitVec.ofNat 64 (leRead (writeAll [] (placed (8 * t.word) (leBytes t.old.toNat 8) ++ l.filter (fun e => e.1 / 8 == t.word)))
        (8 * t.word) 8) }
  else t

/-- The same for a range that is zeroed. -/
def AtomTurn.zeroed (lo n : Nat) (t : AtomTurn) : AtomTurn := if touched lo n t.word then { t with old := 0 } else t

/-- What a write makes of the atomics that are still to land. -/
def DevMem.onTurns (m : DevMem) (f : AtomTurn → AtomTurn) : DevMem := if m.turns.isEmpty then m else { m with turns := m.turns.map f }

/-- A write that every die's sequence takes at once, before the atomics that are still to land. -/
def DevMem.passAll (m : DevMem) (hit : Nat → Bool) : DevMem := m.onTurns (fun t => if hit t.word then { t with passed := true } else t)

/-- A table without the keys lo … lo + n − 1. -/
def tclear {α : Type} (t : Table α) (lo n : Nat) : Table α := t.filter (fun e => !(decide (lo ≤ e.1) && decide (e.1 < lo + n)))

/-- The bytes of a sequence after the range that a write zeroes. -/
def GWrite.cleared (w : GWrite) (t : Table Byte) : Table Byte :=
  match w.zero with
  | some (lo, n) => tclear t lo n
  | none => t

/-- A write enters the sequence of its own die and home order; it has yet to enter the other dies' (R285, R286). -/
def State.enterWrite (s : State) (die : Nat) (l : List (Nat × Byte)) : Nat × State :=
  let m := s.mem
  let vc := m.clock die
  let w : GWrite := { id := s.nextId, die := die, num := vc.getD die 0 + 1, deps := vc,
                      todo := [0, 1, 2, 3].filter (· != die), bytes := l }
  (w.id, { s with nextId := s.nextId + 1,
                  mem := { m with views := tput die (writeAll (m.view die) l) m.views, home := writeAll m.home l,
                                  flight := m.flight ++ [w], clocks := tput die (bump vc die) m.clocks }.cure l |>.pass die (touches l) |>.onTurns (AtomTurn.over l) })

/-- The zeroing of a byte range, a write of a die (R318, R432). -/
def State.zeroAt (s : State) (die lo n : Nat) : State :=
  let m := s.mem
  let vc := m.clock die
  let w : GWrite := { id := s.nextId, die := die, num := vc.getD die 0 + 1, deps := vc,
                      todo := [0, 1, 2, 3].filter (· != die), zero := some (lo, n), bytes := [] }
  { s with nextId := s.nextId + 1,
           mem := ({ m with views := tput die (tclear (m.view die) lo n) m.views, home := tclear m.home lo n,
                            poison := tclear m.poison (lo / 8) (n / 8), flight := m.flight ++ [w],
                            clocks := tput die (bump vc die) m.clocks } : DevMem).pass die (touched lo n) |>.onTurns (AtomTurn.zeroed lo n) }

/-- A write may enter a die's sequence: the writes that precede it have (R286). -/
def DevMem.canEnter (m : DevMem) (d : Nat) (w : GWrite) : Bool :=
  let vc := m.clock d
  w.todo.contains d && vc.getD w.die 0 + 1 == w.num &&
    [0, 1, 2, 3].all (fun k => k == w.die || decide (w.deps.getD k 0 ≤ vc.getD k 0))

/-- A write enters a die's sequence. -/
def DevMem.enter (m : DevMem) (d : Nat) (w : GWrite) : DevMem :=
  let rest := w.todo.filter (· != d)
  ({ m with views := tput d (writeAll (w.cleared (m.view d)) w.bytes) m.views, clocks := tput d (bump (m.clock d) w.die) m.clocks,
            flight := if rest.isEmpty then m.flight.filter (fun x => x.id != w.id)
                      else m.flight.map (fun x => if x.id == w.id then { x with todo := rest } else x) } : DevMem).pass d
    (fun a => touches w.bytes a || (match w.zero with | some (lo, n) => touched lo n a | none => false))

/-- One write that may enter die d does, if there is one. -/
def DevMem.enterOne (m : DevMem) (d : Nat) : DevMem :=
  match m.flight.find? (fun w => m.canEnter d w) with
  | some w => m.enter d w
  | none => m

/-- Die d takes n writes in turn. -/
def DevMem.enterMany (m : DevMem) (d : Nat) : Nat → DevMem
  | 0 => m
  | n + 1 => (m.enterOne d).enterMany d n

/-- Every write in flight enters die d. -/
def State.catchUp (s : State) (d : Nat) : State := { s with mem := s.mem.enterMany d s.mem.flight.length }

/-- Every write in flight enters every die. -/
def State.settle (s : State) : State :=
  { s with mem := [0, 1, 2, 3].foldl (fun (m : DevMem) d => m.enterMany d m.flight.length) s.mem }

/-- The write of a global atomic, which home order holds already, enters its own die's sequence (R287). -/
def State.enterAtomic (s : State) (die : Nat) (l : List (Nat × Byte)) : State :=
  let home := s.mem.home
  let s := (s.enterWrite die l).2
  { s with mem := { s.mem with home := home } }

/-- The writes in flight that a release on a die at a scope waits for (R289, R290): those that have entered its sequence and not yet
every sequence in the scope. -/
def State.cover (s : State) (die scope : Nat) : List Nat :=
  if scope < 3 then [] else (s.mem.flight.filter (fun w => !w.todo.contains die)).map (·.id)

/-- An operation in flight that writes its own cell's scratchpad. -/
def OpBody.localWrite : OpBody → Bool
  | .sstore _ => true
  | .satom .. => true
  | .barRel .. => true
  | .barUpdate .. => true
  | .mlines rd _ _ _ _ => !rd
  | .che _ _ out => out.isSome
  | _ => false

/-- The writes that a release of a strand's word at place seq of its fetch order waits for: global writes, and the writes and atomics of
the strand that have not been applied (R290). -/
def State.coverOf (s : State) (c sc seq scope : Nat) : List Nat :=
  s.cover (dieOf c) scope ++ ((s.ops c).filter (fun o => o.sc == sc && decide (o.ent.seq < seq) &&
    (match o.req with
     | some (.moving _ _ false ..) | some (.peerWrite ..) | some (.ratom ..) | some (.bar ..) | some (.kvStore ..) | some (.kvFork _) | some (.kvFree _) => true
     | _ => o.body.localWrite))).map (·.id)

/-- The covered writes are performed. -/
def State.performed (s : State) (l : List Nat) : Bool :=
  let done (id : Nat) (x : Cell) : Bool := x.ops.all (fun o => o.id != id || (o.req.isNone && !o.body.localWrite))
  l.all (fun id => !s.mem.flight.any (fun w => w.id == id) && s.cells.all (fun e => done id e.2) &&
    s.vfs.all (fun v => match v.2.saved with | some x => x.cells.all (fun e => done id e.2) | none => true))

/-- Device memory is zeroed in a byte range by the device itself, its poison with it: every write in flight enters every die first, and
then every die sees the zeros at once (R286). -/
def State.zeroMem (s : State) (lo n : Nat) : State :=
  let s := s.settle
  { s with mem := (({ s.mem with views := s.mem.views.map (fun e => (e.1, tclear e.2 lo n)), home := tclear s.mem.home lo n,
                                 poison := tclear s.mem.poison (lo / 8) (n / 8) } : DevMem).passAll (touched lo n)).onTurns (AtomTurn.zeroed lo n) }

/-- A write in flight touches a range of bytes. -/
def GWrite.inRange (w : GWrite) (lo n : Nat) : Bool :=
  w.bytes.any (fun e => decide (lo ≤ e.1) && decide (e.1 < lo + n)) ||
    (match w.zero with | some (a, k) => decide (a < lo + n) && decide (lo < a + k) | none => false)

/-- The writes in flight to a range of bytes, and those before them, enter every die (R286). -/
def State.settleRange (s : State) (lo n : Nat) : State := if s.mem.flight.any (fun w => w.inRange lo n) then s.settle else s

/-! ### Translation (R312 to R316) -/

/-- The kinds of access of R316. -/
inductive Acc where
  | rd | wr | at | ex
  deriving DecidableEq, Repr

/-- What a page translates to: the byte address of its frame, or the address and word of a demand-zero leaf (R320). -/
inductive Xlat where
  | frame (pa : Nat)
  | zero (leaf : Nat) (word : Dword)
  deriving DecidableEq, Repr

/-- The byte address of slice s. -/
def sliceBase (s : Nat) : Nat := s * (sliceFrames * frameBytes)

/-- The VF holds a slice (R310). -/
def VfCfg.hasSlice (c : VfCfg) (s : Nat) : Bool := c.slices.getLsbD s

/-- The table that a pointer entry names (R313). -/
def pointerTable (c : VfCfg) (e : Dword) : Except Code Nat :=
  if e.getLsbD 63 = false || e.extractLsb' 25 38 != 0 then .error Code.page
  else
    let slice := (e.extractLsb' 18 7).toNat
    let tbl := (e.extractLsb' 0 18).toNat
    if 196607 < tbl then .error Code.page
    else if c.hasSlice slice then .ok (sliceBase slice + tbl * 16384) else .error Code.prot

/-! ### The measurement registers (R375, R392, R395) -/

/-- The place of measurement register Mi in the management region. -/
def measureAt (i : Nat) : Nat := 0x800 + 32 * i

/-- An address lies in the measurement registers. -/
def inMeasures (pa : Nat) : Bool := decide (0x800 ≤ pa) && decide (pa < 0x900)

/-- Mi at the end of the reset from which State.reset starts: the hash of the image's body in M0, that of the firmware's configuration in M1
(R392, R395). -/
def measureReset : Nat → Node
  | 0 => hashNode (Config.imageBody Config.bootImage)
  | 1 => hashNode Config.firmware
  | _ => 0

/-- The bytes of Mi. -/
def State.measure (s : State) (i : Nat) : List Byte := nodeBytes ((tfind i s.boot.measured).getD (measureReset i))

/-- The byte of a measurement register at an address. -/
def State.measureByte (s : State) (pa : Nat) : Byte := (s.measure ((pa - 0x800) / 32)).getD (pa % 32) 0

/-- The byte at an address as a die reads it. -/
def State.byteAt (s : State) (die pa : Nat) : Byte := if inMeasures pa then s.measureByte pa else tget 0 (s.mem.view die) pa

/-- The word at an address in home order (R287). -/
def State.homeWord (s : State) (pa : Nat) : Dword :=
  BitVec.ofNat 64 (if inMeasures pa then ((span pa 8).reverse.map s.measureByte).foldl (fun acc b => 256 * acc + b.toNat) 0 else leRead s.mem.home pa 8)

/-- A table word as a walk on a die reads it. -/
def State.tableWord (s : State) (die a : Nat) : Except Code Dword :=
  if s.mem.poisoned a then .error Code.poison else .ok (BitVec.ofNat 64 (leRead (s.mem.view die) a 8))

/-- The permissions that an access needs (R316). -/
def leafGrants (leaf : Dword) (acc : Acc) : Bool :=
  match acc with
  | .rd => leaf.getLsbD 62
  | .wr => leaf.getLsbD 61
  | .at => leaf.getLsbD 62 && leaf.getLsbD 61
  | .ex => leaf.getLsbD 60

/-- What a leaf gives for a VA (R310, R314, R315). -/
def leafXlat (c : VfCfg) (leaf : Dword) (leafAddr va : Nat) (acc : Acc) : Except Code Xlat :=
  if leaf.extractLsb' 39 19 != 0 || leaf.extractLsb' 0 16 != 0 then .error Code.page
  else if leaf.getLsbD 58 && leaf.getLsbD 59 then .error Code.page
  else if leaf.getLsbD 63 then
    let slice := (leaf.extractLsb' 32 7).toNat
    let frame := (leaf.extractLsb' 16 16).toNat
    if sliceFrames ≤ frame then .error Code.page
    else if leaf.getLsbD 59 && frame % 512 != 0 then .error Code.page
    else if !c.hasSlice slice then .error Code.prot
    else if !leafGrants leaf acc then .error Code.prot
    else .ok (.frame (sliceBase slice + (if leaf.getLsbD 59 then frame + va / frameBytes % 512 else frame) * frameBytes))
  else if leaf.getLsbD 58 then (if leafGrants leaf acc then .ok (.zero leafAddr leaf) else .error Code.prot)
  else .error Code.page

/-- The leaf of a VA: the walk through three pointer tables (R312, R313). -/
def State.walkLeaf (s : State) (vf die va : Nat) : Except Code (Nat × Dword) := do
  let c := (s.vf vf).cfg
  let t1 ← pointerTable c c.ptroot
  let e1 ← s.tableWord die (t1 + 8 * (va / 2 ^ 49 % 2048))
  let t2 ← pointerTable c e1
  let e2 ← s.tableWord die (t2 + 8 * (va / 2 ^ 38 % 2048))
  let t3 ← pointerTable c e2
  let e3 ← s.tableWord die (t3 + 8 * (va / 2 ^ 27 % 2048))
  let t4 ← pointerTable c e3
  let a := t4 + 8 * (va / 2 ^ 16 % 2048)
  let leaf ← s.tableWord die a
  return (a, leaf)

/-- VF0's management region, which firmware maps (R424). -/
def inMgmt (vf va : Nat) : Bool := vf == 0 && decide (mgmtVa ≤ va) && decide (va < mgmtVa + 0x40000)

/-- The translation of one page for an agent (a cell, whose cached leaves it may use, or none) of a VF on a die (R293, R316). -/
def State.translate (s : State) (agent : Option Nat) (vf die va : Nat) (acc : Acc) : Except Code Xlat :=
  if 2 ^ 60 ≤ va then .error Code.page
  else if inMgmt vf va then
    (match acc with
     | .ex => .error Code.prot
     | _ => .ok (.frame ((va - mgmtVa) / frameBytes * frameBytes)))
  else
    match agent.bind (fun c => tfind (va / frameBytes) (s.cell c).tlb) with
    | some leaf => leafXlat (s.vf vf).cfg leaf 0 va acc
    | none =>
      match s.walkLeaf vf die va with
      | .error e => .error e
      | .ok (a, leaf) => leafXlat (s.vf vf).cfg leaf a va acc

/-- A cell keeps the leaf of a page that it has walked; only resident leaves are kept (R293). -/
def State.cacheLeaf (s : State) (c vf die va : Nat) : State :=
  if inMgmt vf va then s
  else
    match tfind (va / frameBytes) (s.cell c).tlb with
    | some _ => s
    | none =>
      match s.walkLeaf vf die va with
      | .ok (_, leaf) => if leaf.getLsbD 63 then s.modCell c (fun x => { x with tlb := tput (va / frameBytes) leaf x.tlb }) else s
      | .error _ => s

/-- The pages of n bytes from va, each with its translation; the first that fails gives its code and its lowest byte in the
access (R316). -/
def State.pages (s : State) (agent : Option Nat) (vf die va n : Nat) (acc : Acc) : Except (Code × Dword) (List (Nat × Xlat)) :=
  (span (va / frameBytes) ((va + n - 1) / frameBytes - va / frameBytes + 1)).mapM (fun p =>
    match s.translate agent vf die (p * frameBytes) acc with
    | .ok x => .ok (p, x)
    | .error e => .error (e, BitVec.ofNat 64 (max va (p * frameBytes))))

/-- The byte address of a VA under translated pages; none in a demand-zero page. -/
def paOf (pg : List (Nat × Xlat)) (va : Nat) : Option Nat :=
  match pg.find? (fun e => e.1 == va / frameBytes) with
  | some (_, .frame pa) => some (pa + va % frameBytes)
  | _ => none

/-- n bytes from va through translated pages, on a die; a poisoned word gives POISON with the first VA in it (R320, R432). -/
def State.readPages (s : State) (die : Nat) (pg : List (Nat × Xlat)) (va n : Nat) : Except (Code × Dword) (List Byte) :=
  (span va n).mapM (fun a =>
    match paOf pg a with
    | none => .ok 0
    | some pa => if s.mem.poisoned pa then .error (Code.poison, BitVec.ofNat 64 a) else .ok (s.byteAt die pa))

/-- A read of n bytes of a VF's memory. -/
def State.readVa (s : State) (agent : Option Nat) (vf die va n : Nat) : Except (Code × Dword) (List Byte) := do
  let pg ← s.pages agent vf die va n .rd
  s.readPages die pg va n

/-! ### The page allocator (R317, R318, R320) -/

/-- The head of the free list, zeroed on a die after the writes of its former use, or none when H = Q (R318). -/
def State.allocFrame (s : State) (vf die : Nat) : Option (Nat × State) :=
  let v := s.vf vf
  if v.cfg.quota ≤ v.held then none
  else
    match v.free with
    | [] => none
    | (f, n) :: r =>
      let rest := if n ≤ 1 then r else (f + 1, n - 1) :: r
      some (f, ((s.settleRange (f * frameBytes) frameBytes).modVf vf (fun v => { v with free := rest, held := v.held + 1 })).zeroAt die
        (f * frameBytes) frameBytes)

/-- A frame returns to the tail of the free list (R318, R319). -/
def State.freeFrame (s : State) (vf f : Nat) : State :=
  s.modVf vf (fun v => { v with free := v.free ++ [(f, 1)], held := v.held - 1 })

/-- A leaf is demand-zero (R314, R320). -/
def demandZero (leaf : Dword) : Bool := !leaf.getLsbD 63 && leaf.getLsbD 58 && !leaf.getLsbD 59

/-- The first write to a demand-zero leaf that a walk has read: a frame is allocated and installed in the leaf by a compare-and-swap at its
home. A leaf that differs there from the one walked loses the swap: nothing is charged, its changes enter the die, and it is walked again
(R320). -/
def State.installZero (s : State) (vf die leafAddr : Nat) (walked : Dword) : Except Code State :=
  let leaf : Dword := BitVec.ofNat 64 (leRead s.mem.home leafAddr 8)
  if leaf != walked && !demandZero leaf then .ok (s.catchUp die)
  else
    match s.allocFrame vf die with
    | none => .error Code.quota
    | some (f, s) =>
      let new : Dword := (leaf &&& 0xFFFFFF800000FFFF) ||| (1 <<< 63) |||
        BitVec.ofNat 64 (f / sliceFrames * 2 ^ 32) ||| BitVec.ofNat 64 (f % sliceFrames * 2 ^ 16)
      .ok (s.enterWrite die (placed leafAddr (leBytes new.toNat 8))).2

/-- The demand-zero pages among the translated pages of an access from va get their frames; QUOTA names the lowest byte of the access that
has none (R320, R396). -/
def State.installPages (s : State) (vf die va : Nat) : List (Nat × Xlat) → Except (Code × Dword) State
  | [] => .ok s
  | (p, .zero leaf w) :: r =>
    match s.installZero vf die leaf w with
    | .ok s => s.installPages vf die va r
    | .error e => .error (e, BitVec.ofNat 64 (max va (p * frameBytes)))
  | _ :: r => s.installPages vf die va r

/-- A byte of the management region that a program or the host may write: commands, the event head, tail and lost count, and the event
ring (R375). -/
def mgmtWritable (pa : Nat) : Bool :=
  decide (0x40000 ≤ pa) || decide (pa < 0x800) || (decide (0x900 ≤ pa) && decide (pa < 0x918)) ||
    (decide (0x1000 ≤ pa) && decide (pa < 0x21000))

/-- The bytes of a write that are not ignored (R375). -/
def writable (l : List (Nat × Byte)) : List (Nat × Byte) := l.filter (fun e => mgmtWritable e.1)

/-- A write of bytes from va to a VF's memory on a die: translation of every page, demand-zero pages installed, and the write's entry
into the die's sequence; the number of the write (R285, R316, R320, R324). -/
def State.writeVa (s : State) (agent : Option Nat) (vf die va : Nat) (l : List Byte) : Except (Code × Dword) (Nat × State) := do
  let pg ← s.pages agent vf die va l.length .wr
  let s ← s.installPages vf die va pg
  let pg ← s.pages agent vf die va l.length .wr
  return s.enterWrite die (writable ((placed va l).filterMap (fun e => (paOf pg e.1).map (fun pa => (pa, e.2)))))

/-! ### Raising faults (R397, R399, R403) -/

/-- The scalar sources of a wait, in reading order. -/
def waitSources (w : Word) : List (BitVec 6) :=
  match decodeWord w with
  | .ok (.bWait _ d _) => [d]
  | .ok (.lBarw _ d a b) => [a, b, d]
  | _ => []

/-- A popped entry goes back to the head of its queue, one for each queue register among the sources (R99). -/
def Strand.unpop (st : Strand) (rs : List (BitVec 6)) (vs : List Dword) : Strand :=
  (rs.zip vs).eraseDups.reverse.foldl (fun x e => if isQ e.1 then { x with q := tset [] x.q (qOf e.1) ({ val := e.2 } :: x.queue (qOf e.1)) } else x) st

/-- A word returns to the head of its engine's words, as it was before its issue. DESIGN CHOICE (log entry 76): its guard is read again. -/
def Strand.unissue (st : Strand) (o : Op) : Strand :=
  if o.slot then
    { st with replay := { ent := o.ent, eng := BitVec.ofNat 3 o.eng, ops := o.ops, vec := o.vec } :: st.replay }
  else (st.unpop (waitSources o.ent.word) o.ops).setEngq o.eng ({ o.ent with passed := false } :: st.engq o.eng)

/-- An operation is a wait that a trap or a switch withdraws (R299, R306). -/
def Op.isWait (o : Op) : Bool :=
  match o.body with
  | .semWait _ _ granted => !granted
  | .barWait .. => true
  | _ => false

/-- A wait's request leaves every FIFO and path (R299). -/
def State.forgetWait (s : State) (c id : Nat) : State :=
  { s with waits := s.waits.filter (fun w => !(w.w.cell == c && w.w.op == id)),
           sems := s.sems.map (fun e => (e.1, { e.2 with fifo := e.2.fifo.filter (fun w => !(w.cell == c && w.op == id)) })) }

/-- The waits of a strand without a grant are withdrawn: their words head their queues again (R299, R306). -/
def State.withdraw (s : State) (c sc : Nat) : State :=
  ((s.ops c).filter (fun o => o.sc == sc && o.isWait)).foldl (fun x o =>
    ((x.forgetWait c o.id).dropOp c o.id).modStrand c sc (fun st => st.unissue o)) s

/-- A trap begins in a strand: its ungranted waits are withdrawn. A fault raised while the handler flag is set starts a partition reset
of the VF (R403). -/
def State.raiseIn (s : State) (c sc : Nat) (t : Trap) : State :=
  let s := (s.modStrand c sc (fun st => { st with trap := some t })).withdraw c sc
  if (s.strand c sc).handler then s.modVf (s.vfOf c) (fun v => { v with presetDue := true }) else s

/-- An issue-time fault of the word being issued: the trap begins in this cycle and the word stays at the head of its queue. -/
def State.raise (s : State) (code : Code) (a : Dword) : State :=
  s.raiseIn s.cur.cell s.cur.sc
    { at' := s.now, code := code, taddr := a, fpc := s.cur.ent.addr, eng := BitVec.ofNat 3 s.cur.eng }

/-- The order of late faults (R399): by the cycle in which they landed, then by engine, then in issue order. -/
def Slot.before (x y : Slot) : Bool := decide (x.at' < y.at') || (x.at' == y.at' && decide (x.eng.toNat < y.eng.toNat))

/-- A late fault takes its place among those that have landed. -/
def insertLate (x : Slot) : List Slot → List Slot
  | [] => [x]
  | y :: r => if x.before y then x :: y :: r else y :: insertLate x r

/-- The trap that a late fault begins in a cycle. -/
def Slot.trapAt (x : Slot) (t : Nat) : Trap :=
  { at' := t, code := x.code, taddr := x.taddr, fpc := x.ent.addr, eng := x.eng, late := true }

/-- A fault lands on an operation that has issued: it goes to a replay slot, and the first of the cycle in the order of R399 begins a trap if
none has begun (R397). A strand that a close has stopped by force has its trap already, with PREEMPT (R409): the fault stays in its slot. -/
def State.lateFault (s : State) (c : Nat) (o : Op) (code : Code) (a : Dword) : State :=
  let t := (s.cell c).time
  let sl : Slot := { ent := o.ent, code := code, eng := BitVec.ofNat 3 o.eng, taddr := a, ops := o.ops, vec := o.vec, at' := t }
  let s := (s.dropOp c o.id).modCell c (fun x => { x with frozenOn := x.frozenOn.filter (· != o.id) })
  let s := s.modStrand c o.sc (fun st => { st with lates := insertLate sl st.lates })
  let st := s.strand c o.sc
  match st.trap with
  | some tr =>
    if tr.late && tr.at' == t && st.lates.head? == some sl then s.modStrand c o.sc (fun st => { st with trap := some (sl.trapAt t) }) else s
  | none =>
    -- a fault of a word issued before the handler is held while the handler runs (R403)
    if st.handler && decide (o.issued < st.entered) then s
    else if (s.cell c).closed && !st.handler then s
    else s.raiseIn c o.sc (sl.trapAt t)

end Sys2Proof.Machine
end

