-- ==== Sys2Proof/Machine/Flags.lean ====
section
/-! DEFINITION. The sticky flags of sr.stat (R71): which lanes raise them (R163, R175, R178) and when they are written. -/

namespace Sys2Proof.Machine

open Sys2Proof

/-- The union of flags. -/
def orFlags (l : List Flags) : Flags := l.foldl (fun a x => a ||| x) 0

/-- The flags of the lanes that a mask selects (R163). -/
def laneFlags (mask : Dword) (l : List Flags) : Flags :=
  orFlags ((l.zip (upto 64)).map (fun e => if mask.getLsbD e.2 then e.1 else 0))

/-- Flags of the issuing strand, set in the cycle in which the result is written (R71). -/
def State.flag (s : State) (lat : Nat) (f : Flags) : State := if f = 0 then s else s.result lat (.stat f)

/-- Flags set at once in a strand: of an operation that completes now. -/
def State.flagNow (s : State) (c sc : Nat) (f : Flags) : State :=
  if f = 0 then s else s.modStrand c sc (fun st => { st with stat := st.stat ||| f })

end Sys2Proof.Machine
end

