-- ==== Sys2Proof/Machine/Operands.lean ====
section
/-! DEFINITION. Issuing a word (R44, R92 to R101): guards and stage values, operand reading with its pops and holds, immediates with
their prefix, poisoned operands (R157, R161), and what becomes of the word: held, faulting, or issued. Every meaning of an
instruction word is one call of issueWord or issueLanes. -/

namespace Sys2Proof.Machine

open Sys2Proof

/-- What the issue of a word comes to: it stays at the head of its queue (queue: only for an entry of a queue register or port), it raises a fault, or it issues, leaving a state and
occupying its engine for occ cycles. -/
inductive Issue where
  | hold (queue : Bool)
  | fault (code : Code) (a : Dword)
  | done (occ : Nat) (s : State)
  /-- the word has issued and has left its queue already -/
  | gone (s : State)

/-! ### Guards (R92, R123) -/

/-- The value of a predicate guard, with the stage value of a pipelined loop in its place. -/
def guardP (st : Strand) (e : Entry) (g : Guard) : Bool :=
  let v :=
    match e.stages with
    | some (n, vals) => if g.reg ≠ 0 ∧ g.reg ≤ n then vals.getLsbD (g.reg.toNat - 1) else st.readP g.reg
    | none => st.readP g.reg
  v != g.neg

/-- The guard of the word being issued: a word whose engine has selected it and which waits has had its guard read (R93). -/
def State.guardNow (s : State) (g : Guard) : Bool := s.cur.ent.passed || guardP s.me s.cur.ent g

/-- The value of a mask guard. -/
def guardM (st : Strand) (e : Entry) (g : Guard) : Dword :=
  let v :=
    match e.stages with
    | some (n, vals) => if g.reg ≠ 0 ∧ g.reg ≤ n then (if vals.getLsbD (g.reg.toNat - 1) then BitVec.allOnes 64 else 0) else st.readM g.reg
    | none => st.readM g.reg
  if g.neg then ~~~v else v

/-! ### Immediates (R96, R100) -/

/-- The signed immediate of an RI word. -/
def immRI (e : Entry) (i : BitVec 6) : Dword :=
  match e.pfx with
  | some p => (p ++ i).signExtend 64
  | none => i.signExtend 64

/-- The signed immediate of an RI12 word. -/
def immRI12 (e : Entry) (i : BitVec 12) : Dword :=
  match e.pfx with
  | some p => (p ++ i).signExtend 64
  | none => i.signExtend 64

/-- The signed immediate of an I18 word. -/
def immI18 (e : Entry) (i : BitVec 18) : Dword :=
  match e.pfx with
  | some p => (p ++ i).signExtend 64
  | none => i.signExtend 64

/-- The displacement of a MEM word. -/
def disp (e : Entry) : Dword :=
  match e.pfx with
  | some p => p.signExtend 64
  | none => 0

/-- address + 4·offset (R96). -/
def target (e : Entry) (off : Dword) : Dword := e.addr + 4 * off

/-! ### The end of an issue -/

/-- The word has issued: it leaves its queue (or its replay slot), its engine has issued this strand last and is busy (R44). -/
def State.retire (s : State) (occ : Nat) : State :=
  let e := s.cur.eng
  let s :=
    match s.cur.replay with
    | some _ =>
      s.modMe (fun st => { st with replay := (match findIdx (fun (x : Slot) => x.eng.toNat == e) st.replay 0 with
                                              | some (i, _) => removeAt st.replay i
                                              | none => st.replay), active := true })
    | none => s.modMe (fun st => { st.setEngq e (st.engq e).tail with active := true })
  s.modHere (fun c => { c with lastIssue := tput e s.cur.sc c.lastIssue, busy := tput e (c.time + occ) c.busy })

/-- The head word of a queue keeps its guard, which has been read (R93); the lane masks of V and X are read at issue (R94). -/
def Strand.passHead (st : Strand) (e : Nat) : Strand :=
  match st.engq e with
  | x :: r => if e == engV || e == engX then st else st.setEngq e ({ x with passed := true } :: r)
  | [] => st

/-- The word stays at the head of its queue; its guard has been read. -/
def State.setHeld (s : State) (queue : Bool) : State :=
  { (if s.cur.replay.isSome then s else s.modMe (fun st => st.passHead s.cur.eng)) with cur := { s.cur with held := true, heldQ := queue } }

/-- The outcome of an issue, as the step of the machine. -/
def Issue.outcome (s : State) : Issue → Host.Outcome State Fault Refusal
  | .hold q => .next (s.setHeld q)
  | .fault c a => .next (s.raise c a)
  | .done occ t => .next (t.retire occ)
  | .gone t => .next t

/-- The issue of a B, S, L or M word: its prefix (R101), its guard (R93; a replayed word makes no guard test, R404), then its body. -/
def issueWord (pfxOk : Bool) (g : Guard) (s : State) (body : State → Issue) : Host.Outcome State Fault Refusal :=
  if s.cur.ent.pfx.isSome && !pfxOk then .next (s.raise Code.prefixFault s.cur.ent.addr)
  else if s.cur.replay.isNone && !s.guardNow g then .next (s.retire 1)
  else (body s).outcome s

/-- The issue of a V or X word: it always executes, under its lane mask (R94). -/
def issueLanes (g : Guard) (s : State) (body : Dword → State → Issue) : Host.Outcome State Fault Refusal :=
  if s.cur.ent.pfx.isSome then .next (s.raise Code.prefixFault s.cur.ent.addr)
  else (body (guardM s.me s.cur.ent g) s).outcome s

/-- A fault at the word's own address (R396). -/
def faultW (s : State) (code : Code) : Issue := .fault code s.cur.ent.addr

/-! ### Sources and their holds (R99) -/

/-- Every queue register among the sources holds an entry. -/
def srcReady (st : Strand) (rs : List (BitVec 6)) : Bool := rs.all (fun r => !isQ r || !(st.queue (qOf r)).isEmpty)

/-- Each queue register among the sources gives up one entry, in order of first mention. -/
def popSources (st : Strand) (rs : List (BitVec 6)) : Strand :=
  ((rs.filter isQ).eraseDups).foldl (fun x r => x.popQ (qOf r)) st

/-- Whether a word that is held for an entry has no other hold besides (R117): k is what its issue would come to with the entry. -/
def Issue.heldFor : Issue → Bool
  | .hold false => false
  | _ => true

/-- The scalar sources of a word in reading order: held until its queues hold entries; a replayed word takes the operands of its
slot (R404). -/
def withScalars (rs : List (BitVec 6)) (s : State) (k : List Sval → State → Issue) : Issue :=
  match s.cur.replay with
  | some sl => k (sl.ops.map (fun v => { val := v })) s
  | none =>
    let i := k (rs.map s.me.readS) (s.modMe (fun st => popSources st rs))
    if srcReady s.me rs then i else .hold i.heldFor

/-- The operand at a place of a list. -/
def opnd (l : List Sval) (i : Nat) : Sval := l.getD i {}

/-- The first poisoned operand, if any. -/
def firstPoison (l : List Sval) : Option (Code × Dword) :=
  match l with
  | [] => none
  | x :: r =>
    match x.tag with
    | some c => some (c, x.val)
    | none => firstPoison r

/-- A poisoned scalar operand raises its fault at the consuming word (R157). -/
def noPoison (l : List Sval) (k : Issue) : Issue :=
  match firstPoison l with
  | some (c, a) => .fault c (a &&& 0x0FFFFFFFFFFFFFFF)
  | none => k

/-- The result ports in sources that are vector registers v28 to v31 (R164). -/
def isY (r : BitVec 5) : Bool := decide (28 ≤ r.toNat)

def vsrcReady (st : Strand) (rs : List (BitVec 5)) : Bool := rs.all (fun r => !isY r || !(st.yq (r.toNat - 28)).isEmpty)

def popPorts (st : Strand) (rs : List (BitVec 5)) : Strand :=
  ((rs.filter isY).eraseDups).foldl (fun x r => x.popY (r.toNat - 28)) st

/-- The vector sources of a word: held until its ports hold rows; each port gives up one row. A replayed word has the vector of its
slot. -/
def withVectors (rs : List (BitVec 5)) (s : State) (k : List Vreg → State → Issue) : Issue :=
  match s.cur.replay.bind (·.vec) with
  | some v => k (rs.map (fun _ => { val := v })) s
  | none =>
    let i := k (rs.map s.me.readV) (s.modMe (fun st => popPorts st rs))
    if vsrcReady s.me rs then i else .hold i.heldFor

def vopnd (l : List Vreg) (i : Nat) : Vreg := l.getD i {}

/-- The tag of the first poisoned vector. -/
def firstVTag (l : List Vreg) : Option (Code × BitVec 60) := l.findSome? (·.tag)

/-- A poisoned vector operand raises its fault at an L or M word, a compare or v.chk (R161). -/
def noVPoison (l : List Vreg) (k : Issue) : Issue :=
  match firstVTag l with
  | some (c, a) => .fault c (a.zeroExtend 64)
  | none => k

/-! ### Destinations and their holds (R99) -/

/-- The scalar register that an operation in flight will write. -/
def OpBody.sdest : OpBody → Option (BitVec 6)
  | .timedS d _ _ => some d
  | .barUpdate _ _ _ _ d => d
  | .barRel _ _ _ _ _ d _ => d
  | .kfork d _ => some d
  | .sload (.s d) _ _ _ _ => some d
  | .satom _ _ _ _ _ d => some d
  | _ => none

/-- Entries of queue register i reserved by words in flight. -/
def reservedQ (c : Cell) (sc : Nat) (i : Nat) : Nat :=
  ((c.strand sc).pend.filter (fun p =>
    match p.w with
    | .s r _ => isQ r && qOf r == i
    | .unreserve r => isQ r && qOf r == i
    | _ => false)).length +
  (c.ops.filter (fun o => o.sc == sc && (match o.body.sdest with | some r => isQ r && qOf r == i | none => false))).length

/-- A destination has room: a queue register a free entry, counting reserved entries (R99). The state is the one after the word's
own pops, whose freed entry counts. -/
def State.room (s : State) (d : BitVec 6) : Bool :=
  !isQ d || decide ((s.me.queue (qOf d)).length + reservedQ s.here s.cur.sc (qOf d) < 8)

/-- Held until a condition holds. -/
def needs (b : Bool) (k : Issue) : Issue := if b then k else .hold false

/-- Held until a destination has room. -/
def roomFor (d : BitVec 6) (s : State) (k : Issue) : Issue := if s.room d then k else .hold k.heldFor

/-! ### Buffers (R47, R132) -/

/-- Register-landing entries of the strand in use. -/
def State.landings (s : State) : Nat := (s.here.ops.filter (fun o => o.sc == s.cur.sc && o.buf == .landing)).length

def State.sends (s : State) : Nat := (s.here.ops.filter (fun o => o.sc == s.cur.sc && o.buf == .send)).length

def State.landingFree (s : State) : Bool := decide (s.landings < 8)

def State.sendFree (s : State) : Bool := decide (s.sends < 4)

/-! ### Holds between words (R299, R306, R292) -/

/-- Words that write, which a release fence holds (R292). -/
def isWriter : Instr → Bool
  | .lSts .. | .lStvs .. | .lAtom .. | .lStg .. | .lStvg .. | .lGatom .. | .lStk .. | .lKfork .. | .lKfree .. | .lRatom .. => true
  | .lBarr .. | .lBare .. | .bSig .. | .bMsg .. | .bPost .. | .bLaunch .. => true
  | .mDrain .. | .mDrainQ .. | .mDrainPeer .. | .mMsave .. | .mChe .. | .mCheQ .. | .mChsv .. => true
  | _ => false

/-- The words that a fence holds (R292): kind 0 acq, 1 rel, 2 ar. -/
def fenceHolds (k : BitVec 2) : Holds := if k = 1 then .writes else .all

/-- What a wait, barrier wait or fence holds while it stands in its queue: its guard is known only when it reaches the head (R93). The
opcode is looked at first, since few words are one of these. -/
def holdsAhead (w : Word) : Holds :=
  if fld w 22 10 ∈ [0x223, 0x224, 0x221, 0x016] then
    match decodeWord w with
    | .ok (.lFence _ k _) => fenceHolds k
    | .ok (.lTfence ..) | .ok (.lBarw ..) | .ok (.bWait ..) => .all
    | _ => .none
  else .none

/-- A hold meets a word of an engine that writes or does not. -/
def Holds.meets (h : Holds) (eng : Nat) (writer : Bool) : Bool :=
  match h with | .all => true | .writes => writer | .b => eng == 0 | .l => eng == 4 | .none => false

/-- A word of an engine is held by a wait, barrier wait, fence or b.smap that was fetched before it (R292, R293, R299, R300, R306): one
in flight, or a wait or fence that has not issued. -/
def heldBy (c : Cell) (sc seq eng : Nat) (writer : Bool) : Bool :=
  c.ops.any (fun o => o.sc == sc && decide (o.ent.seq < seq) && o.holds.meets eng writer) ||
  (let st := c.strand sc
   let waits (e : Entry) : Bool := decide (e.seq < seq) && (holdsAhead e.word).meets eng writer
   st.replay.any (fun x => waits x.ent) || (st.engq 0).any waits || (st.engq 4).any waits)

/-- Every word of the strand fetched before place seq has issued. -/
def allIssuedBefore (st : Strand) (seq : Nat) : Bool :=
  st.replay.all (fun x => decide (seq ≤ x.ent.seq)) && [0, 1, 2, 3, 4, 5].all (fun e => (st.engq e).all (fun x => decide (seq ≤ x.seq)))

/-- Nothing of the strand is in flight: no result and no operation. -/
def quiet (c : Cell) (sc : Nat) : Bool := (c.strand sc).pend.isEmpty && c.ops.all (fun o => o.sc != sc)

end Sys2Proof.Machine
end

