-- ==== Sys2Proof/Machine/Sfu.lean ====
section
/-! DEFINITION. The special functions of the X engine (R182): the exact function value is enclosed in fixed point with 2^P units
(P = 300, error below 2^40 units), and its leading bits with a sticky part are rounded once to nearest even. rcp, rsqrt and sqrt
are exact integer quotients and roots. -/

namespace Sys2Proof

/-- floor of the square root, from the highest of n bits down. -/
def isqrtBits (n : Nat) (x : Nat) : Nat → Nat
  | 0 => 0
  | b + 1 =>
    let r := isqrtBits n x b
    let t := r + 2 ^ (n - (b + 1))
    if t * t ≤ x then t else r

/-- floor of the square root of x < 2^(2n). -/
def isqrt (n x : Nat) : Nat := isqrtBits n x n

/-- The fixed-point scale 2^P. -/
def fixP : Nat := 300
def fixOne : Nat := 2 ^ fixP

/-- A rounding that never meets an exact value: the magnitude is strictly between m and m + 1 in units of 2^e. -/
def roundSticky (neg : Bool) (m : Nat) (e : Int) : BitVec 32 × Flags := round32Fin .rne neg m e true Draw.none 0

/-- atanh(z) for 0 ≤ z ≤ 1/2 by its series, n terms from exponent 2k + 1 on; zk is z^(2k+1). -/
def atanhSeries (z2 : Nat) : Nat → Nat → Nat → Nat
  | 0, _, _ => 0
  | n + 1, k, zk => zk / (2 * k + 1) + atanhSeries z2 n (k + 1) (zk * z2 / fixOne)

/-- atanh of num/den. -/
def atanhFix (num den : Nat) : Nat :=
  let z := num * fixOne / den
  atanhSeries (z * z / fixOne) 110 0 z

/-- ln 2. -/
def ln2Fix : Nat := 2 * atanhFix 1 3

/-- e^z for 0 ≤ z < 1 by its series: n terms, tk = z^k / k!. -/
def expSeries (z : Nat) : Nat → Nat → Nat → Nat
  | 0, _, _ => 0
  | n + 1, k, tk => tk + expSeries z n (k + 1) (tk * z / (fixOne * (k + 1)))

/-- e^z for 0 ≤ z < 1. -/
def expFix (z : Nat) : Nat := expSeries z 80 0 fixOne

/-- The fixed-point magnitude of m · 2^e, truncated. -/
def fixMag (m : Nat) (e : Int) : Nat := if 0 ≤ e + fixP then m * pow2 (e + fixP) else m / pow2 (-(e + fixP))

/-- 2^x of an exact value that is a multiple of 2^−149, correctly rounded (R182, R244). -/
def exp2Val (x : FVal) : BitVec 32 × Flags :=
  match x with
  | .nan => (0x7FC00000, Flags.nan)
  | .inf neg => (if neg then 0 else 0x7F800000, 0)
  | .fin neg m e =>
    if m = 0 then (0x3F800000, 0)
    else if 9 < (Nat.log2 m : Int) + e then
      (if neg then (0, Flags.inx) else (0x7F800000, Flags.ovf ||| Flags.inx))
    else
      let v : Int := signed neg (fixMag m e)          -- exact: |x| ≥ 2^−149
      let n : Int := v / (fixOne : Int)
      let f : Nat := (v % (fixOne : Int)).toNat
      if f = 0 then round32Fin .rne false 1 n false Draw.none 0
      else roundSticky false (expFix (f * ln2Fix / fixOne) / 2 ^ 150) (n - fixP + 150)

/-- exp2 (R182). -/
def sfuExp2 (x : BitVec 32) : BitVec 32 × Flags := exp2Val (f32 x)

/-- A quotient of finite values, the divisor nonzero, rounded from its exact value (R8). -/
def divRound (mode : RMode) (x y : FVal) : BitVec 32 × Flags :=
  match x, y with
  | .fin n1 m1 e1, .fin n2 m2 e2 =>
    let sh := 80 + Nat.log2 m2 - Nat.log2 m1
    let n := m1 * 2 ^ sh
    round32Fin mode (n1 != n2) (n / m2) (e1 - e2 - sh) (n % m2 != 0) Draw.none 0
  | _, _ => (0x7FC00000, Flags.nan)

/-- ln of m / 2^(log2 m), in [0, ln 2). -/
def lnMant (m : Nat) : Nat :=
  let top := 2 ^ Nat.log2 m
  2 * atanhFix (m - top) (m + top)

/-- log2 (R182). -/
def sfuLog2 (x : BitVec 32) : BitVec 32 × Flags :=
  match f32 x with
  | .nan => (0x7FC00000, Flags.nan)
  | .inf neg => if neg then (0x7FC00000, Flags.nan) else (0x7F800000, 0)
  | .fin neg m e =>
    if m = 0 then (0xFF800000, 0)
    else if neg then (0x7FC00000, Flags.nan)
    else
      let n : Int := (Nat.log2 m : Int) + e
      if m = 2 ^ Nat.log2 m then rne32 (FVal.ofInt n 0)
      else
        let v : Int := n * fixOne + (lnMant m * fixOne / ln2Fix : Nat)
        roundSticky (decide (v < 0)) (v.natAbs / 2 ^ 60) (60 - fixP)

/-- rcp (R182): 1/x, an exact quotient. DESIGN CHOICE (log entry 67): ±0 gives ±Inf without a flag, although zero lies in "|x| ≤ 2^−128". -/
def sfuRcp (x : BitVec 32) : BitVec 32 × Flags :=
  match f32 x with
  | .nan => (0x7FC00000, Flags.nan)
  | .inf neg => (if neg then 0x80000000 else 0, 0)
  | .fin neg m e =>
    if m = 0 then (if neg then 0xFF800000 else 0x7F800000, 0)
    else round32Fin .rne neg (2 ^ 100 / m) (-100 - e) (2 ^ 100 % m != 0) Draw.none 0

/-- sqrt (R182). -/
def sfuSqrt (x : BitVec 32) : BitVec 32 × Flags :=
  match f32 x with
  | .nan => (0x7FC00000, Flags.nan)
  | .inf neg => if neg then (0x7FC00000, Flags.nan) else (0x7F800000, 0)
  | .fin neg m e =>
    if m = 0 then (if neg then 0x80000000 else 0, 0)
    else if neg then (0x7FC00000, Flags.nan)
    else
      let (m, e) := if e % 2 = 0 then (m, e) else (2 * m, e - 1)
      let r := isqrt 64 (m * 2 ^ 80)
      round32Fin .rne false r (e / 2 - 40) (r * r != m * 2 ^ 80) Draw.none 0

/-- rsqrt (R182). -/
def sfuRsqrt (x : BitVec 32) : BitVec 32 × Flags :=
  match f32 x with
  | .nan => (0x7FC00000, Flags.nan)
  | .inf neg => if neg then (0x7FC00000, Flags.nan) else (0, 0)
  | .fin neg m e =>
    if m = 0 then (if neg then 0xFF800000 else 0x7F800000, 0)
    else if neg then (0x7FC00000, Flags.nan)
    else
      let (m, e) := if e % 2 = 0 then (m, e) else (2 * m, e - 1)
      let r := isqrt 81 (2 ^ 160 / m)
      round32Fin .rne false r (-(e / 2) - 80) (r * r * m != 2 ^ 160) Draw.none 0

/-- e^|x| as a fixed-point significand in [1, 2) and a binary exponent, for |x| < 2^9. -/
def expMag (m : Nat) (e : Int) : Nat × Nat :=
  let v := fixMag m e
  let n := v / ln2Fix
  (expFix (v % ln2Fix), n)

/-- tanh (R182). -/
def sfuTanh (x : BitVec 32) : BitVec 32 × Flags :=
  match f32 x with
  | .nan => (0x7FC00000, Flags.nan)
  | .inf neg => (if neg then 0xBF800000 else 0x3F800000, 0)
  | .fin neg m e =>
    if m = 0 then (if neg then 0x80000000 else 0, 0)
    else
      let top : Int := (Nat.log2 m : Int) + e
      if top < -40 then roundSticky neg (m * 2 ^ 100 - 1) (e - 100)
      else if 5 < top then roundSticky neg (2 ^ 100 - 1) (-100)
      else
        let (g, n) := expMag m (e + 1)                -- e^(2|x|) = g · 2^n
        let ex := g * 2 ^ n
        roundSticky neg ((ex - fixOne) * 2 ^ 200 / (ex + fixOne)) (-200)

/-- sigm (R182): 1/(1 + e^(−x)). -/
def sfuSigm (x : BitVec 32) : BitVec 32 × Flags :=
  match f32 x with
  | .nan => (0x7FC00000, Flags.nan)
  | .inf neg => (if neg then 0 else 0x3F800000, 0)
  | .fin neg m e =>
    if m = 0 then (0x3F000000, 0)
    else if 7 < (Nat.log2 m : Int) + e then
      (if neg then roundSticky false 1 (-400) else roundSticky false (2 ^ 100 - 1) (-100))
    else
      let (g, n) := expMag m e
      let ex := g * 2 ^ n
      let q := if neg then fixOne * 2 ^ 600 / (ex + fixOne) else ex * 2 ^ 600 / (ex + fixOne)
      roundSticky false (q / 2 ^ 350) (-250)

end Sys2Proof
end

