-- ==== Sys2Proof/Machine/Vector.lean ====
section
/-! DEFINITION. The V and X engines (R159 to R183): lane arithmetic, compares and masks, lane moves, reductions and scans, conversions,
NH planes, block scales, sampling draws, special functions and the poison check. -/

namespace Sys2Proof.Machine

open Sys2Proof

/-- The tag that a word gives its vector destination (R161): none leaves it unchanged. -/
def destTag (srcs : List Vreg) (mask : Dword) : Option (Option (Code × BitVec 60)) :=
  match firstVTag srcs with
  | some t => if mask = 0 then none else some (some t)
  | none => if mask = BitVec.allOnes 64 then some none else none

/-- A result of lanes with their flags, in the lanes of a mask. -/
def State.vresult (s : State) (lat : Nat) (d : BitVec 5) (srcs : List Vreg) (mask : Dword) (r : List (BitVec 32 × Flags)) : State :=
  (s.result lat (.v d (ofLanes (r.map (·.1))) mask (destTag srcs mask))).flag lat (laneFlags mask (r.map (·.2)))

/-- A word with vector sources and a vector destination: f gives the 64 lanes. -/
def vecWord (g : Guard) (d : BitVec 5) (srcs : List (BitVec 5)) (lat occ : Nat) (s : State)
    (f : List Vec → List (BitVec 32 × Flags)) : Host.Outcome State Fault Refusal :=
  issueLanes g s (fun mask s => withVectors srcs s (fun vs s =>
    .done occ (s.vresult lat d vs mask (f (vs.map (·.val))))))

def vat (l : List Vec) (i : Nat) : Vec := l.getD i 0

/-- A lane-wise word of two sources. -/
def lanes2 (f : BitVec 32 → BitVec 32 → BitVec 32 × Flags) (vs : List Vec) : List (BitVec 32 × Flags) :=
  (upto 64).map (fun i => f (lane (vat vs 0) i) (lane (vat vs 1) i))

def lanes1 (f : BitVec 32 → BitVec 32 × Flags) (vs : List Vec) : List (BitVec 32 × Flags) :=
  (upto 64).map (fun i => f (lane (vat vs 0) i))

/-- An integer lane result: no flag (R166). -/
def pure32 (x : BitVec 32) : BitVec 32 × Flags := (x, 0)

/-- The shift count of a lane: bits 4:0 (R166). -/
def count5 (y : BitVec 32) : Nat := y.toNat % 32


/-- VFadd (R166, R167). -/
def execVFadd (g : Guard) (d a b : BitVec 5) (s : State) : Host.Outcome State Fault Refusal :=
  vecWord g d [a, b] 4 1 s (lanes2 (fun x y => rne32 ((f32 x).add (f32 y))))

/-- VFsub (R166, R167). -/
def execVFsub (g : Guard) (d a b : BitVec 5) (s : State) : Host.Outcome State Fault Refusal :=
  vecWord g d [a, b] 4 1 s (lanes2 (fun x y => rne32 ((f32 x).sub (f32 y))))

/-- VFmul (R166, R167). -/
def execVFmul (g : Guard) (d a b : BitVec 5) (s : State) : Host.Outcome State Fault Refusal :=
  vecWord g d [a, b] 4 1 s (lanes2 (fun x y => rne32 ((f32 x).mul (f32 y))))

/-- VFfma (R166, R167): one rounding of the exact value; d is a source. -/
def execVFfma (g : Guard) (d a b : BitVec 5) (s : State) : Host.Outcome State Fault Refusal :=
  vecWord g d [a, b, d] 4 1 s (fun vs => (upto 64).map (fun i =>
    rne32 (((f32 (lane (vat vs 0) i)).mul (f32 (lane (vat vs 1) i))).add (f32 (lane (vat vs 2) i)))))

/-- VFmin (R166, R167). -/
def execVFmin (g : Guard) (d a b : BitVec 5) (s : State) : Host.Outcome State Fault Refusal :=
  vecWord g d [a, b] 4 1 s (lanes2 (fun x y => fminmax false x y))

/-- VFmax (R166, R167). -/
def execVFmax (g : Guard) (d a b : BitVec 5) (s : State) : Host.Outcome State Fault Refusal :=
  vecWord g d [a, b] 4 1 s (lanes2 (fun x y => fminmax true x y))

/-- VFabs (R166): NaN gives the canonical NaN. -/
def execVFabs (g : Guard) (d a : BitVec 5) (s : State) : Host.Outcome State Fault Refusal :=
  vecWord g d [a] 4 1 s (lanes1 (fun x => if (f32 x).isNan then (0x7FC00000, Flags.nan) else (x &&& 0x7FFFFFFF, 0)))

/-- VIadd (R166). -/
def execVIadd (g : Guard) (d a b : BitVec 5) (s : State) : Host.Outcome State Fault Refusal :=
  vecWord g d [a, b] 2 1 s (lanes2 (fun x y => pure32 (x + y)))

/-- VIsub (R166). -/
def execVIsub (g : Guard) (d a b : BitVec 5) (s : State) : Host.Outcome State Fault Refusal :=
  vecWord g d [a, b] 2 1 s (lanes2 (fun x y => pure32 (x - y)))

/-- VImul (R166). -/
def execVImul (g : Guard) (d a b : BitVec 5) (s : State) : Host.Outcome State Fault Refusal :=
  vecWord g d [a, b] 4 1 s (lanes2 (fun x y => pure32 (x * y)))

/-- VImin (R166). -/
def execVImin (g : Guard) (d a b : BitVec 5) (s : State) : Host.Outcome State Fault Refusal :=
  vecWord g d [a, b] 2 1 s (lanes2 (fun x y => pure32 (if x.sle y then x else y)))

/-- VImax (R166). -/
def execVImax (g : Guard) (d a b : BitVec 5) (s : State) : Host.Outcome State Fault Refusal :=
  vecWord g d [a, b] 2 1 s (lanes2 (fun x y => pure32 (if y.sle x then x else y)))

/-- VAnd (R166). -/
def execVAnd (g : Guard) (d a b : BitVec 5) (s : State) : Host.Outcome State Fault Refusal :=
  vecWord g d [a, b] 2 1 s (lanes2 (fun x y => pure32 (x &&& y)))

/-- VOr (R166). -/
def execVOr (g : Guard) (d a b : BitVec 5) (s : State) : Host.Outcome State Fault Refusal :=
  vecWord g d [a, b] 2 1 s (lanes2 (fun x y => pure32 (x ||| y)))

/-- VXor (R166). -/
def execVXor (g : Guard) (d a b : BitVec 5) (s : State) : Host.Outcome State Fault Refusal :=
  vecWord g d [a, b] 2 1 s (lanes2 (fun x y => pure32 (x ^^^ y)))

/-- VShl (R166). -/
def execVShl (g : Guard) (d a b : BitVec 5) (s : State) : Host.Outcome State Fault Refusal :=
  vecWord g d [a, b] 2 1 s (lanes2 (fun x y => pure32 (x <<< count5 y)))

/-- VShr (R166). -/
def execVShr (g : Guard) (d a b : BitVec 5) (s : State) : Host.Outcome State Fault Refusal :=
  vecWord g d [a, b] 2 1 s (lanes2 (fun x y => pure32 (x >>> count5 y)))

/-- VSra (R166). -/
def execVSra (g : Guard) (d a b : BitVec 5) (s : State) : Host.Outcome State Fault Refusal :=
  vecWord g d [a, b] 2 1 s (lanes2 (fun x y => pure32 (x.sshiftRight (count5 y))))

/-- VMov (R166): bits unchanged. -/
def execVMov (g : Guard) (d a : BitVec 5) (s : State) : Host.Outcome State Fault Refusal :=
  vecWord g d [a] 2 1 s (lanes1 pure32)

/-- The condition of v.fcmp (R102, R168). -/
def condF (c : BitVec 3) (x y : BitVec 32) : Bool :=
  let a := f32 x
  let b := f32 y
  let un := a.isNan || b.isNan
  match c.toNat with
  | 0 => FVal.eq a b
  | 1 => un || !FVal.eq a b
  | 2 => FVal.lt a b
  | 3 => FVal.le a b
  | 4 => FVal.lt b a
  | 5 => FVal.le b a
  | 6 => un
  | _ => !un

/-- The condition of v.icmp (R102). -/
def condI (c : BitVec 3) (x y : BitVec 32) : Bool :=
  match c.toNat with
  | 0 => x == y
  | 1 => x != y
  | 2 => x.slt y
  | 3 => x.sle y
  | 4 => y.slt x
  | 5 => y.sle x
  | 6 => x.ult y
  | _ => y.ule x

/-- The mask whose bit i is f i. -/
def maskOf (f : Nat → Bool) : Dword := BitVec.ofNat 64 ((upto 64).foldr (fun i acc => (if f i then 1 else 0) + 2 * acc) 0)

/-- A compare into a mask: poisoned sources raise their fault (R161). -/
def maskCompare (g : Guard) (d : BitVec 3) (a b : BitVec 5) (s : State) (f : BitVec 32 → BitVec 32 → Bool) :
    Host.Outcome State Fault Refusal :=
  issueLanes g s (fun mask s => withVectors [a, b] s (fun vs s => noVPoison vs
    (.done 1 (s.result 2 (.m d (maskOf (fun i => f (lane (vopnd vs 0).val i) (lane (vopnd vs 1).val i))) mask)))))

/-- VFcmp (R168). -/
def execVFcmp (g : Guard) (c d : BitVec 3) (a b : BitVec 5) (s : State) : Host.Outcome State Fault Refusal :=
  maskCompare g d a b s (condF c)

/-- VIcmp (R168). -/
def execVIcmp (g : Guard) (c d : BitVec 3) (a b : BitVec 5) (s : State) : Host.Outcome State Fault Refusal :=
  maskCompare g d a b s (condI c)

/-- VBcast (R170). -/
def execVBcast (g : Guard) (d : BitVec 5) (a : BitVec 6) (s : State) : Host.Outcome State Fault Refusal :=
  issueLanes g s (fun mask s => withScalars [a] s (fun xs s => noPoison xs
    (.done 1 (s.vresult 2 d [] mask ((upto 64).map (fun _ => pure32 ((opnd xs 0).val.truncate 32)))))))

/-- A scalar that a poisoned vector makes (R161). -/
def vpoisoned (vs : List Vreg) (v : Dword) : Sval :=
  match firstVTag vs with
  | some (c, a) => { val := a.zeroExtend 64, tag := some c }
  | none => { val := v }

/-- VMvs (R163, R170): written only when the selected lane participates; a reserved queue entry is then released. -/
def execVMvs (g : Guard) (d : BitVec 6) (a : BitVec 5) (b : BitVec 6) (s : State) : Host.Outcome State Fault Refusal :=
  issueLanes g s (fun mask s => withVectors [a] s (fun vs s => withScalars [b] s (fun xs s => roomFor d s (noPoison xs (
    let i := count6w (opnd xs 0).val
    if mask.getLsbD i then .done 1 (s.result 2 (.s d (vpoisoned vs ((lane (vopnd vs 0).val i).zeroExtend 64))))
    else if isQ d then .done 1 (s.result 2 (.unreserve d))
    else .done 1 s)))))
where
  /-- a lane index: bits 5:0 -/
  count6w (y : Dword) : Nat := y.toNat % 64

/-- VIns (R170): one lane, where its guard bit is 1. -/
def execVIns (g : Guard) (d : BitVec 5) (a b : BitVec 6) (s : State) : Host.Outcome State Fault Refusal :=
  issueLanes g s (fun mask s => withScalars [a, b] s (fun xs s => noPoison xs (
    let i := (opnd xs 1).val.toNat % 64
    let x : BitVec 32 := (opnd xs 0).val.truncate 32
    .done 1 (s.vresult 2 d [] (mask &&& ((1 : Dword) <<< i)) ((upto 64).map (fun _ => pure32 x))))))

/-- VPerm (R170). -/
def execVPerm (g : Guard) (d a b : BitVec 5) (s : State) : Host.Outcome State Fault Refusal :=
  vecWord g d [a, b] 3 1 s (fun vs => (upto 64).map (fun i => pure32 (lane (vat vs 0) ((lane (vat vs 1) i).toNat % 64))))

/-- VVid (R170). -/
def execVVid (g : Guard) (d : BitVec 5) (s : State) : Host.Outcome State Fault Refusal :=
  vecWord g d [] 2 1 s (fun _ => (upto 64).map (fun i => pure32 (BitVec.ofNat 32 i)))

/-! ### Reductions and scans (R171 to R173) -/

/-- A V word with a vector source and a scalar result with flags (R163). DESIGN CHOICE (log entry 67): a poisoned source replaces the result
by its tag, and the flags of the replaced result are raised all the same. -/
def reduceWord (g : Guard) (d : BitVec 6) (a : BitVec 5) (lat occ : Nat) (s : State) (f : Dword → Vec → Dword × Flags) :
    Host.Outcome State Fault Refusal :=
  issueLanes g s (fun mask s => withVectors [a] s (fun vs s => roomFor d s (
    let r := f mask (vopnd vs 0).val
    .done occ ((s.result lat (.s d (vpoisoned vs r.1))).flag lat r.2))))

/-- comb of R171. -/
def combSum (x y : Option (BitVec 32)) : Option (BitVec 32) × Flags :=
  match x, y with
  | none, y => (y, 0)
  | x, none => (x, 0)
  | some a, some b => let r := rne32 ((f32 a).add (f32 b)); (some r.1, r.2)

/-- One level of the tree of R171: neighbours combined. -/
def treeLevel : List (Option (BitVec 32)) → List (Option (BitVec 32)) × Flags
  | x :: y :: r => let c := combSum x y; let t := treeLevel r; (c.1 :: t.1, c.2 ||| t.2)
  | l => (l, 0)

/-- n levels. -/
def treeLevels : Nat → List (Option (BitVec 32)) → List (Option (BitVec 32)) × Flags
  | 0, l => (l, 0)
  | n + 1, l => let a := treeLevel l; let b := treeLevels n a.1; (b.1, a.2 ||| b.2)

/-- The sum of the participating lanes (R171); a NaN is canonical, that of a lone participating lane too (R57).
DESIGN CHOICE (log entry 67): R171 passes a lone lane through, and R57 makes every NaN that an operation produces canonical. -/
def redSum (mask : Dword) (v : Vec) : Dword × Flags :=
  let (l, fl) := treeLevels 6 ((upto 64).map (fun i => if mask.getLsbD i then some (lane v i) else none))
  match l.head?.join with
  | none => (0, fl)
  | some x => if (f32 x).isNan then (0x7FC00000, fl ||| Flags.nan) else (x.zeroExtend 64, fl)

/-- The participating lanes with their indices. -/
def parts (mask : Dword) (v : Vec) : List (Nat × BitVec 32) :=
  ((upto 64).filter (fun i => mask.getLsbD i)).map (fun i => (i, lane v i))

/-- The first greatest element in the order of R172. -/
def greatest : List (Nat × BitVec 32) → Option (Nat × BitVec 32)
  | [] => none
  | x :: r =>
    match greatest r with
    | none => some x
    | some y => if FVal.below (f32 x.2) (f32 y.2) then some y else some x

/-- The first least element that is not NaN. -/
def least : List (Nat × BitVec 32) → Option (Nat × BitVec 32)
  | [] => none
  | x :: r =>
    if (f32 x.2).isNan then least r
    else
      match least r with
      | none => some x
      | some y => if FVal.below (f32 y.2) (f32 x.2) then some y else some x

def redMax (mask : Dword) (v : Vec) : Dword × Flags :=
  match greatest (parts mask v) with
  | none => (0xFF800000, 0)
  | some (_, x) => if (f32 x).isNan then (0x7FC00000, Flags.nan) else (x.zeroExtend 64, 0)

def redMaxi (mask : Dword) (v : Vec) : Dword × Flags :=
  match greatest (parts mask v) with
  | none => (BitVec.allOnes 64, 0)
  | some (i, x) => if (f32 x).isNan then (BitVec.allOnes 64, Flags.nan) else (BitVec.ofNat 64 i, 0)

def redMin (mask : Dword) (v : Vec) : Dword × Flags :=
  if (parts mask v).isEmpty then (0x7F800000, 0)
  else
    match least (parts mask v) with
    | none => (0x7FC00000, Flags.nan)
    | some (_, x) => (x.zeroExtend 64, 0)

/-- VRedsum (R171). -/
def execVRedsum (g : Guard) (d : BitVec 6) (a : BitVec 5) (s : State) : Host.Outcome State Fault Refusal :=
  reduceWord g d a 14 2 s redSum

/-- VRedmax (R172). -/
def execVRedmax (g : Guard) (d : BitVec 6) (a : BitVec 5) (s : State) : Host.Outcome State Fault Refusal :=
  reduceWord g d a 8 2 s redMax

/-- VRedmaxi (R172). -/
def execVRedmaxi (g : Guard) (d : BitVec 6) (a : BitVec 5) (s : State) : Host.Outcome State Fault Refusal :=
  reduceWord g d a 8 2 s redMaxi

/-- VRedmin (R172). -/
def execVRedmin (g : Guard) (d : BitVec 6) (a : BitVec 5) (s : State) : Host.Outcome State Fault Refusal :=
  reduceWord g d a 8 2 s redMin

/-- One step of a prefix (R173): the operation, the prefix so far and the next element; the new prefix and its flags. DESIGN CHOICE (log entry 78): the
minimum over a prefix that holds NaNs and numbers is the least number, as for v.redmin. -/
def scanStep (o : BitVec 2) (acc : Option (BitVec 32)) (x : BitVec 32) : BitVec 32 × Flags :=
  match o.toNat, acc with
  | 0, some a => rne32 ((f32 a).add (f32 x))
  | 0, none => if (f32 x).isNan then (0x7FC00000, Flags.nan) else (x, 0)
  | 1, none => if (f32 x).isNan then (0x7FC00000, Flags.nan) else (x, 0)
  | 1, some a => fminmax true a x
  | _, none => if (f32 x).isNan then (0x7FC00000, Flags.nan) else (x, 0)
  | _, some a => fminmax false a x

/-- The prefixes over the participating lanes, lane by lane. -/
def scanLanes (o : BitVec 2) (mask : Dword) (v : Vec) : List Nat → Option (BitVec 32) → List (BitVec 32 × Flags)
  | [], _ => []
  | i :: r, acc =>
    if mask.getLsbD i then
      let x := scanStep o acc (lane v i)
      x :: scanLanes o mask v r (some x.1)
    else (0, 0) :: scanLanes o mask v r acc

/-- VScan (R173). -/
def execVScan (g : Guard) (d a : BitVec 5) (o : BitVec 2) (s : State) : Host.Outcome State Fault Refusal :=
  issueLanes g s (fun mask s => withVectors [a] s (fun vs s =>
    .done 4 (s.vresult 16 d vs mask (scanLanes o mask (vopnd vs 0).val (upto 64) none))))

/-! ### Format-table entries (R73 to R76) -/

/-- The index of the entry of a .ft word (R75, R138). -/
def ftIndex (e : Entry) : Nat := (e.ftbTag.toNat + e.lcTag.toNat) % 64

/-- Entry i of a cell's format cache, or the fault that it is marked with. -/
def State.ftEntry (s : State) (c i : Nat) : Except (Code × Dword) (BitVec 32) :=
  match tfind i (s.cell c).fmtFault with
  | some f => .error f
  | none => .ok (tget 0 (s.cell c).fmtCache i)

/-- The fields of an entry (R73). -/
def ftAfmt (e : BitVec 32) : Nat := (e.extractLsb' 0 4).toNat
def ftApl (e : BitVec 32) : Nat := (e.extractLsb' 4 3).toNat
def ftBfmt (e : BitVec 32) : Nat := (e.extractLsb' 7 4).toNat
def ftBpl (e : BitVec 32) : Nat := (e.extractLsb' 11 3).toNat
def ftOut (e : BitVec 32) : Nat := (e.extractLsb' 14 4).toNat
def ftRnd (e : BitVec 32) : Nat := (e.extractLsb' 18 3).toNat
def ftScale (e : BitVec 32) : BitVec 2 := e.extractLsb' 21 2
def ftDk (e : BitVec 32) : Nat := (e.extractLsb' 23 2).toNat
def ftWide (e : BitVec 32) : Bool := e.getLsbD 25
def ftReserved (e : BitVec 32) : Bool := e.extractLsb' 26 6 != 0

/-- A .ft word reads its entry; the entry's mark or a nonzero reserved field faults it. -/
def withEntry (s : State) (k : BitVec 32 → Issue) : Issue :=
  match s.ftEntry s.cur.cell (ftIndex s.cur.ent) with
  | .error (c, a) => .fault c a
  | .ok e => if ftReserved e then faultW s Code.illegal else k e

/-! ### Conversions (R174 to R177) -/

/-- The counter and key of a stochastic rounding in V (R177). -/
def State.vdraw (s : State) (salt n : Nat) (x : BitVec 32) : Draw :=
  { key := s.me.srkey, salt := BitVec.ofNat 32 salt,
    idx := (x.zeroExtend 64 <<< 32) ||| BitVec.ofNat 64 (s.cur.ent.lcTag.toNat % 2 ^ 26 * 64 + n) }

/-- 64 elements of w bits packed into lanes (R159). -/
def packElems (w : Nat) (l : List Nat) : Vec := BitVec.ofNat 2048 (l.foldr (fun x acc => x % 2 ^ w + 2 ^ w * acc) 0)

/-- Element n of w bits. -/
def elemAt (v : Vec) (w n : Nat) : Nat := v.toNat / 2 ^ (w * n) % 2 ^ w

/-- The flags of elements whose lanes are written: element n of w bits lies in lane n·w / 32 (R175). -/
def elemFlags (mask : Dword) (w : Nat) (l : List Flags) : Flags :=
  orFlags ((l.zip (upto 64)).map (fun e => if mask.getLsbD (e.2 * w / 32) then e.1 else 0))

/-- A vector result given whole, with flags. -/
def State.vwhole (s : State) (lat : Nat) (d : BitVec 5) (srcs : List Vreg) (mask : Dword) (v : Vec) (f : Flags) : State :=
  (s.result lat (.v d v mask (destTag srcs mask))).flag lat f

/-- The formats of v.cvt: no NH, FP32x2 or reserved code (R174). -/
def cvtTarget (c : Nat) : Option Target := if c = 5 then none else Target.ofCode c 0

/-- A narrowing conversion of 64 elements (R175). -/
def cvtNarrow (t : Target) (mode : RMode) (d : BitVec 5) (mask : Dword) (vs : List Vreg) (s : State) : Issue :=
  let v := (vopnd vs 0).val
  let xs := (upto 64).map (fun n => let x := lane v n; (f32 x, s.vdraw 0x1F n x, gExp (f32 x)))
  let rs := roundBlock t mode xs
  let (lat, occ) := if mode = .ef then (20, 4) else (6, 1)
  .done occ (s.vwhole lat d vs mask (packElems t.width (rs.map (·.bits))) (elemFlags mask t.width (rs.map (·.flags))))

/-- A widening conversion of 64 elements (R176). -/
def cvtWiden (t : Target) (mode : RMode) (d : BitVec 5) (mask : Dword) (vs : List Vreg) (s : State) : Issue :=
  let v := (vopnd vs 0).val
  let xs := (upto 64).map (fun n => let x := elemAt v t.width n; (t.value x, s.vdraw 0x1F n (BitVec.ofNat 32 x), (0 : Int)))
  let rs := roundBlock .fp32 mode xs
  let (lat, occ) := if mode = .ef then (20, 4) else (6, 1)
  .done occ (s.vresult lat d vs mask (rs.map (fun r => (BitVec.ofNat 32 r.bits, r.flags))))

/-- The format and mode of a v.cvt, or none for ILLEGAL (R174). -/
def cvtForm (ft widen : Bool) (c : Nat) (e : BitVec 32) : Option (Target × RMode) :=
  if ft then
    if c ≠ 0 then none
    else
      match cvtTarget (if widen then ftAfmt e else ftOut e), RMode.ofCode (ftRnd e) with
      | some t, some m => if widen && ftApl e != 0 then none else some (t, m)
      | _, _ => none
  else (cvtTarget c).map (fun t => (t, .rne))

/-- The issue of a v.cvt whose format is known. -/
def cvtIssue (form : Option (Target × RMode)) (widen : Bool) (d : BitVec 5) (mask : Dword) (vs : List Vreg) (s : State) : Issue :=
  match form with
  | none => faultW s Code.illegal
  | some (t, m) => if widen then cvtWiden t m d mask vs s else cvtNarrow t m d mask vs s

/-- VCvt (R174 to R177). A code that the word may not name is a decoding fault, before any wait (R106); what the entry holds is looked at
when the word issues. -/
def execVCvt (g : Guard) (t : Bool) (d : BitVec 5) (w : Bool) (a : BitVec 5) (c : BitVec 4) (s : State) :
    Host.Outcome State Fault Refusal :=
  issueLanes g s (fun mask s =>
    if (if t then c != 0 else (cvtTarget c.toNat).isNone) then faultW s Code.illegal
    else withVectors [a] s (fun vs s =>
      if t then withEntry s (fun e => cvtIssue (cvtForm true w c.toNat e) w d mask vs s)
      else cvtIssue (cvtForm false w c.toNat 0) w d mask vs s))

/-! ### NH planes and block scales (R178 to R180) -/

/-- The planes of 64 k-bit codes: plane 7 − j is bit k − 1 − j of every code, in lanes 2j and 2j + 1 (R61, R178). -/
def packPlanes (k : Nat) (codes : List Nat) : Vec :=
  let plane (b : Nat) : Nat := codes.foldr (fun c acc => c / 2 ^ b % 2 + 2 * acc) 0
  BitVec.ofNat 2048 ((upto k).foldr (fun j acc => plane (k - 1 - j) + 2 ^ 64 * acc) 0)

/-- Code n of the first k planes (R62). -/
def planeCode (v : Nat) (k n : Nat) : Nat :=
  (upto k).foldl (fun acc j => 2 * acc + v / 2 ^ (64 * j + n) % 2) 0

/-- The issue of a v.pack of k planes under a mode. -/
def packIssue (mode : RMode) (k : Nat) (d : BitVec 5) (mask : Dword) (vs : List Vreg) (s : State) : Issue :=
  let v := (vopnd vs 0).val
  let xs := (upto 64).map (fun n => let x := lane v n; (f32 x, s.vdraw 0x20 n x, gExp (f32 x)))
  let rs := roundBlock (.nh k) mode xs
  let (lat, occ) := if mode = .ef then (20, 4) else (6, 1)
  -- only a result beyond the outermost level sets OVF here (R178)
  let fl := if (upto (2 * k)).any (fun i => mask.getLsbD i) then
    orFlags (rs.map (fun r => if r.sat then r.flags else r.flags &&& ~~~Flags.ovf)) else 0
  .done occ (s.vwhole lat d vs mask (packPlanes k (rs.map (·.bits))) fl)

/-- VPack (R178). DESIGN CHOICE (log entry 79): 0 planes are found before the word waits for a y source, as a decoding fault is; of the entry that a .ft
word uses, only the fields that it names are checked. -/
def execVPack (g : Guard) (t : Bool) (d a : BitVec 5) (k : BitVec 3) (s : State) : Host.Outcome State Fault Refusal :=
  issueLanes g s (fun mask s =>
    if k = 0 then faultW s Code.illegal
    else withVectors [a] s (fun vs s =>
      if t then withEntry s (fun e =>
        match RMode.ofCode (ftRnd e) with
        | some m => if ftOut e = 5 then packIssue m (k.toNat + 1) d mask vs s else faultW s Code.illegal
        | none => faultW s Code.illegal)
      else packIssue .rne (k.toNat + 1) d mask vs s))

/-- The issue of a v.unpk of k planes: exact, without flags. -/
def unpkIssue (k : Nat) (d : BitVec 5) (mask : Dword) (vs : List Vreg) (s : State) : Issue :=
  let v := (vopnd vs 0).val.toNat
  .done 1 (s.vresult 6 d vs mask ((upto 64).map (fun n => ((rne32 ((Target.nh k).value (planeCode v k n))).1, 0))))

/-- VUnpk (R179). DESIGN CHOICE (log entry 79): a bad number of planes is found before the word waits for a y source, as a decoding fault is. -/
def execVUnpk (g : Guard) (t : Bool) (d a : BitVec 5) (k : BitVec 3) (s : State) : Host.Outcome State Fault Refusal :=
  issueLanes g s (fun mask s =>
    if t then
      if k ≠ 0 then faultW s Code.illegal
      else withVectors [a] s (fun vs s => withEntry s (fun e =>
        if ftAfmt e = 5 ∧ ftApl e ≠ 0 then unpkIssue (ftApl e + 1) d mask vs s else faultW s Code.illegal))
    else if k = 0 then faultW s Code.illegal
    else withVectors [a] s (unpkIssue (k.toNat + 1) d mask))

/-- One lane of the apply form of v.scal. -/
def scalApply (x e : BitVec 32) : BitVec 32 × Flags :=
  let b : BitVec 8 := e.truncate 8
  if b = 0 then (0, 0) else rne32 (applyScale b (f32 x))

/-- The choose form of v.scal: the scale, the scaled lanes and the flags of the block. -/
def scalChoose (t : Target) (mask : Dword) (v : Vec) : BitVec 8 × List (BitVec 32 × Flags) :=
  let e := chooseScale t ((parts mask v).map (fun x => f32 x.2))
  let f (x : BitVec 32) : BitVec 32 × Flags :=
    if e = 0 then (0, 0) else if e = 0xFF then (0, Flags.nan) else rne32 ((f32 x).scale2 (127 - (e.toNat : Int)))
  (e, (upto 64).map (fun i => f (lane v i)))

/-- VScal (R180). DESIGN CHOICE (log entry 79): of the entry that a .ft word uses, only the fields that it names are checked, not ft.rnd. -/
def execVScal (g : Guard) (t : Bool) (d a b : BitVec 5) (s : State) : Host.Outcome State Fault Refusal :=
  issueLanes g s (fun mask s =>
    if t then
      -- b is a destination: v28 to v31 and d are decoding faults (R98, R106)
      if isY b || b == d then faultW s Code.illegal
      else withVectors [a] s (fun vs s => withEntry s (fun e =>
        match Target.ofCode (ftOut e) 8 with
        | some tg =>
          if ftOut e = 3 ∨ ftOut e = 4 ∨ ftOut e = 5 then
            (let r := scalChoose tg mask (vopnd vs 0).val
             .done 1 ((s.vresult 6 d vs mask r.2).vresult 6 b vs mask ((upto 64).map (fun _ => (r.1.zeroExtend 32, 0)))))
          else faultW s Code.illegal
        | none => faultW s Code.illegal))
    else withVectors [a, b] s (fun vs s =>
      .done 1 (s.vresult 6 d vs mask (lanes2 scalApply (vs.map (·.val))))))

/-- The draw of a lane (R181): rz32((w + 1/2) · 2^−32). -/
def drawLane (key cnt : Dword) (n : Nat) : BitVec 32 :=
  let w := philox key (cnt.truncate 32) (cnt.extractLsb' 32 32) (BitVec.ofNat 32 n) 0
  (round32 .rz (.fin false (2 * w.toNat + 1) (-33)) Draw.none 0).1

/-- VDraw (R181). -/
def execVDraw (g : Guard) (d : BitVec 5) (a b : BitVec 6) (s : State) : Host.Outcome State Fault Refusal :=
  issueLanes g s (fun mask s => withScalars [a, b] s (fun xs s => noPoison xs
    (.done 4 (s.vresult 16 d [] mask ((upto 64).map (fun n => (drawLane (opnd xs 0).val (opnd xs 1).val n, 0)))))))

/-- VChk (R183): its guard has no effect on the check. -/
def execVChk (g : Guard) (a : BitVec 5) (s : State) : Host.Outcome State Fault Refusal :=
  issueLanes g s (fun _ s => withVectors [a] s (fun vs s => noVPoison vs (.done 1 s)))

/-! ### Mask words (R169) -/

/-- A mask word: guard bit i governs bit i. -/
def maskWord (g : Guard) (d : BitVec 3) (s : State) (f : Strand → Dword) : Host.Outcome State Fault Refusal :=
  issueLanes g s (fun mask s => .done 1 (s.result 1 (.m d (f s.me) mask)))

/-- VMand (R169). -/
def execVMand (g : Guard) (d a b : BitVec 3) (s : State) : Host.Outcome State Fault Refusal :=
  maskWord g d s (fun st => st.readM a &&& st.readM b)

/-- VMor (R169). -/
def execVMor (g : Guard) (d a b : BitVec 3) (s : State) : Host.Outcome State Fault Refusal :=
  maskWord g d s (fun st => st.readM a ||| st.readM b)

/-- VMnot (R169). -/
def execVMnot (g : Guard) (d a : BitVec 3) (s : State) : Host.Outcome State Fault Refusal :=
  maskWord g d s (fun st => ~~~st.readM a)

/-- VMpop (R169): counts only participating lanes. -/
def execVMpop (g : Guard) (d : BitVec 6) (a : BitVec 3) (s : State) : Host.Outcome State Fault Refusal :=
  issueLanes g s (fun mask s => roomFor d s
    (.done 1 (s.result 1 (.s d { val := BitVec.ofNat 64 (((upto 64).filter (fun i => (s.me.readM a &&& mask).getLsbD i)).length) }))))

/-! ### Special functions (R182) -/

/-- A special function of every lane: 12 cc, 4 cc of the X engine. -/
def sfuWord (f : BitVec 32 → BitVec 32 × Flags) (g : Guard) (d a : BitVec 5) (s : State) : Host.Outcome State Fault Refusal :=
  vecWord g d [a] 12 4 s (lanes1 f)


/-- XExp2 (R182). -/
def execXExp2 (g : Guard) (d a : BitVec 5) (s : State) : Host.Outcome State Fault Refusal := sfuWord sfuExp2 g d a s

/-- XLog2 (R182). -/
def execXLog2 (g : Guard) (d a : BitVec 5) (s : State) : Host.Outcome State Fault Refusal := sfuWord sfuLog2 g d a s

/-- XRcp (R182). -/
def execXRcp (g : Guard) (d a : BitVec 5) (s : State) : Host.Outcome State Fault Refusal := sfuWord sfuRcp g d a s

/-- XRsqrt (R182). -/
def execXRsqrt (g : Guard) (d a : BitVec 5) (s : State) : Host.Outcome State Fault Refusal := sfuWord sfuRsqrt g d a s

/-- XSqrt (R182). -/
def execXSqrt (g : Guard) (d a : BitVec 5) (s : State) : Host.Outcome State Fault Refusal := sfuWord sfuSqrt g d a s

/-- XTanh (R182). -/
def execXTanh (g : Guard) (d a : BitVec 5) (s : State) : Host.Outcome State Fault Refusal := sfuWord sfuTanh g d a s

/-- XSigm (R182). -/
def execXSigm (g : Guard) (d a : BitVec 5) (s : State) : Host.Outcome State Fault Refusal := sfuWord sfuSigm g d a s

end Sys2Proof.Machine
end

