-- ==== Sys2Proof/Machine/Tiles.lean ====
section
/-! DEFINITION. The contents of tile registers (R205, R212, R213): element widths of the formats (R55, R430), a register filled from rows
of bytes, and an element's exact value as the mats read it (R61 to R63, R78). -/

namespace Sys2Proof.Machine

open Sys2Proof

/-- Bytes of an element of a format; NH has none of its own (R430). -/
def elemBytes (fmt : Nat) : Nat :=
  match fmt with
  | 0 => 4
  | 1 => 2
  | 2 => 2
  | 7 => 2
  | 8 => 4
  | 10 => 2
  | 11 => 8
  | _ => 1

/-- A mat operand (R59): BF16, FP16, E4M3, E5M2 or NH. -/
def isMatFmt (fmt : Nat) : Bool := decide (1 ≤ fmt) && decide (fmt ≤ 5)

/-- A tile-register element (R59). -/
def isTileFmt (fmt : Nat) : Bool := decide (fmt ≤ 10) && fmt != 0 && fmt != 8

/-- Bytes of a block of 64 elements. -/
def blockBytes (fmt planes : Nat) : Nat := if fmt = 5 then 8 * planes else 64 * elemBytes fmt

/-- The 64 elements of a row's block. -/
def blockElems (fmt planes : Nat) (row : List Byte) : List Nat :=
  let v := ofBytes row
  if fmt = 5 then (upto 64).map (planeCode v planes) else (upto 64).map (fun n => v / 2 ^ (8 * elemBytes fmt * n) % 2 ^ (8 * elemBytes fmt))

/-- Tile elements from 64 rows of 64 numbers. -/
def packTile (rows : List (List Nat)) : TileBits :=
  BitVec.ofNat 65536 (rows.flatten.foldr (fun x acc => x % 65536 + 65536 * acc) 0)

/-- Rows exchanged with columns. -/
def transpose (rows : List (List Nat)) : List (List Nat) := (upto 64).map (fun i => rows.map (fun r => r.getD i 0))

/-- A list cut into pieces of n. -/
def chunksOf {α : Type} (n : Nat) (l : List α) : Nat → List (List α)
  | 0 => []
  | k + 1 => l.take n :: chunksOf n (l.drop n) k

/-- A full register from the bytes that a load has read: 64 rows, then 64 scale bytes, then the bound (R205). -/
def fillTile (g : TileGeo) (l : List Byte) : Tile :=
  let rows := (chunksOf g.w l 64).map (blockElems g.fmt.toNat (g.pl.toNat + 1))
  { st := .full, fmt := g.fmt, pl := if g.fmt = 5 then g.pl else 0, sc := g.sc,
    elems := packTile (if g.col then transpose rows else rows),
    scales := if g.sc then BitVec.ofNat 512 (ofBytes ((l.drop (64 * g.w)).take 64)) else 0,
    beta := if g.bt then BitVec.ofNat 32 (ofBytes ((l.drop (64 * g.w + 64)).take 4)) &&& 0x7FFFFFFF else 0 }

/-- Element (r, n) of a register, as stored. -/
def Tile.elem (t : Tile) (r n : Nat) : Nat := (t.elems.extractLsb' (16 * (64 * r + n)) 16).toNat

/-- The scale byte of a row. -/
def Tile.scale (t : Tile) (r : Nat) : BitVec 8 := t.scales.extractLsb' (8 * r) 8

/-- The exact value of an element read with p planes, times its row's scale (R62, R63, R213, R226). -/
def Tile.val (t : Tile) (p r n : Nat) : FVal :=
  let raw := t.elem r n
  if t.fmt = 5 then
    let k := t.pl.toNat + 1
    applyScale (t.scale r) (FVal.ofInt (2 * (sextNat k raw / (pow2 ((k : Int) - p) : Int)) + 1) (-(p : Int)))
  else
    match Target.ofCode t.fmt.toNat 0 with
    | some tg => let x := tg.value raw; if t.sc then applyScale (t.scale r) x else x
    | none => .nan

/-- A row's values. -/
def Tile.rowVals (t : Tile) (p r : Nat) : List FVal := (upto 64).map (t.val p r)

def Cell.tile (x : Cell) (n : Nat) : Tile := tget {} x.tiles n

def Cell.setTile (x : Cell) (n : Nat) (t : Tile) : Cell := { x with tiles := tset {} x.tiles n t }

/-- A tile load that has failed leaves its register empty (R212). -/
def Cell.emptyTile (x : Cell) (n : Nat) : Cell := x.setTile n { x.tile n with st := .empty, dfault := none, poison := false }

end Sys2Proof.Machine
end

