-- ==== Sys2Proof/Machine/MatArith.lean ====
section
/-! DEFINITION. The arithmetic of the mats on one 64×64 accumulator tile: K-chunks (R77 to R80, R225), conversions at a drain (R64 to R70,
R227), scaling (R232), the addition of two tiles (R231), and the deckle bounds that go with each (R81 to R84). Task groups and the
chain use the same functions. -/

namespace Sys2Proof.Machine

open Sys2Proof

/-! ### Accumulators as lists of elements -/

/-- The elements of an accumulator, row by row. -/
def accList (a : AccBits) : List (BitVec 32) := (upto 4096).map (fun i => a.extractLsb' (32 * i) 32)

/-- The accumulator whose elements a list holds. -/
def ofAccList (l : List (BitVec 32)) : AccBits := BitVec.ofNat 131072 (l.foldr (fun x acc => x.toNat + 2 ^ 32 * acc) 0)

/-- Rows of 64. -/
def rows64 {α : Type} (l : List α) : List (List α) := chunksOf 64 l 64

/-- The greatest magnitude of FP32 elements, as bits. -/
def topBits (l : List (BitVec 32)) : Nat := l.foldl (fun m x => max m (x.toNat % 2 ^ 31)) 0

/-- Some element is NaN or infinite. -/
def hasBad (l : List (BitVec 32)) : Bool := decide (0x7F800000 ≤ topBits l)

/-- The greatest magnitude of finite elements. -/
def topMag (l : List (BitVec 32)) : FVal := f32 (BitVec.ofNat 32 (topBits l))

/-! ### K-chunks (R77, R80, R82, R225) -/

/-- A chunk added into a tile: xs are the 64 rows of A and ys the 64 columns of B, each of 64 values along K. -/
def chunkTile (wide : Bool) (hi lo : List (BitVec 32)) (xs ys : List (List FVal)) : List (BitVec 32) × List (BitVec 32) × Flags :=
  let ps := xs.flatMap (fun x => ys.map (fun y => (x.zip y).map (fun e => e.1.mul e.2)))
  if wide then
    let r := ((hi.zip lo).zip ps).map (fun e => addChunkWide e.1.1 e.1.2 e.2)
    (r.map (·.1), r.map (·.2.1), orFlags (r.map (·.2.2)))
  else
    let r := (hi.zip ps).map (fun e => addChunk e.1 e.2)
    (r.map (·.1), lo, orFlags (r.map (·.2)))

/-- The chunk term of R82 on a tile after the step; +Inf when an element is not finite (R81). -/
def chunkTerm (wide : Bool) (hi : List (BitVec 32)) (b : BitVec 32) : BitVec 32 :=
  if hasBad hi then bInf else bAdd b (emaxTerm (topMag hi) (if wide then 48 else 24))

/-- A product rounded up, as a value. -/
def upMul (x y : FVal) : FVal := f32 (boundUp (x.mul y))

/-- The greatest magnitude in rows of values. -/
def maxVals (rows : List (List FVal)) : FVal := maxMag rows.flatten

/-- The operand-bound term 64·(βX·max|Y'| + βY·max|X'| + βX·βY), each product and each sum rounded up (R81, R82). DESIGN CHOICE (log entry
67): an infinite bound times a largest magnitude of 0, for which the spec gives no value, makes the term +Inf. -/
def operandTerm (bx by' : BitVec 32) (xs ys : List (List FVal)) : FVal :=
  let up (x y : FVal) : FVal := f32 (boundUp (x.add y))
  let t := up (up (upMul (f32 bx) (maxVals ys)) (upMul (f32 by') (maxVals xs))) (upMul (f32 bx) (f32 by'))
  if t.isNan then .inf false else t.scale2 6

/-- The bound of a tile after a chunk with operand bounds (R82). -/
def chunkBound (wide : Bool) (hi : List (BitVec 32)) (b bx by' : BitVec 32) (xs ys : List (List FVal)) : BitVec 32 :=
  let b := chunkTerm wide hi b
  if b = bInf ∨ (bx = 0 ∧ by' = 0) then b else bAdd b (operandTerm bx by' xs ys)

/-- The overflow of a chunk's bound (R70): the old bound, the operand bounds and the elements are finite, the new bound is not. -/
def chunkOvf (hi : List (BitVec 32)) (b bx by' b' : BitVec 32) : Flags :=
  boundOvf (!hasBad hi && boundFin b && boundFin bx && boundFin by') b'

/-- m.mma's occupancy for a format (R17). -/
def occOf (fmt planes : Nat) : Nat :=
  if fmt = 1 ∨ fmt = 2 then 64 else if fmt = 5 ∧ planes ≤ 2 then 8 else if fmt = 5 ∧ planes ≤ 4 then 16 else 32

/-! ### Conversion at a drain (R64 to R70, R82, R83, R227) -/

/-- A converted tile: the codes of 64 rows (of 64 bits for FP32x2), the scale bytes of its rows when scaled, the flags of each row, the
bound, and the bound's overflow (R70). -/
structure Conv where
  rows : List (List Nat) := []
  scales : List (BitVec 8) := []
  flags : List Flags := []
  bound : BitVec 32 := 0
  ovf : Flags := 0

/-- What a conversion rounds with: target, mode, planes, scales, key, salt, and the row and column of the member's first element. -/
structure ConvSpec where
  out : Nat
  rnd : Nat
  k : Nat := 8
  scaled : Bool := false
  key : Dword := 0
  salt : BitVec 32 := 4
  row0 : Nat := 0
  col0 : Nat := 0

/-- The greatest finite magnitude of a target, in units of its scale. -/
def maxOf : Target → FVal
  | .fp32 => FloatFmt.fp32.maxFin
  | .flt f => f.maxFin
  | .int _ h _ => FVal.ofInt h 0
  | .nh k => (Target.nh k).value (2 ^ (k - 1) - 1)

/-- A converted row: codes, scale byte, flags, its greatest finite magnitude, and whether an element saturated. -/
structure ConvRow where
  codes : List Nat
  e : BitVec 8
  flags : Flags
  mag : FVal
  sat : Bool

/-- One row of 64 values with the FP32 words that its draws and weights come from. -/
def convRow (t : Target) (mode : RMode) (sp : ConvSpec) (block : Bool) (r : Nat) (hi : List (BitVec 32)) (xs : List FVal) : ConvRow :=
  let mag := maxMag (xs.filter FVal.isFin)
  let e : BitVec 8 := if block then chooseScale t xs else 0x7F
  if e = 0 then { codes := xs.map (fun _ => 0), e := 0, flags := 0, mag := mag, sat := false }
  else if e = 0xFF then { codes := xs.map (fun _ => 0), e := 0xFF, flags := Flags.nan, mag := mag, sat := false }
  else
    let k : Int := 127 - (e.toNat : Int)
    let draw (n : Nat) (h : BitVec 32) : Draw :=
      { key := sp.key, salt := sp.salt,
        idx := BitVec.ofNat 64 (h.toNat * 2 ^ 32 + (sp.row0 + r) * 2 ^ 16 + (sp.col0 + n)) }
    let q := roundBlock t mode (((xs.zip hi).zip (upto 64)).map (fun x => (x.1.1.scale2 k, draw x.2 x.1.2, gExp (f32 x.1.2) + k)))
    { codes := q.map (·.bits), e := e, flags := orFlags (q.map (·.flags)), mag := mag, sat := q.any (·.sat) }

/-- ulp(M) over a tile's rows (R83). -/
def tileUlp (t : Target) (block : Bool) (wide : Bool) (rows : List ConvRow) : FVal :=
  if block then
    maxMag ((rows.filter (fun r => r.e != 0 && r.e != 0xFF)).map (fun r =>
      (ulpOf t (r.mag.scale2 (127 - (r.e.toNat : Int)))).scale2 ((r.e.toNat : Int) - 127)))
  else
    let m := maxMag (rows.map (·.mag))
    match t with
    | .fp32 => if wide && (m.isZero || decide (m.msb < -126)) then .fin false 1 (-149) else ulpOf t m
    | t => ulpOf t m

/-- The saturation excess of R82: max|x| over the values of the tile, with block scales over those of each block that saturates, whose largest
magnitude is its scale's. DESIGN CHOICE (log entry 67): where max|x| − fmax is negative (an unsigned target that saturates from below
by a small negative x), it adds nothing. -/
def satExcess (t : Target) (block : Bool) (rows : List ConvRow) : FVal :=
  let excess (x y : FVal) : FVal := if FVal.lt x y then y.sub x else FVal.zero
  if block then maxMag ((rows.filter (·.sat)).map (fun r => excess ((maxOf t).scale2 ((r.e.toNat : Int) - 127)) r.mag))
  else if rows.any (·.sat) then excess (maxOf t) (maxMag (rows.map (·.mag)))
  else FVal.zero

/-- A drain's conversion of one member: wide pairs when lo is given (R80, R227); none for a reserved target or mode. -/
def convTile (sp : ConvSpec) (hi : List (BitVec 32)) (lo : Option (List (BitVec 32))) (b : BitVec 32) : Option Conv :=
  let nanRows (f : BitVec 32 → Bool) : List Flags := (rows64 hi).map (fun r => if r.any f then Flags.nan else 0)
  let isNan (x : BitVec 32) : Bool := decide (0x7F800000 < x.toNat % 2 ^ 31)
  let b := if hasBad hi then bInf else b
  if sp.out = 11 then
    let lows := lo.getD (hi.map (fun _ => 0))
    let canon (x : BitVec 32) : Nat := if isNan x then 0x7FC00000 else x.toNat
    some { rows := rows64 ((hi.zip lows).map (fun e => canon e.2 * 2 ^ 32 + canon e.1)), flags := nanRows isNan, bound := b }
  else if sp.out = 0 ∧ lo = none then
    some { rows := rows64 (hi.map (fun x => if isNan x then 0x7FC00000 else x.toNat)), flags := nanRows isNan, bound := b }
  else
    match Target.ofCode sp.out sp.k, RMode.ofCode sp.rnd with
    | some t, some mode =>
      let block := sp.out == 5 || sp.scaled
      let vals : List FVal := match lo with | some l => (hi.zip l).map (fun e => (f32 e.1).add (f32 e.2)) | none => hi.map f32
      let rs := (((rows64 vals).zip (rows64 hi)).zip (upto 64)).map (fun e => convRow t mode sp block e.2 e.1.2 e.1.1)
      let u := tileUlp t block lo.isSome rs
      -- an element of the result that is NaN or ±Inf makes the bound +Inf (R81)
      let bad := t == .fp32 && rs.any (fun r => r.codes.any (fun x => decide (0x7F800000 ≤ x % 2 ^ 31)))
      let b' := if b = bInf || bad then bInf
        else
          let b := match mode with
            | .rne => bAdd b (u.scale2 (-1))
            | .ef => bAdd (bAdd b u) (emaxTerm (maxMag (rs.map (·.mag))) 24)
            | _ => bAdd b u
          let x := satExcess t block rs
          if x.isZero then b else bAdd b x
      some { rows := rs.map (·.codes), scales := if block then rs.map (·.e) else [], flags := rs.map (·.flags), bound := b',
             ovf := boundOvf (boundFin b && !bad) b' }
    | _, _ => none

/-- The bytes of one converted row. -/
def rowBytes (out k : Nat) (codes : List Nat) : List Byte :=
  if out = 5 then leBytes (packPlanes k codes).toNat (8 * k)
  else codes.flatMap (fun c => leBytes c (elemBytes out))

/-! ### Scaling and the addition of tiles (R231, R232) -/

/-- One element times s: the new pair (lo is +0 when narrow), flags (OVF and NAN), and exactness. -/
def scaleElem (wide : Bool) (hi lo : BitVec 32) (s : FVal) : BitVec 32 × BitVec 32 × Flags × Bool :=
  let x := if wide then (f32 hi).add (f32 lo) else f32 hi
  let p := x.mul s
  let (h, fl) := rne32 p
  -- lo′ follows R167 too: NaN for Inf − Inf and for NaN, the opposite infinity where hi′ has overflowed
  let (l, fl') : BitVec 32 × Flags := if wide then rne32 (p.sub (f32 h)) else (0, 0)
  let exact := p.isFin && (f32 h).isFin && FVal.eq ((f32 h).add (f32 l)) p
  (h, l, (fl ||| fl') &&& (Flags.ovf ||| Flags.nan), exact)

/-- m.scale on one tile (R232): elements, bound and flags. -/
def scaleTile (wide : Bool) (hi lo : List (BitVec 32)) (b s : BitVec 32) : List (BitVec 32) × List (BitVec 32) × BitVec 32 × Flags :=
  let r := (hi.zip lo).map (fun e => scaleElem wide e.1 e.2 (f32 s))
  let h := r.map (·.1)
  let b' :=
    if hasBad h || b == bInf then bInf
    else
      let x := boundUp ((f32 b).mul (f32 s).abs)
      if r.all (·.2.2.2) then x else bAdd x (emaxTerm (topMag h) (if wide then 48 else 24))
  (h, if wide then r.map (·.2.1) else lo, b', orFlags (boundOvf (!hasBad h && boundFin b && (f32 s).isFin) b' :: r.map (·.2.2.1)))

/-- The addition of a sent tile (R231): elements and bound; no flag is raised in any strand. -/
def addTile (wide : Bool) (hi lo : List (BitVec 32)) (b : BitVec 32) (xs : List (BitVec 32)) (bs : BitVec 32) :
    List (BitVec 32) × List (BitVec 32) × BitVec 32 :=
  let (h, l) : List (BitVec 32) × List (BitVec 32) :=
    if wide then
      let r := ((hi.zip lo).zip xs).map (fun e => addChunkWide e.1.1 e.1.2 [f32 e.2])
      (r.map (·.1), r.map (·.2.1))
    else ((hi.zip xs).map (fun e => (rne32 ((f32 e.1).add (f32 e.2))).1), lo)
  (h, l, if hasBad h || b == bInf || bs == bInf then bInf else bAdd (bAdd b (f32 bs)) (emaxTerm (topMag h) 24))

/-! ### Deckle registers (R84, R216, R218, R233) -/

abbrev Deckle := BitVec 128

def dkField (d : Deckle) (o w : Nat) : Nat := (d.extractLsb' o w).toNat

/-- A field of a deckle register replaced. -/
def dkSet (d : Deckle) (o w v : Nat) : Deckle :=
  (d &&& ~~~((BitVec.ofNat 128 (2 ^ w - 1)) <<< o)) ||| ((BitVec.ofNat 128 (v % 2 ^ w)) <<< o)

def dkBound (d : Deckle) : BitVec 32 := d.extractLsb' 0 32
def dkThr (d : Deckle) : BitVec 32 := d.extractLsb' 32 32
def dkMode (d : Deckle) : Nat := dkField d 64 2
def dkWide (d : Deckle) : Bool := d.getLsbD 66
def dkLo (d : Deckle) : Bool := d.getLsbD 104
def Deckle.setBound (d : Deckle) (b : BitVec 32) : Deckle := dkSet d 0 32 b.toNat

/-- B > T of R218; a NaN threshold is never exceeded. -/
def exceeds (b thr : BitVec 32) : Bool := FVal.lt (f32 thr) (f32 b)

/-- A bound in the form of R84. -/
def storedBound (b : BitVec 32) (marked : Bool) : BitVec 32 := if marked then b ||| 0x80000000 else b

/-- The bound field as m.dkw and m.chld store it (R233, R253). -/
def takeBound (b : BitVec 32) : BitVec 32 :=
  if b = 0x80000000 then 0 else if b.getLsbD 31 || decide (0x7F800000 < b.toNat) then bInf else b

/-- m.dkw's effect on a deckle register (R233). -/
def writeDeckle (d : Deckle) (lo hi : Dword) : Deckle :=
  let d := dkSet (d.setBound (takeBound (lo.extractLsb' 0 32))) 32 32 (lo.extractLsb' 32 32).toNat
  dkSet (dkSet (dkSet d 64 2 (hi.extractLsb' 0 2).toNat) 67 1 (hi.extractLsb' 3 1).toNat) 68 4 (hi.extractLsb' 4 4).toNat

end Sys2Proof.Machine
end

