-- ==== Sys2Proof/Machine/Front.lean ====
section
/-! DEFINITION. The front end (R42, R43, R101, R107, R118, R120 to R130): which strand is granted the fetch of a cycle, what the fetched
word does at its fetch, its tags, hardware loops, and the engine queue that receives it. -/

namespace Sys2Proof.Machine

open Sys2Proof

/-- What a B word does to fetch (R118). -/
inductive FetchClass where
  | plain
  | redirect (off : BitVec 18)
  | ppt
  | yield
  | fmt (k : BitVec 2) (base : BitVec 6)
  | block
  deriving DecidableEq, Repr

/-- A word without a guard. -/
def unguarded (g : Guard) : Bool := g == ⟨false, 0⟩

/-- The fetch class of an instruction (R118). -/
def fetchClass : Instr → FetchClass
  | .bJmp g i => if unguarded g then .redirect i else .block
  | .bCall g i => if unguarded g then .redirect i else .block
  | .bPpt g => if unguarded g then .ppt else .block
  | .bYield g => if unguarded g then .yield else .block
  | .bFmt g k b => if unguarded g then .fmt k b else .block
  | .bJmpr .. | .bCallr .. | .bRet .. | .bLoop .. | .bLbrk .. | .bHalt .. | .bArm .. | .bRfe .. | .bTrap .. | .bSys .. => .block
  | .bSleep .. => .block
  | _ => .plain

/-- A word that carries a prefix and may not, or a b.loop with an offset below 1, is a decoding fault: fetch goes on behind it (R101,
R106, R107, R122). -/
def fetchClassOf (i : Instr) (p : Option (BitVec 29)) : FetchClass :=
  match i with
  | .bJmp .. | .bCall .. | .bArm .. => fetchClass i
  | .bLoop _ _ _ _ off => if (match p with | some v => (v ++ off).signExtend 64 | none => off.signExtend 64 : Dword).slt 1 then .plain else .block
  | _ => if p.isSome then .plain else fetchClass i

/-- The engine whose queue receives a fetched word: an F word and a second prefix go to B as fault markers (R107). -/
def queueOf (w : Word) : Nat := let e := (w.extractLsb' 29 3).toNat; if e ≤ 5 then e else 0

/-- A loop's body holds an address (R123). -/
def Loop.covers (l : Loop) (a : Dword) : Bool := l.act && l.start.ule a && a.ule l.last

/-- The active loops whose body holds an address, innermost first: the shorter body lies inside. -/
def Strand.loopsAt (st : Strand) (a : Dword) : List (Nat × Loop) :=
  sortBy (fun x y => decide (y.2.start.toNat < x.2.start.toNat) || (x.2.start == y.2.start && decide (x.2.last.toNat < y.2.last.toNat)))
    (([0, 1, 2, 3].map (fun k => (k, st.lc k))).filter (fun e => e.2.covers a))

/-- Every active loop, innermost first. -/
def Strand.activeLoops (st : Strand) : List (Nat × Loop) :=
  sortBy (fun x y => decide (y.2.start.toNat < x.2.start.toNat) || (x.2.start == y.2.start && decide (x.2.last.toNat < y.2.last.toNat)))
    (([0, 1, 2, 3].map (fun k => (k, st.lc k))).filter (fun e => e.2.act))

/-- Stage k is true in pass j when lo ≤ j − k + 1 < hi (R123). -/
def stageValue (l : Loop) (k : Nat) : Bool :=
  decide (l.lo.toNat + k ≤ l.j.toNat + 1) && decide (l.j.toNat + 1 < l.hi.toNat + k)

/-- The stage tag of a word fetched in the body of a pipelined loop (R123, R401). -/
def stageTag (l : Loop) : Option (BitVec 3 × BitVec 7) :=
  if l.n = 0 then none
  else some (l.n, BitVec.ofNat 7 ((upto 7).foldr (fun i acc =>
    (if decide (i < l.n.toNat) && stageValue l (i + 1) then 1 else 0) + 2 * acc) 0))

/-- The counter whose value a word is tagged with (R126). -/
def tagCounter (st : Strand) (w : Word) : Nat :=
  match decodeWord w with
  | .ok (.sRdsr _ _ r) => if 0x050 ≤ r.toNat ∧ r.toNat ≤ 0x053 then r.toNat - 0x050 else st.fk.toNat
  | _ => st.fk.toNat

/-- The queue entry of a word fetched at an address. -/
def Strand.entryOf (st : Strand) (w : Word) (a : Dword) (marker : Option Code) : Entry :=
  { word := w, pfx := st.pfx, addr := a, lcTag := (st.lc (tagCounter st w)).j, ftbTag := st.ftb,
    stages := (st.loopsAt a).head?.bind (fun e => stageTag e.2), marker := marker, seq := st.seq }

/-- A pending switch request recognised in a loop body cuts the innermost loop's window (R127). -/
def Strand.cutWindow (st : Strand) (a : Dword) : Strand :=
  if st.swReq && st.swCut.isNone then
    match (st.loopsAt a).head? with
    | some (k, l) =>
      { st.setLc k { l with hi := if l.j.toNat + 1 < l.hi.toNat then l.j + 1 else l.hi } with swCut := some (BitVec.ofNat 2 k) }
    | none => st
  else st

/-- The loops that end at a fetched word, innermost first: a back-edge, or exits and then the next address (R124). A loop whose window a
switch request has cut stops the strand at its exit, with a resume mark while iterations remain (R127); when no request is pending any
more it goes on with those iterations at once, as on a resume. -/
def Strand.loopEnd (st : Strand) (next : Dword) : List (Nat × Loop) → Strand × Dword
  | [] => (st, next)
  | (k, l) :: r =>
    let n := max 1 l.n.toNat
    if l.j.toNat + 2 < l.hi.toNat + n then (st.setLc k { l with j := l.j + 1 }, l.start)
    else if l.hi.toNat < l.tgt.toNat then
      if st.swReq then ({ st with swHalt := true, pmark := true, markK := some (BitVec.ofNat 2 k) }, next)
      else (st.setLc k { l with lo := l.hi, hi := l.tgt, j := l.hi }, l.start)
    else if st.swCut = some (BitVec.ofNat 2 k) then
      ({ st.setLc k { l with act := false, j := l.j + 1 } with swHalt := true }).loopEnd next r
    else (st.setLc k { l with act := false, j := l.j + 1 }).loopEnd next r

/-- The loop that a resume mark is about (R127): the one at whose exit the strand stopped; in a frame whose mark a handler has set, the
innermost active loop whose window ends before its trip count, or the innermost one. -/
def Strand.cutLoop (st : Strand) : Option (Nat × Loop) :=
  match st.activeLoops.find? (fun e => st.markK == some (BitVec.ofNat 2 e.1)) with
  | some e => some e
  | none =>
    match st.activeLoops.find? (fun e => decide (e.2.hi.toNat < e.2.tgt.toNat)) with
    | some e => some e
    | none => st.activeLoops.head?

/-- A strand with a resume mark goes on with the iterations that its cut loop has left; its window is no longer cut (R127). -/
def Strand.resumeMark (st : Strand) : Strand :=
  if !st.pmark then st
  else
    let cut := st.cutLoop
    let st : Strand := { st with pmark := false, markK := none, swCut := none }
    match cut with
    | none => st
    | some (k, l) =>
      if l.hi = l.tgt then
        let st := st.setLc k { l with act := false }
        let (st, pc) := st.loopEnd (l.last + 4) (st.activeLoops.filter (fun e => e.2.last == l.last))
        { st with pc := pc }
      else { st.setLc k { l with lo := l.hi, hi := l.tgt, j := l.hi } with pc := l.start }

/-- A pre-emption point that acts: with a request pending the strand stops fetching after the word (R129, R130). -/
def Strand.preempt (st : Strand) : Strand := if st.swReq && st.swCut.isNone then { st with swHalt := true } else st

/-- The loops that end at an address, innermost first. -/
def Strand.endingAt (st : Strand) (a : Dword) : List (Nat × Loop) := (st.loopsAt a).filter (fun e => e.2.last == a)

/-- A guarded b.ppt or b.yield turns out to be false: it was a word of its loop's body, at which a pending request is acted on under R127,
as of its fetch. -/
def Strand.pptFalse (st : Strand) (ent : Entry) : Strand :=
  match st.pptLoops with
  | some (n, loops) =>
    if n = ent.seq then
      let st := ({ st with pptLoops := none, loops := loops } : Strand).cutWindow ent.addr
      let (st, pc) := st.loopEnd (ent.addr + 4) (st.endingAt ent.addr)
      { st with pc := pc }
    else st
  | none => st

/-- A b.ppt or b.yield: it acts on a pending request itself, at its fetch or, guarded, once its guard is known (R130). -/
def isPoint : Instr → Bool
  | .bPpt _ | .bYield _ => true
  | _ => false

/-- What a pending request does at the fetch of a word: it cuts the window of the loop whose body holds the word, unless the word is a
pre-emption point (R127, R130). -/
def Strand.recognise (st : Strand) (a : Dword) (point : Bool) (cls : FetchClass) : Strand :=
  if !point then st.cutWindow a
  else if cls == .block && st.swReq && st.swCut.isNone then { st with pptLoops := some (st.seq, st.loops) }
  else st

/-- The strand after the fetch of word w at its program counter. Fetch goes on behind a word that is a decoding fault (R107). DESIGN CHOICE (log
entry 66): where a taken transfer without a guard is the last word of a loop's body, the loop's end is counted first (R124), and fetch then goes
to the transfer's target and not to the back-edge. -/
def Strand.fetched (st : Strand) (w : Word) : Strand :=
  let a := st.pc
  let i := decodeWord w
  let cls := match i with | .ok i => fetchClassOf i st.pfx | .error _ => .plain
  let st := st.recognise a (match i with | .ok i => cls != .plain && isPoint i | .error _ => false) cls
  let ent := st.entryOf w a none
  let (st, next) := st.loopEnd (a + 4) (st.endingAt a)
  let st := { st with pc := next, seq := st.seq + 1, active := true }
  if w.extractLsb' 29 3 == 7 then
    -- a prefix takes no queue entry; a second one is a fault marker and displaces the first (R101, R107)
    let st := if st.pfx.isSome then st.setEngq 0 (st.engq 0 ++ [{ ent with pfx := none, marker := some Code.prefixFault }]) else st
    { st with pfx := some (w.extractLsb' 0 29), pfxAt := a }
  else
    let ent := if w.extractLsb' 29 3 == 6 then { ent with marker := some Code.illegal } else ent
    let e := queueOf w
    let st := { st.setEngq e (st.engq e ++ [ent]) with pfx := none }
    match cls with
    | .plain => st
    | .redirect off => { st with pc := target ent (immI18 ent off) }
    | .ppt => st.preempt
    | .yield => st.preempt
    | .fmt k b => { st with fk := k, ftb := b }
    | .block => { st with fblk := true }

/-- The strand after a fetch that failed: a marker that raises the code at the head of the B queue; the target is its address (R107,
R120). Fetch goes on at the next address until the trap stops it (R107). DESIGN CHOICE (log entry 66): a prefix that waited for the word is
dropped, and a loop that ends at the address goes on as at the fetch of a word. -/
def Strand.fetchFailed (st : Strand) (code : Code) : Strand :=
  let a := st.pc
  let st := st.cutWindow a
  let ent : Entry := { st.entryOf 0 a (some code) with pfx := none }
  let (st, next) := st.loopEnd (a + 4) (st.endingAt a)
  { st.setEngq 0 (st.engq 0 ++ [ent]) with pc := next, seq := st.seq + 1, active := true, pfx := none }

/-- The word at an address as the cell's die reads it, or why it cannot be fetched (R120, R316). -/
def State.fetchWord (s : State) (c : Nat) (a : Dword) : Except Code Word :=
  match s.translate (some c) (s.vfOf c) (dieOf c) a.toNat .ex with
  | .error e => .error e
  | .ok (.zero ..) => .ok 0
  | .ok (.frame pa) =>
    let p := pa + a.toNat % frameBytes
    if s.mem.poisoned p then .error Code.poison else .ok (BitVec.ofNat 32 (leRead (s.mem.view (dieOf c)) p 4))

/-- The cell runs: a VF is resident, and it is neither frozen nor closed (R48, R409). -/
def Cell.runs (x : Cell) : Bool := x.vf.isSome && x.frozenOn.isEmpty && !x.closed

/-- Nothing but the state of its queues keeps a strand from fetching (R42). -/
def Strand.mayFetch (st : Strand) (t : Nat) : Bool :=
  st.st == .running && st.trap.isNone && !st.fblk && st.sleepEnd.isNone && !st.swHalt && !st.swStop && decide (st.fetchFrom ≤ t)

/-- A strand is unblocked in fetch, and what it would fetch: a word or a failure (R42). -/
def State.fetchable (s : State) (c sc : Nat) : Option (Except Code Word) :=
  let st := s.strand c sc
  if st.mayFetch (s.cell c).time then
    let w := s.fetchWord c st.pc
    -- a wait in flight keeps its entry, which a trap gives back to it (R299)
    let room (e : Nat) : Bool :=
      decide ((st.engq e).length + ((s.ops c).filter (fun o => o.sc == sc && o.eng == e && o.isWait)).length < 16)
    match w with
    | .error _ => if room 0 then some w else none
    | .ok v => if v.extractLsb' 29 3 == 7 && st.pfx.isNone then some w else if room (queueOf v) then some w else none
  else none

/-- The strands of a cell in SC order after the one named (R42, R44). -/
def scAfter (last : Nat) : List Nat := (upto 4).map (fun i => (last + 1 + i) % 4)

/-- FETCH (R42): the front end grants one fetch; nothing happens in a cell that does not run or whose strands are all blocked. -/
def execFetch (c : Nat) (s : State) : Host.Outcome State Fault Refusal :=
  if (s.cell c).runs then
    match (scAfter (s.cell c).lastFetch).find? (fun sc => (s.fetchable c sc).isSome) with
    | none => .next s
    | some sc =>
      let s := s.cacheLeaf c (s.vfOf c) (dieOf c) (s.strand c sc).pc.toNat
      match s.fetchable c sc with
      | some (.ok w) =>
        .next ((s.modStrand c sc (fun st => st.fetched w)).modCell c (fun x => { x with lastFetch := sc }))
      | some (.error e) =>
        .next ((s.modStrand c sc (fun st => st.fetchFailed e)).modCell c (fun x => { x with lastFetch := sc }))
      | none => .next s
  else .next s

/-- PExt (R100, R101): a prefix that the current strand has fetched waits for its next word; a second prefix enters the B queue as a
fault marker and displaces the first (R107). -/
def execPExt (p : BitVec 29) (s : State) : Host.Outcome State Fault Refusal :=
  .next (s.modMe (fun st => st.fetched (BitVec.ofNat 32 (0xE0000000 + p.toNat))))

end Sys2Proof.Machine
end

