-- ==== Sys2Proof/Machine/Control.lean ====
section
/-! DEFINITION. The B engine's control words (R118 to R138): transfers of control, hardware loops, halt, yield, sleep, arming and messages,
raising traps and selecting formats; and the steps that end a sleep, store and deliver messages, release send-buffer entries and
raise QDEAD. -/

namespace Sys2Proof.Machine

open Sys2Proof

/-- Fetch of the strand resumes from the next cycle, at an address that the word decides or at the fall-through (R118). -/
def State.resume (s : State) (pc : Option Dword) : State :=
  s.modMe (fun st => { st with pc := pc.getD st.pc, fblk := false, fetchFrom := s.now + 1 })

/-- The issue of a B word that blocks fetch when it is guarded or always: a false guard resumes fetch at the fall-through (R118). -/
def issueBlock (pfxOk : Bool) (g : Guard) (s : State) (body : State → Issue) : Host.Outcome State Fault Refusal :=
  if s.cur.ent.pfx.isSome && !pfxOk then .next (s.raise Code.prefixFault s.cur.ent.addr)
  else if s.cur.replay.isNone && !s.guardNow g then .next ((s.resume none).retire 1)
  else (body s).outcome s

/-- The issue of a b.ppt or b.yield: one that does not act was a word of a loop's body alone (R130). -/
def issuePoint (g : Guard) (s : State) (body : State → Issue) : Host.Outcome State Fault Refusal :=
  if s.cur.ent.pfx.isSome then .next (s.raise Code.prefixFault s.cur.ent.addr)
  else if s.cur.replay.isNone && !s.guardNow g then
    .next (((s.modMe (fun st => st.pptFalse s.cur.ent)).resume none).retire 1)
  else (body s).outcome s

/-- A transfer to an address: an unguarded b.jmp or b.call has redirected fetch when it was fetched, and only a word that fetch waits
for decides where fetch resumes (R118). -/
def State.transfer (s : State) (g : Guard) (a : Dword) : State := if unguarded g then s else s.resume (some a)

/-- BNop (R119). -/
def execBNop (g : Guard) (s : State) : Host.Outcome State Fault Refusal := issueWord false g s (fun s => .done 1 s)

/-- BJmp (R119). -/
def execBJmp (g : Guard) (i : BitVec 18) (s : State) : Host.Outcome State Fault Refusal :=
  issueBlock true g s (fun s => .done 1 (s.transfer g (target s.cur.ent (immI18 s.cur.ent i))))

/-- s63 receives the link at B issue + 1 (R119). -/
def State.link (s : State) : State := s.result 1 (.s 63 { val := s.cur.ent.addr + 4 })

/-- BCall (R119). -/
def execBCall (g : Guard) (i : BitVec 18) (s : State) : Host.Outcome State Fault Refusal :=
  issueBlock true g s (fun s => .done 1 ((s.transfer g (target s.cur.ent (immI18 s.cur.ent i))).link))

/-- A transfer to a register's VA: misaligned targets fault with ALIGN (R120). -/
def jumpReg (g : Guard) (a : BitVec 6) (s : State) (after : State → State) : Host.Outcome State Fault Refusal :=
  issueBlock false g s (fun s => withScalars [a] s (fun xs s => noPoison xs (
    let t := (opnd xs 0).val
    if t.extractLsb' 0 2 != 0 then .fault Code.align t else .done 1 (after (s.resume (some t))))))

/-- BJmpr (R119, R120). -/
def execBJmpr (g : Guard) (a : BitVec 6) (s : State) : Host.Outcome State Fault Refusal := jumpReg g a s id

/-- BCallr (R119, R120): the target is read before the link is written. -/
def execBCallr (g : Guard) (a : BitVec 6) (s : State) : Host.Outcome State Fault Refusal := jumpReg g a s State.link

/-- BRet (R119, R120). -/
def execBRet (g : Guard) (s : State) : Host.Outcome State Fault Refusal := jumpReg g 63 s id

/-- A b.loop may not start loop K: it is active, or a pipelined loop would hold another (R122). -/
def loopRefused (st : Strand) (k : BitVec 2) (n : BitVec 3) (a : Dword) : Bool :=
  (st.lc k.toNat).act || (n != 0 && (st.loopsAt a).any (fun e => e.2.n != 0))

/-- BLoop (R122). -/
def execBLoop (g : Guard) (n : BitVec 3) (k : BitVec 2) (a i : BitVec 6) (s : State) : Host.Outcome State Fault Refusal :=
  let off := immRI s.cur.ent i
  if off.slt 1 then .next (s.raise Code.illegal s.cur.ent.addr)
  else issueBlock true g s (fun s => withScalars [a] s (fun xs s => noPoison xs (
    let t : BitVec 32 := (opnd xs 0).val.truncate 32
    let last := target s.cur.ent off
    if loopRefused s.me k n s.cur.ent.addr then faultW s Code.illegal
    else if t = 0 then .done 1 ((s.modMe (fun st => st.setLc k.toNat { st.lc k.toNat with j := 0 })).resume (some (last + 4)))
    else
      let start := s.cur.ent.addr + 4
      .done 1 ((s.modMe (fun st => st.setLc k.toNat
        { act := true, start := start, last := last, n := n, lo := 0, hi := t, tgt := t, j := 0 })).resume (some start)))))

/-- Loop k becomes inactive; a cut of its window ends with it (R124, R127). -/
def Strand.endLoop (st : Strand) (k : Nat) : Strand :=
  { st.setLc k { st.lc k with act := false } with swCut := if st.swCut = some (BitVec.ofNat 2 k) then none else st.swCut }

/-- Loop K and the active loops inside its body become inactive (R125). -/
def Strand.breakLoop (st : Strand) (k : Nat) : Strand :=
  let l := st.lc k
  [0, 1, 2, 3].foldl (fun x i =>
    let y := st.lc i
    if i = k ∨ (y.act ∧ l.start.ule y.start ∧ y.last.ule l.last) then x.endLoop i else x) st

/-- BLbrk (R125). -/
def execBLbrk (g : Guard) (k : BitVec 2) (s : State) : Host.Outcome State Fault Refusal :=
  issueBlock false g s (fun s =>
    let l := s.me.lc k.toNat
    if l.act then .done 1 ((s.modMe (fun st => st.breakLoop k.toNat)).resume (some (l.last + 4)))
    else .done 1 (s.resume none))

/-- Every loop of a strand becomes inactive (R124). -/
def Strand.endLoops (st : Strand) : Strand :=
  [0, 1, 2, 3].foldl Strand.endLoop st

/-- BHalt (R52, R128): held until every earlier word has issued and every operation has completed; then queues and loops are discarded and
the item's completion is due (ITEM_COMPLETION). -/
def execBHalt (g : Guard) (s : State) : Host.Outcome State Fault Refusal :=
  issueBlock false g s (fun s =>
    needs (allIssuedBefore s.me s.cur.ent.seq && quiet s.here s.cur.sc)
      (.done 1 (s.modMe (fun st => { st.endLoops with q := [], y := [], halted := true }))))

/-- BYield (R129): when it acts, the strand counts as granted last, and it is a pre-emption point. -/
def execBYield (g : Guard) (s : State) : Host.Outcome State Fault Refusal :=
  issuePoint g s (fun s =>
    if unguarded g then .done 1 s else .done 1 (((s.resume none).modMe Strand.preempt).modHere (fun c => { c with lastFetch := s.cur.sc })))

/-- BPpt (R130). -/
def execBPpt (g : Guard) (s : State) : Host.Outcome State Fault Refusal :=
  issuePoint g s (fun s => if unguarded g then .done 1 s else .done 1 ((s.resume none).modMe Strand.preempt))

/-- BFmt (R138): unguarded it has acted at its fetch. -/
def execBFmt (g : Guard) (k : BitVec 2) (b : BitVec 6) (s : State) : Host.Outcome State Fault Refusal :=
  issueBlock false g s (fun s =>
    if unguarded g then .done 1 s else .done 1 ((s.resume none).modMe (fun st => { st with fk := k, ftb := b })))

/-- BSleep (R131): B holds for max(1, c) cycles with fetch stopped; SLEEP_END releases it. -/
def execBSleep (g : Guard) (a : BitVec 6) (s : State) : Host.Outcome State Fault Refusal :=
  issueBlock false g s (fun s => withScalars [a] s (fun xs s => noPoison xs
    (.done 1 (s.modMe (fun st => { st with sleepEnd := some (s.now + max 1 (opnd xs 0).val.toNat) })))))

/-- SLEEP_END (R131): the count has expired; fetch resumes. -/
def execSleepEnd (c sc : Nat) (s : State) : Host.Outcome State Fault Refusal :=
  match (s.strand c sc).sleepEnd with
  | some t =>
    if t ≤ (s.cell c).time ∧ (s.strand c sc).trap.isNone then
      .next (s.modStrand c sc (fun st => { st with sleepEnd := none, fblk := false, fetchFrom := (s.cell c).time }))
    else .next s
  | none => .next s

/-- BArm (R133): dormant from issue + 1, once every earlier word has issued. -/
def execBArm (g : Guard) (i : BitVec 18) (s : State) : Host.Outcome State Fault Refusal :=
  issueBlock true g s (fun s =>
    needs (allIssuedBefore s.me s.cur.ent.seq)
      (.done 1 (s.modMe (fun st => { st.endLoops with st := .dormant, armed := target s.cur.ent (immI18 s.cur.ent i), fblk := false,
                                                      armedAt := s.now + 1, fetchFrom := s.now + 1 }))))

/-- The cells of a shape (R12, R370). -/
def shapeHas (sh : BitVec 16) (cell : Nat) : Bool :=
  let bh := bhOf cell
  let d := bh / 16
  let off := (sh.extractLsb' 4 4).toNat
  let n := 2 ^ (sh.extractLsb' 0 3).toNat
  decide (cell < 128) && (sh.extractLsb' 8 4).getLsbD d && decide (off ≤ bh % 16) && decide (bh % 16 < off + n)

/-- A cell lies in a VF's shape; VF0's shape is BH0 alone (R370). -/
def State.inShape (s : State) (vf cell : Nat) : Bool := shapeHas (s.vf vf).cfg.shape cell

/-- The payload registers of a b.msg. -/
def msgRegs (d : BitVec 6) (n : Nat) : List (BitVec 6) := (upto n).map (fun i => d + BitVec.ofNat 6 i)

/-- BMsg (R132, R134). -/
def execBMsg (g : Guard) (d a : BitVec 6) (c : BitVec 4) (s : State) : Host.Outcome State Fault Refusal :=
  issueWord false g s (fun s => withScalars (a :: (a + 1) :: msgRegs d c.toNat) s (fun xs s => needs s.sendFree (noPoison xs (
    let t := (opnd xs 0).val.toNat
    if !s.inShape (s.vfOf s.cur.cell) t then faultW s Code.window
    else
      let (id, s) := s.startOp 64 (.msg false) (fun o => { o with ops := xs.map (·.val), buf := .send })
      .done 1 { s with msgs := s.msgs ++ [{ op := id, cell := s.cur.cell, sc := s.cur.sc, target := t, handler := (opnd xs 1).val,
                                            payload := (xs.drop 2).map (·.val) }] }))))

/-- The gate of a cell's bulkhead is open. -/
def State.gateOpen (s : State) (c : Nat) : Bool := !(tget {} s.bhs (bhOf c)).gateClosed

/-- MESSAGE_STORE (R132, R134): message i reaches its target's landing, in issue order among the messages of its strand to that cell; a
closed gate answers with a NAK. -/
def execMessageStore (i : Nat) (s : State) : Host.Outcome State Fault Refusal :=
  match s.msgs[i]? with
  | none => .next s
  | some m =>
    if (s.msgs.take i).any (fun x => x.cell == m.cell && x.sc == m.sc && x.target == m.target) then .next s
    else if !s.gateOpen m.target then
      .next ({ s with msgs := removeAt s.msgs i }.failOp m.cell m.op Code.fabric (((s.findOp m.cell m.op).map (fun (o : Op) => o.ent.addr)).getD 0))
    else if 16 ≤ (s.cell m.target).msgs.length then .next s
    else
      .next (({ s with msgs := removeAt s.msgs i }.modCell m.target (fun x => { x with msgs := x.msgs ++ [m] })).modOp m.cell m.op
        (fun o => { o with body := .msg true }))

/-- A cell freezes on an operation whose answer is late (R48). DESIGN CHOICE (log entry 75): of several late requests, each that is still late 1 ms after
the freeze of the cell began raises WATCHDOG on its own strand (R49). -/
def State.freezeOn (s : State) (c id : Nat) : State :=
  s.modCell c (fun x =>
    if x.frozenOn.contains id then x
    else { x with frozenOn := x.frozenOn ++ [id], frozenAt := if x.frozenOn.isEmpty then s.wall3 else x.frozenAt })

/-- An operation ends: it leaves the cell, and the cell resumes when it is frozen on nothing else (R48). -/
def State.endOp (s : State) (c id : Nat) : State :=
  (s.dropOp c id).modCell c (fun x => { x with frozenOn := x.frozenOn.filter (· != id) })

/-- SEND_BUFFER_RELEASE (R132): at issue + 64 the entry is released if the message is stored, else the cell freezes; once the message is
stored a frozen cell resumes. -/
def execSendBufferRelease (c id : Nat) (s : State) : Host.Outcome State Fault Refusal :=
  match s.findOp c id with
  | some o =>
    (match o.body with
     | .msg stored =>
       if (s.cell c).time < o.due then .next s
       else if o.err.isSome then .next s
       else if stored && !s.env.slow.contains id then .next (s.endOp c id)
       else if stored && (s.cell c).frozenOn.contains id then .next (s.endOp c id)
       else .next (s.freezeOn c id)
     | _ => .next s)
  | none => .next s

/-- The registers of a handler that a message starts (R135). -/
def Strand.deliver (st : Strand) (m : Msg) (t : Nat) : Strand :=
  let n := m.payload.length
  let st := { st with st := .running, pc := m.handler, fblk := false, fetchFrom := t, issueFrom := t }
  let st := st.writeS 3 { val := BitVec.ofNat 64 (m.cell + 256 * n + 65536 * m.sc) }
  (upto 8).foldl (fun x i => x.writeS (BitVec.ofNat 6 (8 + i)) { val := m.payload.getD i 0 }) st

/-- MESSAGE_DELIVERY (R135): from the cycle after it has become dormant the context takes the oldest stored message for its handler address, unless a lower-numbered context is
armed at it. -/
def execMessageDelivery (c sc : Nat) (s : State) : Host.Outcome State Fault Refusal :=
  let st := s.strand c sc
  if st.st == .dormant && decide (st.armedAt < (s.cell c).time) && (s.cell c).runs && !st.swStop then
    match findIdx (fun (m : Msg) => m.handler == st.armed) (s.cell c).msgs 0 with
    | some (i, m) =>
      if (upto sc).any (fun k => let y := s.strand c k; y.st == .dormant && y.armed == st.armed) then .next s
      else .next ((s.modStrand c sc (fun st => st.deliver m (s.cell c).time)).modCell c (fun x => { x with msgs := removeAt x.msgs i }))
    | none => .next s
  else .next s

/-- A software trap: the word is left out of the recorded queue, and its code goes to sr.cause (R136). -/
def softTrap (code : Code) (g : Guard) (i : BitVec 18) (s : State) : Host.Outcome State Fault Refusal :=
  if s.cur.ent.pfx.isSome then .next (s.raise Code.prefixFault s.cur.ent.addr)
  else if s.cur.replay.isNone && !s.guardNow g then .next ((s.resume none).retire 1)
  else
    .next (((s.resume none).retire 1).raiseIn s.cur.cell s.cur.sc
      { at' := s.now, code := code, tcode := i, taddr := s.cur.ent.addr, fpc := s.cur.ent.addr, eng := 0 })

/-- BTrap (R136). -/
def execBTrap (g : Guard) (i : BitVec 18) (s : State) : Host.Outcome State Fault Refusal := softTrap Code.swtrap g i s

/-- BSys (R136). -/
def execBSys (g : Guard) (i : BitVec 18) (s : State) : Host.Outcome State Fault Refusal := softTrap Code.sys g i s

/-- The head of an engine's words: its first replay slot, then its queue (R404). -/
def Strand.head (st : Strand) (e : Nat) : Option (Entry × Option Slot) :=
  match st.replay.find? (fun x => x.eng.toNat == e) with
  | some sl => some (sl.ent, some sl)
  | none => (st.engq e).head?.map (fun x => (x, none))

/-! ### The word at an engine's head (R106, R107, R292, R397, R404) -/

/-- What is to be done for an engine's head word of a strand: nothing, a fault taken or marker raised, a hold, or an instruction. -/
inductive Prep where
  | none
  | faulted (s : State)
  | held
  | go (i : Instr) (s : State)

/-- The strand may issue in this cycle: it runs, has nothing that stops it, and its trap, if any, is one that landed in this very
cycle, against which an issue-time fault still counts (R397, R399). -/
def Strand.mayIssue (st : Strand) (t : Nat) : Bool :=
  st.st == .running && !st.halted && !st.swStop && decide (st.issueFrom ≤ t) &&
    (match st.trap with | none => true | some tr => tr.late && tr.at' == t)

/-- The word of an engine's head, ready for its meaning: markers and words that are no instruction fault (R106, R107), words held by a
wait or fence stay (R292, R299, R306). While B holds a sleep its replay slots go on (R404). DESIGN CHOICE (log entry 66): of a word that is
ILLEGAL and carries a prefix that its entry forbids, a word that does not decode raises ILLEGAL, and one whose meaning refuses a field raises
PREFIX first. -/
def State.prepare (s : State) (c sc e : Nat) : Prep :=
  let x := s.cell c
  let st := x.strand sc
  if !x.runs || !st.mayIssue x.time || decide (x.time < tget 0 x.busy e) then .none
  else
    match st.head e with
    | none => .none
    | some (ent, slot) =>
      let s := { s with cur := { cell := c, sc := sc, eng := e, ent := ent, replay := slot } }
      if e == 0 && st.sleepEnd.isSome && slot.isNone then .held
      else if heldBy x sc ent.seq e false then .held
      else
        match (if slot.isSome then none else ent.marker) with
        | some code => .faulted (s.raise code ent.addr)
        | none =>
          match decodeWord ent.word with
          | .error _ => .faulted (s.raise Code.illegal ent.addr)
          | .ok i => if heldBy x sc ent.seq e (isWriter i) then .held else .go i s

/-- B would come to a word of the strand: its head is neither held by a wait or fence nor kept from issuing. -/
def State.reachesB (s : State) (c sc : Nat) : Bool := match s.prepare c sc 0 with | .go _ _ | .faulted _ => true | _ => false

/-- The engines that the QDEAD watchdog looks at, lowest code first: those with a head word, but for a b.halt that waits for the others
(R117, R128). -/
def Strand.watched (st : Strand) : List Nat :=
  [0, 1, 2, 3, 4, 5].filter (fun e =>
    match st.head e with
    | some (x, _) => (match decodeWord x.word with | .ok (.bHalt _) => false | _ => true)
    | none => false)

/-- A strand whose watchdog count has reached 65,536 faults, precisely at the head of its lowest-numbered nonempty queue (R117). -/
def State.qdeadNow (s : State) (c sc : Nat) : State :=
  let st := s.strand c sc
  if 65536 ≤ st.qdead ∧ st.trap.isNone then
    match st.watched with
    | e :: _ =>
      let a := ((st.head e).map (fun x => x.1.addr)).getD 0
      (s.modStrand c sc (fun st => { st with qdead := 0 })).raiseIn c sc
        { at' := (s.cell c).time, code := Code.qdead, taddr := a, fpc := a, eng := BitVec.ofNat 3 e }
    | [] => s
  else s

/-- QDEAD (R117), in the cycle in which the count reaches 65,536. -/
def execQdead (c sc : Nat) (s : State) : Host.Outcome State Fault Refusal := .next (s.qdeadNow c sc)

end Sys2Proof.Machine
end

