-- ==== Sys2Proof/Machine/Traps.lean ====
section
/-! DEFINITION. Taking a trap and returning from it (R397 to R404): the trap frame and its entries (R400, R401), sr.tinfo (R402), the
step that enters the handler (R398), b.rfe (R404), and the report that traps a strand (R276, R342). -/

namespace Sys2Proof.Machine

open Sys2Proof

/-! ### The frame (R400, R401) -/

def zeros (n : Nat) : List Byte := List.replicate n 0

def le8 (v : Dword) : List Byte := leBytes v.toNat 8

def le4 (v : BitVec 32) : List Byte := leBytes v.toNat 4

/-- A tag in the form of a scalar tag: bit 7 valid, bits 5:0 the code (R400). -/
def tagByte (t : Option Code) : Byte := match t with | some c => 0x80 + c.zeroExtend 8 | none => 0

/-- The prefix field of a queue entry or slot. -/
def pfxField (p : Option (BitVec 29)) : BitVec 32 := match p with | some v => v.zeroExtend 32 ||| 0x80000000 | none => 0

/-- A queue entry of the frame, 24 bytes. -/
def Entry.bytes (e : Entry) : List Byte :=
  le4 e.word ++ le4 (pfxField e.pfx) ++ le8 e.addr ++ le4 e.lcTag ++
    [match e.stages with | some (_, v) => 1 + (v.zeroExtend 8 <<< 1) | none => 0] ++
    [tagByte e.marker] ++ zeros 2

/-- A loop of the frame, 48 bytes. -/
def Loop.bytes (l : Loop) : List Byte :=
  [(if l.act then 1 else 0) + (l.n.zeroExtend 8 <<< 1)] ++ zeros 7 ++ le8 l.start ++ le8 l.last ++ le4 l.lo ++ le4 l.hi ++ le4 l.tgt ++
    le4 l.j ++ zeros 8

/-- A replay slot of the frame, 384 bytes. -/
def Slot.bytes (x : Slot) : List Byte :=
  le4 x.ent.word ++ le4 (pfxField x.ent.pfx) ++ le8 x.ent.addr ++
    [(if x.valid then 0x80 else 0) + x.code.zeroExtend 8, x.eng.zeroExtend 8, BitVec.ofNat 8 (min 12 x.ops.length)] ++ zeros 5 ++
    le8 x.taddr ++ ((upto 12).flatMap (fun i => le8 (x.ops.getD i 0))) ++ leBytes (x.vec.getD 0).toNat 256

/-- The replay slots to record: the late faults in order of landing, then slots that an earlier b.rfe gave back and that have not
issued (R399). -/
def Strand.slots (st : Strand) : List Slot := st.lates ++ st.replay

/-- sr.tinfo of a trap (R402). -/
def Strand.tinfoOf (st : Strand) (t : Trap) : BitVec 43 :=
  let n (e : Nat) : Nat := min 16 (st.engq e).length
  BitVec.ofNat 43 (t.eng.toNat + (if t.late then 8 else 0) + (if t.rep then 16 else 0) + 2 ^ 8 * min 16 st.slots.length +
    2 ^ 13 * n 0 + 2 ^ 18 * n 1 + 2 ^ 23 * n 2 + 2 ^ 28 * n 3 + 2 ^ 33 * n 4 + 2 ^ 38 * n 5)

/-- sr.cause of a trap (R402). -/
def Trap.causeOf (t : Trap) : BitVec 24 := t.tcode ++ t.code

/-- fr.npc: a prefix that waits for its word is fetched again. -/
def Strand.npc (st : Strand) : Dword := if st.pfx.isSome then st.pfxAt else st.pc

def Strand.frCtl (st : Strand) : BitVec 32 :=
  BitVec.ofNat 32 ((if st.fblk then 1 else 0) + (if st.pmark then 2 else 0) + 4 * st.fk.toNat + 16 * st.ftb.toNat +
    (if st.sleepEnd.isSome then 1024 else 0))

/-- The 10,240 bytes of the trap frame (R400). -/
def Strand.frame (st : Strand) (t : Trap) : List Byte :=
  let sv (k : Nat) : Sval := tget {} st.s k
  le8 (t.causeOf.zeroExtend 64) ++ le8 ((st.tinfoOf t).zeroExtend 64) ++ le8 t.taddr ++ le8 t.fpc ++ le8 st.npc ++ le4 st.frCtl ++ zeros 4 ++
  le8 (BitVec.ofNat 64 ((st.sleepEnd.getD 0) - t.at')) ++ le8 (st.p.zeroExtend 64 &&& 0xFE) ++
  ((span 1 15).flatMap (fun k => le8 (sv k).val)) ++ zeros 8 ++
  ((span 1 7).flatMap (fun k => le8 (tget 0 st.m k))) ++ zeros 8 ++
  (0 :: (span 1 15).map (fun k => tagByte (sv k).tag)) ++
  ((upto 8).flatMap (fun j => (upto 8).map (fun n => tagByte ((st.queue j).getD n {}).tag))) ++
  ((upto 8).map (fun j => BitVec.ofNat 8 (min 8 (st.queue j).length))) ++ zeros 40 ++
  ((upto 8).flatMap (fun j => (upto 8).flatMap (fun n => le8 ((st.queue j).getD n {}).val))) ++
  ((upto 4).flatMap (fun k => (st.lc k).bytes)) ++
  ((upto 6).flatMap (fun e => (upto 16).flatMap (fun i => match (st.engq e)[i]? with | some x => x.bytes | none => zeros 24))) ++ zeros 64 ++
  ((upto 16).flatMap (fun i => match st.slots[i]? with | some x => x.bytes | none => zeros 384)) ++ zeros 640

/-! ### Entering the handler (R398) -/

/-- Operations that a trap entry does not wait for: drains and chain closes into a result queue, chain steps, and threads (R398). -/
def Op.unawaited (o : Op) : Bool :=
  match o.body with
  | .drainQ .. | .chainStep | .drainP _ | .flume _ | .frame => true
  | .che y _ _ => y.isSome
  | _ => false

/-- Every operation that a trap entry waits for has completed. -/
def entryReady (c : Cell) (sc : Nat) : Bool := (c.strand sc).pend.isEmpty && c.ops.all (fun o => o.sc != sc || o.unawaited)

/-- sr.tvec and sr.tscr are usable (R398 step 2). -/
def Strand.vectorsOk (st : Strand) : Bool :=
  st.tvec != 0 && st.tvec.extractLsb' 0 2 == 0 && st.tvec.extractLsb' 60 4 == 0 &&
    st.tscr.extractLsb' 0 6 == 0 && st.tscr.extractLsb' 60 4 == 0

/-- The strand in its handler, entered at cell time h (R398 step 4). Late faults that have landed after the frame was written are held (R403). -/
def Strand.enterHandler (st : Strand) (t : Trap) (h : Nat) : Strand :=
  let n := t.framed.getD st.lates.length
  let later := st.lates.drop n
  let st := { st with lates := st.lates.take n }
  { st.endLoops with
    st := .running, wasDormant := st.st == .dormant, cause := t.causeOf, tinfo := st.tinfoOf t, taddr := t.taddr, handler := true,
    entered := h, qdead := 0, q := [], queues := [], pc := st.tvec, fetchFrom := h, issueFrom := h + 1, fblk := false, pfx := none, pmark := false,
    sleepEnd := none, trap := none, lates := later, replay := [], swHalt := false,
    savedSeq := ((upto 6).map (fun e => (e, (st.engq e).map (·.seq)))) ++ [(6, st.slots.map (·.ent.seq))],
    savedStages := (upto 6).map (fun e => (e, (st.engq e).map (fun x => (x.stages.map (·.1)).getD 0))) }

/-- A partition reset of the VF of a cell becomes due. -/
def State.partition (s : State) (c : Nat) : State := s.modVf (s.vfOf c) (fun v => { v with presetDue := true })

/-- The frame of a trap is written, as global stores of the strand that must be acknowledged by e + 64 (R398 step 3). -/
def State.writeFrame (s : State) (c sc : Nat) (t : Trap) (e : Nat) : State :=
  let st := s.strand c sc
  match s.writeVa (some c) (s.vfOf c) (dieOf c) st.tscr.toNat (st.frame t) with
  | .error _ => s.partition c
  | .ok (_, s) =>
    let (id, s) := s.fresh
    (s.modStrand c sc (fun st => { st with trap := some { t with framed := some st.lates.length } })).addOp c
      { id := id, sc := sc, eng := 4, ent := {}, issued := e + 1, due := e + 64, addr := some st.tscr, body := .frame }

/-- The frame's stores of a strand have been acknowledged. -/
def frameStored (x : Cell) (sc : Nat) : Bool := x.ops.all (fun o => o.sc != sc || (match o.body with | .frame => false | _ => true))

/-- TRAP_ENTRY (R398): after cycle e, in which the last awaited operation has completed, the frame is written from e + 1; in cycle e + 65, when
its stores have been acknowledged, the handler is entered. Registers that fail their check and a frame that cannot be written start a
partition reset. In a cell that a switch has closed, whose time stands, the entry goes on to its end (R411). -/
def execTrapEntry (c sc : Nat) (s : State) : Host.Outcome State Fault Refusal :=
  let x := s.cell c
  let st := x.strand sc
  match st.trap with
  | none => .next s
  | some t =>
    let e := t.ready.getD (max x.time t.at')
    if st.handler || st.halted || !x.frozenOn.isEmpty then .next s
    else if t.framed.isNone then
      if !(x.closed || (t.ready.isSome && decide (e < x.time))) || !entryReady x sc then .next s
      else if !st.vectorsOk then .next (s.partition c)
      else .next (s.writeFrame c sc t e)
    else if !(x.closed || decide (e + 65 ≤ x.time)) || !frameStored x sc then .next s
    else .next (s.modStrand c sc (fun st => st.enterHandler t (e + 65)))

/-- REPORT_TAKEN (R276, R342, R397): the oldest report of a running strand traps it at its next B word, in the cycle in which that word would
have issued; the word stays. The default order has this step just where B has chosen that word (cellIssues). -/
def execReportTaken (c sc : Nat) (s : State) : Host.Outcome State Fault Refusal :=
  let st := s.strand c sc
  match st.reports with
  | [] => .next s
  | r :: rest =>
    if st.st == .running && !st.handler && st.trap.isNone && s.reachesB c sc then
      .next ((s.modStrand c sc (fun st => { st with reports := rest })).raiseIn c sc
        { at' := (s.cell c).time, code := r.code, taddr := r.taddr, eng := r.eng, rep := true })
    else .next s

/-! ### b.rfe (R404) -/

/-- n bytes of a frame from a on, as a number. -/
def fld' (f : List Byte) (a n : Nat) : Nat := ofBytes ((f.drop a).take n)

def allZero (f : List Byte) (a n : Nat) : Bool := ((f.drop a).take n).all (· == 0)

/-- The saved words of queue e and the valid slots, as fr.tinfo counts them (R402). -/
def frCount (f : List Byte) (e : Nat) : Nat := fld' f 8 8 / 2 ^ (13 + 5 * e) % 32
def frRep (f : List Byte) : Nat := fld' f 8 8 / 2 ^ 8 % 32

def queueAt (e i : Nat) : Nat := 1088 + 384 * e + 24 * i
def slotAt (i : Nat) : Nat := 3456 + 384 * i

/-- A queue entry is one that b.rfe takes: reserved fields zero, and, among those that fr.tinfo counts, its engine that of its queue or a
fault marker (R404). -/
def frEntryOk (f : List Byte) (e i : Nat) : Bool :=
  let a := queueAt e i
  allZero f (a + 22) 2 && fld' f (a + 4) 4 / 2 ^ 29 % 4 == 0 &&
    (decide (frCount f e ≤ i) || fld' f a 4 / 2 ^ 29 == e || fld' f (a + 21) 1 / 128 == 1)

def frLoopOk (f : List Byte) (k : Nat) : Bool :=
  let a := 896 + 48 * k
  allZero f (a + 1) 7 && allZero f (a + 40) 8 && fld' f a 1 / 16 == 0

def frSlotOk (f : List Byte) (i : Nat) : Bool :=
  let a := slotAt i
  (fld' f (a + 16) 1 / 128 == 0 || decide (i < frRep f)) && allZero f (a + 19) 5 && fld' f (a + 18) 1 / 16 == 0 &&
    fld' f (a + 4) 4 / 2 ^ 29 % 4 == 0

/-- b.rfe accepts a frame (R404 step 3). -/
def frameOk (f : List Byte) : Bool :=
  allZero f 44 4 && allZero f 184 8 && allZero f 248 8 && allZero f 344 40 && allZero f 3392 64 && allZero f 9600 640 &&
  fld' f 40 4 / 2 ^ 11 == 0 && fld' f 8 8 / 2 ^ 43 == 0 && fld' f 8 8 / 32 % 8 == 0 &&
  (upto 6).all (fun e => decide (frCount f e ≤ 16)) && decide (frRep f ≤ 16) &&
  (upto 8).all (fun j => decide (fld' f (336 + j) 1 ≤ 8)) &&
  (upto 4).all (frLoopOk f) &&
  (upto 6).all (fun e => (upto 16).all (frEntryOk f e)) &&
  (upto 16).all (frSlotOk f)

def frTag (f : List Byte) (a : Nat) : Option Code := if fld' f a 1 / 128 == 1 then some (BitVec.ofNat 6 (fld' f a 1)) else none

def frPfx (f : List Byte) (a : Nat) : Option (BitVec 29) :=
  if fld' f a 4 / 2 ^ 31 == 1 then some (BitVec.ofNat 29 (fld' f a 4)) else none

def frLoop (f : List Byte) (k : Nat) : Loop :=
  let a := 896 + 48 * k
  { act := fld' f a 1 % 2 == 1, n := BitVec.ofNat 3 (fld' f a 1 / 2), start := BitVec.ofNat 64 (fld' f (a + 8) 8),
    last := BitVec.ofNat 64 (fld' f (a + 16) 8), lo := BitVec.ofNat 32 (fld' f (a + 24) 4), hi := BitVec.ofNat 32 (fld' f (a + 28) 4),
    tgt := BitVec.ofNat 32 (fld' f (a + 32) 4), j := BitVec.ofNat 32 (fld' f (a + 36) 4) }

/-- The stage count of a word tagged in a pipelined loop, which the frame does not hold: the one it was fetched with (n), or, for a word
that a handler has put into the frame, that of a pipelined loop, active or ended, whose body holds it. -/
def stageCount (st : Strand) (a : Dword) (n : BitVec 3) : BitVec 3 :=
  if n != 0 then n
  else
    (([0, 1, 2, 3].map st.lc).findSome? (fun (l : Loop) => if l.n != 0 && l.start.ule a && a.ule l.last then some l.n else none)).getD 7

/-- A queue entry of the frame; n is the stage count it was fetched with. DESIGN CHOICE (log entry 76): a guard that was read before the save is read
again. -/
def frEntry (f : List Byte) (st : Strand) (e i seq : Nat) (n : BitVec 3) : Entry :=
  let a := queueAt e i
  let addr : Dword := BitVec.ofNat 64 (fld' f (a + 8) 8)
  let b20 := fld' f (a + 20) 1
  { word := BitVec.ofNat 32 (fld' f a 4), pfx := frPfx f (a + 4), addr := addr, lcTag := BitVec.ofNat 32 (fld' f (a + 16) 4),
    ftbTag := st.ftb, stages := if b20 % 2 == 1 then some (stageCount st addr n, BitVec.ofNat 7 (b20 / 2)) else none,
    marker := frTag f (a + 21), seq := seq }

def frSlot (f : List Byte) (i seq : Nat) : Slot :=
  let a := slotAt i
  let w : Word := BitVec.ofNat 32 (fld' f a 4)
  { ent := { word := w, pfx := frPfx f (a + 4), addr := BitVec.ofNat 64 (fld' f (a + 8) 8), seq := seq },
    code := BitVec.ofNat 6 (fld' f (a + 16) 1), eng := BitVec.ofNat 3 (fld' f (a + 17) 1),
    taddr := BitVec.ofNat 64 (fld' f (a + 24) 8),
    ops := (upto (fld' f (a + 18) 1 % 16)).map (fun n => BitVec.ofNat 64 (fld' f (a + 32 + 8 * n) 8)),
    vec := if (match decodeWord w with | .ok (.lStvg ..) | .ok (.lStk ..) | .ok (.lStvs ..) => true | _ => false)
           then some (BitVec.ofNat 2048 (fld' f (a + 128) 256)) else none }

/-- The place in fetch order of the i-th of n words that remain of those saved: words that a handler removed were at the head. -/
def seqOf (l : List Nat) (n i : Nat) : Nat := l.getD (l.length - n + i) i

/-- The stage count of that word. -/
def stagesOf (l : List (BitVec 3)) (n i : Nat) : BitVec 3 := l.getD (l.length - n + i) 0

/-- A window that is cut stays cut: its loop ends the strand's run when a switch is pending (R127). -/
def Strand.recut (st : Strand) : Strand :=
  { st with swCut := if st.swReq then (st.activeLoops.find? (fun e => decide (e.2.hi.toNat < e.2.tgt.toNat))).map (fun e => BitVec.ofNat 2 e.1)
                     else none }

/-- The strand with everything that the frame holds (R404 step 4); fetch and issue go on at cell time z. -/
def Strand.restore (st : Strand) (f : List Byte) (z : Nat) : Strand :=
  let ctl := fld' f 40 4
  let st := { st with
    st := if st.wasDormant then .dormant else .running, armedAt := if st.wasDormant then z - 1 else st.armedAt, wasDormant := false,
    handler := false,
    p := BitVec.ofNat 8 (fld' f 56 1 / 2 * 2),
    m := (span 1 7).foldl (fun x k => tset 0 x k (BitVec.ofNat 64 (fld' f (192 + 8 * (k - 1)) 8))) st.m,
    s := (span 1 15).foldl (fun x k =>
      tset {} x k { val := BitVec.ofNat 64 (fld' f (64 + 8 * (k - 1)) 8), tag := frTag f (256 + k) }) st.s,
    q := (upto 8).foldl (fun x j => tset [] x j ((upto (fld' f (336 + j) 1)).map (fun n =>
      { val := BitVec.ofNat 64 (fld' f (384 + 64 * j + 8 * n) 8), tag := frTag f (272 + 8 * j + n) }))) [],
    loops := (upto 4).foldl (fun x k => tset {} x k (frLoop f k)) st.loops,
    fblk := ctl % 2 == 1, pmark := ctl / 2 % 2 == 1, fk := BitVec.ofNat 2 (ctl / 4), ftb := BitVec.ofNat 6 (ctl / 16),
    sleepEnd := if ctl / 1024 % 2 == 1 then some (z + fld' f 48 8) else none,
    pc := BitVec.ofNat 64 (fld' f 32 8), pfx := none, fetchFrom := z, issueFrom := z }
  { st with
    queues := (upto 6).foldl (fun x e => tset [] x e ((upto (frCount f e)).map (fun i =>
      frEntry f st e i (seqOf (tget [] st.savedSeq e) (frCount f e) i) (stagesOf (tget [] st.savedStages e) (frCount f e) i)))) [],
    replay := ((upto (frRep f)).filter (fun i => fld' f (slotAt i + 16) 1 / 128 == 1)).map (fun i =>
      frSlot f i ((tget [] st.savedSeq 6).getD i 0)) }

/-- After b.rfe, faults that were held while the handler ran begin a trap (R403). -/
def State.takeHeld (s : State) (c sc z : Nat) : State :=
  match (s.strand c sc).lates with
  | x :: _ =>
    s.raiseIn c sc { at' := z, code := x.code, taddr := x.taddr, fpc := x.ent.addr, eng := x.eng, late := true }
  | [] => s

/-- BRfe (R137, R404): with the handler flag clear it is ILLEGAL; otherwise B holds it until every other operation of the strand has
completed, and it reads the frame at sr.tscr; the restore comes when the reads complete, at issue + 64 (State.finishFrame). -/
def execBRfe (g : Guard) (s : State) : Host.Outcome State Fault Refusal :=
  issueBlock false g s (fun s =>
    if !s.me.handler then faultW s Code.illegal
    else needs (allIssuedBefore s.me s.cur.ent.seq && quiet s.here s.cur.sc) (
      let r := s.readVa (some s.cur.cell) (s.vfOf s.cur.cell) (dieOf s.cur.cell) s.me.tscr.toNat 10240
      .done 1 (s.startOp 64 (.rfe (match r with | .ok f => f | .error _ => [])) (fun o => { o with
        addr := some s.me.tscr, err := match r with | .ok _ => none | .error e => some e })).2))

/-- The completion of a b.rfe (R404 steps 3 and 4): a refused frame is a fault of the handler; otherwise the strand has everything that the
frame holds, and it re-issues and fetches from the next cycle. -/
def State.finishRfe (s : State) (c : Nat) (o : Op) (f : List Byte) : State :=
  let z := o.issued + 65
  if !frameOk f then s.lateFault c o Code.illegal o.ent.addr
  else ((s.endOp c o.id).modStrand c o.sc (fun st => (st.restore f z).recut.resumeMark)).takeHeld c o.sc z

/-- A frame's stores are acknowledged at e + 64, and a b.rfe has its reads at issue + 64, or at the end of a freeze (R48, R398, R404). -/
def State.finishFrame (s : State) (c : Nat) (o : Op) : State :=
  if !(s.cell c).closed && (s.cell c).time < o.due then s
  else if s.env.slow.contains o.id && !(s.cell c).frozenOn.contains o.id then s.freezeOn c o.id
  else
    match o.body, o.err with
    | .rfe _, some (e, a) => s.lateFault c o e a
    | .rfe f, none => s.finishRfe c o f
    | _, _ => s.endOp c o.id

end Sys2Proof.Machine
end

