-- ==== Sys2Proof/Machine/Global.lean ====
section
/-! DEFINITION. Global loads, stores and atomics (R46 to R49, R309, R321 to R325), the steps by which their answers land (timed arrival,
late data, error responses, the watchdog, acknowledgements), and the steps of device memory: propagation of writes (R286), atomics
at their home (R287), demand-zero pages (R320) and returned frames (R319). -/

namespace Sys2Proof.Machine

open Sys2Proof

/-! ### Landing (R46 to R49, R206, R287) -/

/-- The data of a timed request is known. -/
def Op.ready (o : Op) : Bool :=
  (match o.req with | none => true | some (.gatomLand ..) => true | _ => false) &&
  (match o.body with
   | .timedS _ d _ => d.isSome
   | .timedV _ d _ => d.isSome
   | .timedT _ d _ => d.isSome
   | .kfork _ d => d.isSome
   | _ => true)

/-- The new word of an atomic (R206): x the old word, y the data register, z the next register. -/
def atomicNew (o : BitVec 3) (x y z : Dword) : Dword :=
  match o.toNat with
  | 0 => x + y
  | 1 => if x.slt y then x else y
  | 2 => if x.slt y then y else x
  | 3 => y
  | 4 => if x == y then z else x
  | 5 => x &&& y
  | _ => x ||| y

/-- A global atomic lands (R287): its write enters its own die's sequence. When a write of the word has entered that sequence since the home
step, the atomic takes its place in home order after it, and its old value with it: the word as the writes before it there leave it, without
its own; the old value. -/
def State.landAtomic (s : State) (c id : Nat) (op : BitVec 3) (pa : Nat) (x y old : Dword) : Dword × State :=
  let bytes (w : Dword) : List (Nat × Byte) := writable (placed pa (leBytes w.toNat 8))
  let passed := s.mem.turns.find? (fun t => t.op == id && t.passed)
  let s : State := { s with mem := { s.mem with turns := s.mem.turns.filter (fun t => t.op != id) } }
  match passed with
  | some t =>
    let s := s.catchUp (dieOf c)
    let old := t.old
    let new := bytes (atomicNew op old x y)
    let s : State := { s with mem := { s.mem with home := writeAll s.mem.home new } }
    (old, s.enterAtomic (dieOf c) new)
  | none => (old, s.enterAtomic (dieOf c) (bytes (atomicNew op old x y)))

/-- What an operation writes when it lands. -/
def State.land (s : State) (c : Nat) (o : Op) : State :=
  match o.body with
  | .timedS d (some v) _ =>
    (match o.req with
     | some (.gatomLand op pa x y) =>
       let r := s.landAtomic c o.id op pa x y v
       r.2.modStrand c o.sc (fun st => st.writeS d { val := r.1 })
     | _ => s.modStrand c o.sc (fun st => st.writeS d { val := v }))
  | .kfork d (some v) => s.modStrand c o.sc (fun st => st.writeS d { val := v })
  | .timedV d (some v) _ => s.modStrand c o.sc (fun st => st.writeV d v (BitVec.allOnes 64) (some none))
  | .timedT t (some v) _ => s.modCell c (fun x => x.setTile t v)
  | .stk f => s.modStrand c o.sc (fun st => { st with stat := st.stat ||| f })
  | _ => s

/-- A timed request (R46). -/
def Op.timed (o : Op) : Bool :=
  match o.body with
  | .timedS .. | .timedV .. | .timedT .. => true
  | _ => false

/-- A posted word with a send-buffer entry that an acknowledgement releases (R324). -/
def Op.posted (o : Op) : Bool :=
  match o.body with
  | .store | .stk _ | .kfork .. => true
  | _ => false

/-- The vector register that an operation will write. -/
def OpBody.vdest : OpBody → Option (BitVec 5)
  | .timedV d _ _ => some d
  | _ => none

/-- A cell is frozen on an earlier operation of the strand that writes the same register: its late result is written in the same cycle and
so comes first (R48, R143). -/
def State.behindLate (s : State) (c : Nat) (o : Op) : Bool :=
  (s.ops c).any (fun x => (s.cell c).frozenOn.contains x.id && x.sc == o.sc && decide (x.id < o.id) &&
    ((x.body.sdest.isSome && x.body.sdest == o.body.sdest) || (x.body.vdest.isSome && x.body.vdest == o.body.vdest)))

/-- An operation completes at its due cycle, or the cell freezes on it until it can (R46, R48). -/
def State.landOrFreeze (s : State) (c : Nat) (o : Op) : State :=
  if s.behindLate c o then s
  else if o.ready && !s.env.slow.contains o.id then
    ((s.modStrand c o.sc (fun st => st.commitBefore (s.cell c).time o.id)).land c o).endOp c o.id
  else s.freezeOn c o.id

/-- TIMED_ARRIVAL (R46 to R48): at issue + Δ the destination is written, or the cell freezes. -/
def execTimedArrival (c id : Nat) (s : State) : Host.Outcome State Fault Refusal :=
  match s.findOp c id with
  | some o => .next (if o.timed && o.err.isNone && decide (o.due ≤ (s.cell c).time) then s.landOrFreeze c o else s)
  | none => .next s

/-- LATE_DATA_LANDING (R48): late data lands in cell time issue + Δ and the cell resumes. -/
def execLateDataLanding (c id : Nat) (s : State) : Host.Outcome State Fault Refusal :=
  match s.findOp c id with
  | some o =>
    .next (if (o.timed || o.posted) && o.err.isNone && o.ready && (s.cell c).frozenOn.contains id && !s.behindLate c o
           then (s.land c o).endOp c id else s)
  | none => .next s

/-- STORE_ACKNOWLEDGEMENT (R324): the send-buffer entry is released at issue + 64, or the cell freezes. -/
def execStoreAcknowledgement (c id : Nat) (s : State) : Host.Outcome State Fault Refusal :=
  match s.findOp c id with
  | some o => .next (if o.posted && o.err.isNone && decide (o.due ≤ (s.cell c).time) then s.landOrFreeze c o else s)
  | none => .next s

/-- An error response lands (R49): a speculative load writes a tag or a deferred fault (R322); any other word faults, late. -/
def State.landError (s : State) (c : Nat) (o : Op) (code : Code) (a : Dword) : State :=
  let s := s.modStrand c o.sc (fun st => st.commitBefore (s.cell c).time o.id)
  match o.body with
  | .timedS d _ true => (s.modStrand c o.sc (fun st => st.writeS d { val := a &&& 0x0FFFFFFFFFFFFFFF, tag := some code })).endOp c o.id
  | .timedV d _ true =>
    (s.modStrand c o.sc (fun st => st.writeV d 0 (BitVec.allOnes 64) (some (some (code, a.truncate 60))))).endOp c o.id
  | .timedT t _ true => (s.modCell c (fun x => x.setTile t { x.tile t with st := .full, dfault := some (code, a.truncate 60), poison := false })).endOp c o.id
  | .timedT t _ false => (s.modCell c (fun x => x.emptyTile t)).lateFault c o code a
  | _ => s.lateFault c o code a

/-- ERROR_RESPONSE (R49): an error lands at issue + Δ (for a posted word at issue + 64 or later), or at the end of a freeze. -/
def execErrorResponse (c id : Nat) (s : State) : Host.Outcome State Fault Refusal :=
  match s.findOp c id with
  | some o =>
    (match o.err with
     | some (code, a) =>
       if (s.cell c).time < o.due || s.behindLate c o then .next s
       else if s.env.slow.contains id && !(s.cell c).frozenOn.contains id then .next (s.freezeOn c id)
       else .next (s.landError c o code a)
     | none => .next s)
  | none => .next s

/-- What sr.taddr holds of a late request: its access address, or the address of the word for a barrier release and a request without an
address (R49). -/
def Op.lateAddr (o : Op) : Dword :=
  match o.body with
  | .barRel .. => o.ent.addr
  | _ => o.addr.getD o.ent.addr

/-- WATCHDOG (R49): no answer within 1 ms of a freeze. -/
def execWatchdog (c id : Nat) (s : State) : Host.Outcome State Fault Refusal :=
  match s.findOp c id with
  | some o =>
    if (s.cell c).frozenOn.contains id ∧ (s.cell c).frozenAt + 3000000 ≤ s.wall3 then
      match o.body with
      | .timedT t _ _ => .next ((s.modCell c (fun x => x.emptyTile t)).lateFault c o Code.watchdog o.lateAddr)
      -- the stores of a trap frame are no word that could be replayed: like a frame that cannot be written (R398) they end the VF's run
      | .frame => .next ((s.endOp c id).modVf (s.vfOf c) (fun v => { v with presetDue := true }))
      | _ => .next (s.lateFault c o Code.watchdog o.lateAddr)
    else .next s
  | none => .next s

/-! ### Global loads (R321 to R323) -/

/-- The arrival delay of a code (R46). -/
def arrival (c : BitVec 6) : Nat := 8 + 4 * c.toNat

/-- A VA is aligned and has its four top bits clear (R312, R322). -/
def vaChecks (va : Dword) (align : Nat) (k : Issue) : Issue :=
  if va.toNat % align != 0 then .fault Code.align va
  else if va.extractLsb' 60 4 != 0 then .fault Code.page va
  else k

/-- The leaves of an access's first and last page are cached in the cell as its walks find them (R293). -/
def State.cachePages (s : State) (va n : Nat) : State :=
  let c := s.cur.cell
  (s.cacheLeaf c (s.vfOf c) (dieOf c) va).cacheLeaf c (s.vfOf c) (dieOf c) (va + n - 1)

/-- A read of the word being issued, in the sequence of its die. -/
def State.readHere (s : State) (va n : Nat) : Except (Code × Dword) (List Byte) :=
  s.readVa (some s.cur.cell) (s.vfOf s.cur.cell) (dieOf s.cur.cell) va n

/-- A timed load whose value is fixed at issue (R285, R322): it reserves a register-landing entry; an error waits for the landing. -/
def State.timedLoad (s : State) (lat : Nat) (ops : List Dword) (va : Dword) (r : Except (Code × Dword) OpBody) (fail : OpBody) : State :=
  match r with
  | .ok b => (s.startOp lat b (fun o => { o with ops := ops, buf := .landing, addr := some va })).2
  | .error e => (s.startOp lat fail (fun o => { o with ops := ops, buf := .landing, addr := some va, err := some e })).2

/-- LLdg (R322). -/
def execLLdg (g : Guard) (d : BitVec 6) (sp : Bool) (b : BitVec 5) (c : BitVec 6) (s : State) : Host.Outcome State Fault Refusal :=
  issueWord true g s (fun s => withScalars [b.zeroExtend 6] s (fun xs s => needs s.landingFree (roomFor d s (noPoison xs (
    let va := (opnd xs 0).val + disp s.cur.ent
    vaChecks va 8 (
      let s := s.cachePages va.toNat 8
      let r := (s.readHere va.toNat 8).map (fun l => OpBody.timedS d (some (BitVec.ofNat 64 (ofBytes l))) sp)
      .done 1 (s.timedLoad (arrival c) (xs.map (·.val)) va r (.timedS d none sp))))))))

/-- LLdvg (R322). -/
def execLLdvg (g : Guard) (d : BitVec 5) (sp : Bool) (b : BitVec 5) (c : BitVec 6) (s : State) : Host.Outcome State Fault Refusal :=
  issueWord true g s (fun s =>
    if isY d then faultW s Code.illegal
    else withScalars [b.zeroExtend 6] s (fun xs s => needs s.landingFree (noPoison xs (
    let va := (opnd xs 0).val + disp s.cur.ent
    vaChecks va 4 (
      let s := s.cachePages va.toNat 256
      let r := (s.readHere va.toNat 256).map (fun l => OpBody.timedV d (some (BitVec.ofNat 2048 (ofBytes l))) sp)
      .done 1 (s.timedLoad (arrival c) (xs.map (·.val)) va r (.timedV d none sp)))))))

/-- A tile image's header is well formed (R323). -/
def imageOk (h : Nat) (bt : Bool) : Bool :=
  let fmt := h % 16
  h / 512 == 0 && isMatFmt fmt && (if fmt = 5 then h / 16 % 8 != 0 else h / 16 % 8 == 0) &&
    (h / 128 % 2 == 0 || fmt == 3 || fmt == 4) && (!bt || h / 256 % 2 == 1)

/-- The shape of a tile image (R323). -/
def imageGeo (h : Nat) (bt : Bool) : TileGeo :=
  let fmt := h % 16
  { fmt := BitVec.ofNat 4 fmt, pl := BitVec.ofNat 3 (h / 16), w := blockBytes fmt (h / 16 % 8 + 1), e := elemBytes fmt,
    sc := fmt == 5 || h / 128 % 2 == 1, bt := bt }

/-- A tile image read from a VA (R323). -/
def State.readImage (s : State) (va : Nat) (bt : Bool) : Except (Code × Dword) Tile := do
  let h ← s.readHere va 8
  let h := ofBytes h
  if !imageOk h bt then .error (Code.illegal, s.cur.ent.addr)
  else
    let g := imageGeo h bt
    let n := 64 * g.w
    let rows ← s.readHere (va + 64) n
    let sc ← if g.sc then s.readHere (va + 64 + n) 64 else .ok (zeros 64)
    let bd ← if bt then s.readHere (va + 64 + n + (if g.sc then 64 else 0)) 4 else .ok (zeros 4)
    return fillTile g (rows ++ sc ++ bd)

/-- LLdtg (R323): L holds the word until the register is empty. Under .sp a header fault's deferred fault holds the image's VA. -/
def execLLdtg (g : Guard) (k : Bool) (d : BitVec 4) (sp : Bool) (b : BitVec 5) (c : BitVec 6) (s : State) :
    Host.Outcome State Fault Refusal :=
  issueWord true g s (fun s => withScalars [b.zeroExtend 6] s (fun xs s =>
    needs (s.landingFree && (s.here.tile d.toNat).st == .empty) (noPoison xs (
    let va := (opnd xs 0).val + disp s.cur.ent
    vaChecks va 64 (
      let s := s.cachePages va.toNat 128
      let r := (match s.readImage va.toNat k with
        | .ok t => .ok (OpBody.timedT d.toNat (some t) sp)
        | .error (e, a) => .error (e, if sp && e == Code.illegal then va else a))
      .done 1 ((s.timedLoad (arrival c) (xs.map (·.val)) va r (.timedT d.toNat none sp)).modHere
        (fun x => x.setTile d.toNat { x.tile d.toNat with st := .loading })))))))

/-! ### Global stores (R324) -/

/-- A posted store of bytes (R324): the write enters its die's sequence at issue; one that fails holds no place there and its fault
waits for issue + 64. -/
def State.postStore (s : State) (ops : List Dword) (vec : Option Vec) (va : Dword) (l : List Byte) : State :=
  let c := s.cur.cell
  let s := s.cachePages va.toNat l.length
  let post (s : State) (e : Option (Code × Dword)) : State :=
    (s.startOp 64 .store (fun o => { o with ops := ops, vec := vec, buf := .send, addr := some va, err := e })).2
  match s.writeVa (some c) (s.vfOf c) (dieOf c) va.toNat l with
  | .ok (_, s) => post s none
  | .error e => post s (some e)

/-- LStg (R324). -/
def execLStg (g : Guard) (d a b : BitVec 6) (s : State) : Host.Outcome State Fault Refusal :=
  issueWord true g s (fun s => withScalars [a, b, d] s (fun xs s => needs s.sendFree (noPoison xs (
    let va := (opnd xs 0).val + (opnd xs 1).val + disp s.cur.ent
    vaChecks va 8 (.done 1 (s.postStore (xs.map (·.val)) none va (le8 (opnd xs 2).val)))))))

/-- LStvg (R324). -/
def execLStvg (g : Guard) (d : BitVec 5) (a b : BitVec 6) (s : State) : Host.Outcome State Fault Refusal :=
  issueWord true g s (fun s => withScalars [a, b] s (fun xs s => withVectors [d] s (fun vs s => needs s.sendFree (noPoison xs (noVPoison vs (
    let va := (opnd xs 0).val + (opnd xs 1).val + disp s.cur.ent
    vaChecks va 4 (
      .done 1 (s.postStore (xs.map (·.val)) (some (vopnd vs 0).val) va (leBytes (vopnd vs 0).val.toNat 256)))))))))

/-- LPref (R325): no fault, even with a poisoned register. -/
def execLPref (g : Guard) (a b : BitVec 6) (s : State) : Host.Outcome State Fault Refusal :=
  issueWord true g s (fun s => withScalars [a, b] s (fun xs s =>
    let va := (opnd xs 0).val + (opnd xs 1).val + disp s.cur.ent
    if (firstPoison xs).isSome || va.extractLsb' 60 4 != 0 then .done 1 s
    else .done 1 (s.cacheLeaf s.cur.cell (s.vfOf s.cur.cell) (dieOf s.cur.cell) va.toNat)))

/-! ### Atomics (R103, R206, R287, R309) -/

/-- The data register of an atomic, and its sources after the address registers (R103). -/
def atomReg (j : BitVec 3) : BitVec 6 := 8 + j.zeroExtend 6

def atomSources (o j : BitVec 3) : List (BitVec 6) := if o = 4 then [atomReg j, atomReg j + 1] else [atomReg j]

/-- LGatom (R309). -/
def execLGatom (g : Guard) (o j : BitVec 3) (a c : BitVec 6) (s : State) : Host.Outcome State Fault Refusal :=
  issueWord true g s (fun s =>
    if o = 7 then faultW s Code.illegal
    else withScalars (a :: atomSources o j) s (fun xs s => needs s.landingFree (noPoison xs (
      let va := (opnd xs 0).val + disp s.cur.ent
      vaChecks va 8 (
        .done 1 (s.startOp (arrival c) (.timedS (atomReg j) none false) (fun p => { p with
          ops := xs.map (·.val), buf := .landing, addr := some va,
          req := some (.gatom o va.toNat (opnd xs 1).val (opnd xs 2).val) })).2))))) 

/-- The cell of an operation. -/
def State.cellOf (s : State) (id : Nat) : Option Nat := (s.cells.find? (fun e => e.2.ops.any (fun o => o.id == id))).map (·.1)

/-- An operation by its number, wherever it is, with its cell. -/
def State.findAny (s : State) (id : Nat) : Option (Nat × Op) :=
  match s.cellOf id with
  | some c => (s.findOp c id).map (fun o => (c, o))
  | none => none

/-- An atomic on a word of a VF's memory at its home controller: every write in flight has entered the atomic's die; the word's address and
old value, and home order with the new one (R287, R309, R375, R432). -/
def State.atomicHome (s : State) (agent : Option Nat) (vf die va : Nat) (f : Dword → Dword) :
    Except (Code × Dword) (Nat × Dword × State) := do
  let pg ← s.pages agent vf die va 8 .at
  let s ← s.installPages vf die va pg
  let pg ← s.pages agent vf die va 8 .at
  match paOf pg va with
  | none => .error (Code.page, BitVec.ofNat 64 va)
  | some pa =>
    if s.mem.poisoned pa then .error (Code.poison, BitVec.ofNat 64 va)
    else
      let s := s.catchUp die
      let old : Dword := s.homeWord pa
      return (pa, old, { s with mem := { s.mem with home := writeAll s.mem.home (writable (placed pa (leBytes (f old).toNat 8))) } })

/-- Another atomic on a word is between its home and its landing: the word's atomics land in home order (R287). -/
def State.wordHeld (s : State) (pa : Nat) : Bool := s.mem.turns.any (fun t => t.word == pa / 8 && (s.findAny t.op).isSome)

/-- An atomic of a die has its place in the home order of its word. -/
def State.takeTurn (s : State) (id die pa : Nat) (old : Dword) : State :=
  let l := s.mem.turns.filter (fun x => (s.findAny x.op).isSome)
  { s with mem := { s.mem with turns := l ++ [{ op := id, word := pa / 8, die := die, old := old }] } }

/-- GATOM_AT_HOME (R287): the atomic takes its old value and its place in home order; its write enters its own die when it lands. -/
def execGatomAtHome (i : Nat) (s : State) : Host.Outcome State Fault Refusal :=
  match s.findAny i with
  | some (c, o) =>
    (match o.req with
     | some (.gatom op va x y) =>
       match s.atomicHome (some c) (s.vfOf c) (dieOf c) va (fun w => atomicNew op w x y) with
       | .error e => .next (s.modOp c i (fun o => { o with req := none, err := some e }))
       | .ok (pa, old, t) =>
         if s.wordHeld pa then .next s
         else
           .next ((t.takeTurn i (dieOf c) pa old).modOp c i (fun o => { o with
             req := some (.gatomLand op pa x y),
             body := (match o.body with | .timedS d _ sp => .timedS d (some old) sp | b => b) }))
     | _ => .next s)
  | none => .next s

/-! ### Steps of device memory -/

/-- RDMA writes that are now performed at sys are acknowledged (R391). -/
def State.flushAcks (s : State) : State :=
  let done := s.acks.filter (fun (e : Nat × List Nat) => s.performed e.2)
  if done.isEmpty then s
  else { s with acks := s.acks.filter (fun (e : Nat × List Nat) => !s.performed e.2), out := s.out ++ done.map (fun e => Out.ack e.1) }

/-- WRITE_PROPAGATION (R286): a write enters another die's sequence, once the writes that precede it have. -/
def execWritePropagation (die i : Nat) (s : State) : Host.Outcome State Fault Refusal :=
  match s.mem.flight.find? (fun w => w.id == i) with
  | some w =>
    .next (if s.mem.canEnter die w then
      (let s : State := { s with mem := s.mem.enter die w }
       s.flushAcks) else s)
  | none => .next s

/-- DEMAND_ZERO_INSTALL (R320): the leaf of a VA that is demand-zero gets a frame; a write that meets it performs this same step. -/
def execDemandZeroInstall (vf va : Nat) (s : State) : Host.Outcome State Fault Refusal :=
  match s.walkLeaf vf 0 va with
  | .ok (a, leaf) =>
    if !demandZero leaf then .next s
    else
      match s.installZero vf 0 a leaf with
      | .ok s => .next s
      | .error _ => .next s
  | .error _ => .next s

/-- FRAME_RETURN (R319): a released frame joins the tail of the free list. -/
def execFrameReturn (vf : Nat) (s : State) : Host.Outcome State Fault Refusal :=
  match (s.vf vf).returning with
  | [] => .next s
  | f :: r => .next ((s.modVf vf (fun v => { v with returning := r })).freeFrame vf f)

end Sys2Proof.Machine
end

