-- ==== Sys2Proof/Machine/Scratch.lean ====
section
/-! DEFINITION. Scratchpads, handles and landings (R184 to R207): descriptors and layout, allotment, the checks of a handle, scratch loads,
stores, tile loads and atomics, PEER requests and their owners, and the steps that free handles. -/

namespace Sys2Proof.Machine

open Sys2Proof

/-! ### Descriptors and layout (R190 to R193) -/

def tdLvl (d : Dword) : Nat := (d.extractLsb' 62 2).toNat
def tdFmt (d : Dword) : Nat := (d.extractLsb' 58 4).toNat
def tdPl (d : Dword) : Nat := (d.extractLsb' 55 3).toNat
def tdSc (d : Dword) : Bool := d.getLsbD 54
def tdBd (d : Dword) : Bool := d.getLsbD 53
def tdCons (d : Dword) : Nat := (d.extractLsb' 48 5).toNat
def tdWv (d : Dword) : Bool := d.getLsbD 47
def tdWin (d : Dword) : Nat := (d.extractLsb' 44 3).toNat
def tdArr (d : Dword) : BitVec 6 := d.extractLsb' 38 6
def tdRb (d : Dword) : Nat := (d.extractLsb' 12 16).toNat + 1
def tdRows (d : Dword) : Nat := (d.extractLsb' 0 12).toNat + 1

/-- a / b rounded up. -/
def ceilDiv (a b : Nat) : Nat := (a + b - 1) / b

/-- The row pitch in lines: the smallest odd number of lines that holds a row (R192). -/
def tdPitch (d : Dword) : Nat := let l := ceilDiv (tdRb d) 64; if l % 2 = 1 then l else l + 1

/-- 64-element blocks of a row (R193). -/
def tdBlocks (d : Dword) : Nat :=
  if tdFmt d = 5 then tdRb d / (8 * (tdPl d + 1)) else ceilDiv (tdRb d / elemBytes (tdFmt d)) 64

/-- A scale area follows the data (R193). -/
def tdScaled (d : Dword) : Bool := tdFmt d == 5 || tdSc d

def tdScaleBytes (d : Dword) : Nat := if tdScaled d then tdRows d * tdBlocks d else 0
def tdBoundBytes (d : Dword) : Nat := if tdBd d then 4 * ceilDiv (tdRows d) 64 * tdBlocks d else 0
def tdScaleOff (d : Dword) : Nat := tdRows d * tdRb d
def tdBoundOff (d : Dword) : Nat := tdScaleOff d + ceilDiv (tdScaleBytes d) 64 * 64

/-- The addressable size (R193). -/
def tdSize (d : Dword) : Nat := if tdBd d then tdBoundOff d + tdBoundBytes d else tdScaleOff d + tdScaleBytes d

/-- Lines of every area (R193). -/
def tdLines (d : Dword) : Nat := tdRows d * tdPitch d + ceilDiv (tdScaleBytes d) 64 + ceilDiv (tdBoundBytes d) 64

/-- The linear line and byte of a logical offset, and how many bytes from there lie in the same line (R192, R193). -/
def locate (d : Dword) (o : Nat) : Nat × Nat × Nat :=
  if o < tdScaleOff d then
    let b := o % tdRb d
    (o / tdRb d * tdPitch d + b / 64, b % 64, min (64 - b % 64) (tdRb d - b))
  else if o < tdBoundOff d then
    let t := o - tdScaleOff d
    (tdRows d * tdPitch d + t / 64, t % 64, 64 - t % 64)
  else
    let t := o - tdBoundOff d
    (tdRows d * tdPitch d + (tdBoundOff d - tdScaleOff d) / 64 + t / 64, t % 64, 64 - t % 64)

/-- The parts of n bytes from offset o in storage that starts at byte base; the first has place pos. -/
def segs (d : Dword) (base : Nat) : Nat → Nat → Nat → Nat → List Part
  | 0, _, _, _ => []
  | f + 1, o, n, pos =>
    if n = 0 then []
    else
      let (line, b, room) := locate d o
      let k := min room n
      { addr := base + 64 * line + b, len := k, pos := pos } :: segs d base f (o + k) (n - k) (pos + k)

/-- The parts of an access to n bytes at offset o. -/
def partsOf (d : Dword) (base o n : Nat) : List Part := segs d base n o n 0

/-- The groups of 32 linear lines of an access, in ascending order (R203). -/
def groupParts (ps : List Part) : List (List Part) :=
  match ps with
  | [] => []
  | p :: _ =>
    let first := p.addr / 64
    let last := (ps.getLast?.getD p).addr / 64
    (upto ((last - first) / 32 + 1)).map (fun k => ps.filter (fun x => (x.addr / 64 - first) / 32 == k))

/-- A descriptor is valid (R191). -/
def descOk (d : Dword) : Bool :=
  let f := tdFmt d
  tdLvl d != 3 && d.extractLsb' 28 10 == 0 && (tdLvl d == 1 || tdCons d == 0) &&
  (tdLvl d == 2 || (!tdWv d && tdWin d == 0 && tdArr d == 0)) &&
  decide (f ≤ 11) && (f != 11 || tdLvl d == 0) && (if f = 5 then tdPl d != 0 else tdPl d == 0) &&
  (!tdSc d || f == 3 || f == 4) &&
  tdRb d % (if f = 5 then 8 * (tdPl d + 1) else elemBytes f) == 0 &&
  (tdLvl d != 1 || decide (tdLines d ≤ 1024))

/-! ### Handles (R188, R189) -/

def hdGen (h : Dword) : BitVec 8 := h.extractLsb' 24 8
def hdCell (h : Dword) : Nat := (h.extractLsb' 17 7).toNat
def hdLvl (h : Dword) : Nat := (h.extractLsb' 15 2).toNat
def hdIdx (h : Dword) : Nat := (h.extractLsb' 0 9).toNat
def hdReserved (h : Dword) : Bool := h.extractLsb' 32 32 != 0 || h.extractLsb' 9 6 != 0

/-- The value of a handle (R188). -/
def handleVal (gen : BitVec 8) (cell lvl idx : Nat) : Dword := BitVec.ofNat 64 (gen.toNat * 2 ^ 24 + cell * 2 ^ 17 + lvl * 2 ^ 15 + idx)

def Cell.entry (x : Cell) (i : Nat) : TEntry := tget {} x.table i

def Cell.modEntry (x : Cell) (i : Nat) (f : TEntry → TEntry) : Cell := { x with table := tset {} x.table i (f (x.entry i)) }

def State.bh (s : State) (b : Nat) : Bh := tget {} s.bhs b

def State.modBh (s : State) (b : Nat) (f : Bh → Bh) : State := { s with bhs := tput b (f (s.bh b)) s.bhs }

def State.landing (s : State) (b n : Nat) : Landing := tget {} (s.bh b).landings n

def State.modLanding (s : State) (b n : Nat) (f : Landing → Landing) : State :=
  s.modBh b (fun x => { x with landings := tset {} x.landings n (f (tget {} x.landings n)) })

/-- A SCRATCH or PEER handle names an entry of a cell in use (R189). The level of the entry is not asked for: a stale handle reaches what the
entry holds now. -/
def Cell.liveEntry (x : Cell) (c : Nat) (h : Dword) : Bool :=
  let e := x.entry (hdIdx h)
  !hdReserved h && hdCell h == c && e.used && e.gen == hdGen h

/-- A SCRATCH or PEER handle names an entry of a cell that takes accesses (R189, R200). -/
def Cell.checkEntry (x : Cell) (c : Nat) (h : Dword) : Bool := x.liveEntry c h && !(x.entry (hdIdx h)).refused

/-- A SCRATCH handle of a cell. DESIGN CHOICE (log entry 42): a stale one that reaches a PEER entry, which has no storage, is HANDLE where
storage is asked for. -/
def State.scratchHandle (s : State) (c : Nat) (h : Dword) : Option TEntry :=
  let e := (s.cell c).entry (hdIdx h)
  if hdLvl h == 0 && (s.cell c).checkEntry c h && tdLvl e.desc == 0 then some e else none

/-- A SCRATCH or PEER handle of a cell. -/
def State.cellHandle (s : State) (c : Nat) (h : Dword) : Option TEntry :=
  if (hdLvl h == 0 || hdLvl h == 2) && (s.cell c).checkEntry c h then some ((s.cell c).entry (hdIdx h)) else none

/-- A LANDING handle names a landing of a cell's bulkhead in use (R189). -/
def State.liveLanding (s : State) (c : Nat) (h : Dword) : Bool :=
  let l := s.landing (bhOf c) (hdIdx h)
  !hdReserved h && hdLvl h == 1 && bhOf (hdCell h) == bhOf c && l.used && l.gen == hdGen h

/-- A LANDING handle that a cell may use (R189, R200). -/
def State.landHandle (s : State) (c : Nat) (h : Dword) : Option Landing :=
  let l := s.landing (bhOf c) (hdIdx h)
  if s.liveLanding c h && !l.refused then some l else none

/-- The first byte of a SCRATCH entry's storage. -/
def TEntry.base (e : TEntry) : Nat := e.stripe * 2048

/-! ### Windows (R197, R381, R382) -/

def wnValid (w : Dword) : Bool := w.getLsbD 63
def wnAtomic (w : Dword) : Bool := w.getLsbD 62
def wnVf (w : Dword) : Nat := (w.extractLsb' 25 7).toNat
def wnCell (w : Dword) : Nat := (w.extractLsb' 18 7).toNat
def wnHi (w : Dword) : Nat := (w.extractLsb' 9 9).toNat
def wnLo (w : Dword) : Nat := (w.extractLsb' 0 9).toNat

/-- The kinds of access through a PEER handle. -/
inductive PAcc where
  | load | store | atomic | barrier | look
  deriving DecidableEq, Repr

/-- A window still serves a PEER handle, and the kind that the entry records admits the access (R197, R304, R382). -/
def State.windowOk (s : State) (p : Peer) (a : PAcc) : Bool :=
  match p.win with
  | none => true
  | some (b, n, w) =>
    let now : Dword := tget 0 (s.bh b).windows n
    wnValid now && wnVf now == wnVf w && wnCell now == wnCell w && wnHi now == wnHi w && wnLo now == wnLo w &&
    (match a with
     | .load => !wnAtomic w
     | .store => false
     | .atomic => wnAtomic w
     | .barrier => wnAtomic w
     | .look => true)

/-! ### Scratch bytes -/

/-- Bytes are written to a scratchpad: a word written whole loses its poison (R187); the stripe becomes dirty (R413). -/
def Cell.writeBytes (x : Cell) (a : Nat) (l : List Byte) : Cell :=
  let pl := placed a l
  { x with scratch := writeAll x.scratch pl,
           spoison := x.spoison.filter (fun e => !(decide (a ≤ 8 * e.1) && decide (8 * e.1 + 8 ≤ a + l.length))),
           dirty := (span (a / 2048) ((a + l.length - 1) / 2048 - a / 2048 + 1)).foldl (fun d q => tset false d q true) x.dirty }

def Landing.writeBytes (x : Landing) (a : Nat) (l : List Byte) : Landing :=
  { x with bytes := writeAll x.bytes (placed a l), dirty := true,
           poison := x.poison.filter (fun e => !(decide (a ≤ 8 * e.1) && decide (8 * e.1 + 8 ≤ a + l.length))) }

/-- The bank of a part (R184). -/
def Part.bank (p : Part) : Nat := p.addr / 64 % 32

/-- The fill port of every bank that parts lie in is free in a cycle of the device's clock (R185). -/
def fillFree (fill : Table Nat) (t : Nat) (ps : List Part) : Bool := fill.isEmpty || ps.all (fun p => decide (tget 0 fill p.bank ≤ t))

/-- The parts whose lines a fill port takes in a cycle, those that stay, and the port after: one line per bank every 2 cc, in the order of the
list (R185, R186). lines are those that it has taken in this cycle. -/
def fillMove (t : Nat) : Table Nat → List Nat → List Part → List Part × List Part × Table Nat
  | fill, _, [] => ([], [], fill)
  | fill, lines, p :: r =>
    let line := p.addr / 64
    if lines.contains line then
      let (a, b, f) := fillMove t fill lines r
      (p :: a, b, f)
    else if tget 0 fill p.bank ≤ t then
      let (a, b, f) := fillMove t (tset 0 fill p.bank (t + 2)) (line :: lines) r
      (p :: a, b, f)
    else ([], p :: r, fill)

/-- The fill port moves the lines of parts: one line per bank every 2 cc (R185). -/
def fillTake (fill : Table Nat) (t : Nat) (ps : List Part) : Table Nat :=
  ((ps.map (fun p => p.addr / 64)).eraseDups).foldl (fun f m => tset 0 f (m % 32) (max t (tget 0 f (m % 32)) + 2)) fill

/-- A part touches a poisoned word. -/
def partPoisoned (t : Table Bool) (p : Part) : Bool :=
  !t.isEmpty && p.len != 0 && (span (p.addr / 8) ((p.addr + p.len - 1) / 8 - p.addr / 8 + 1)).any (fun w => tget false t w)

/-- The bytes of parts, in their places. -/
def gather (t : Table Byte) (ps : List Part) (got : Table Byte) : Table Byte :=
  ps.foldl (fun g p => writeAll g (placed p.pos (bytesAt t p.addr p.len))) got

/-- n bytes at offset o of an entry, at once. -/
def Cell.entryBytes (x : Cell) (e : TEntry) (o n : Nat) : List Byte :=
  bytesAt (gather x.scratch (partsOf e.desc e.base o n) []) 0 n

/-- n bytes at offset o of an entry include a poisoned word. -/
def Cell.entryPoisoned (x : Cell) (e : TEntry) (o n : Nat) : Bool := (partsOf e.desc e.base o n).any (partPoisoned x.spoison)

/-- Bytes written at offset o of an entry, at once. -/
def Cell.entryWrite (x : Cell) (e : TEntry) (o : Nat) (l : List Byte) : Cell :=
  (partsOf e.desc e.base o l.length).foldl (fun y p => y.writeBytes p.addr ((l.drop p.pos).take p.len)) x

/-! ### Allotment (R194 to R199) -/

/-- The runs of stripes in use. -/
def Cell.usedRuns (x : Cell) : List (Nat × Nat) := (x.table.filter (fun e => e.2.used && e.2.stripes != 0)).map (fun e => (e.2.stripe, e.2.stripes))

/-- A run of n stripes from q is free. -/
def runFree (used : List (Nat × Nat)) (q n : Nat) : Bool :=
  decide (q + n ≤ 3072) && used.all (fun u => decide (u.1 + u.2 ≤ q) || decide (q + n ≤ u.1))

/-- The lowest-addressed run of n free stripes: it starts at stripe 0 or where another run ends (R194). -/
def lowestRun (used : List (Nat × Nat)) (n : Nat) : Option Nat :=
  (sortBy (fun a b => decide (a < b)) (0 :: used.map (fun u => u.1 + u.2))).find? (fun q => runFree used q n)

/-- The longest run of free stripes (R201). -/
def longestRun (used : List (Nat × Nat)) : Nat :=
  let starts := 0 :: used.map (fun u => u.1 + u.2)
  let room (q : Nat) : Nat :=
    if used.any (fun u => decide (u.1 ≤ q) && decide (q < u.1 + u.2)) then 0
    else (used.filter (fun u => decide (q ≤ u.1))).foldl (fun m u => min m (u.1 - q)) (3072 - q)
  starts.foldl (fun m q => max m (room q)) 0

/-- The lowest free entry index below n. -/
def lowestFree (n : Nat) (used : Nat → Bool) : Option Nat := (upto n).find? (fun i => !used i)

/-- The target of a PEER descriptor (R197): the window recorded, or the fault of l.hnew. -/
def State.peerTarget (s : State) (c : Nat) (d h : Dword) : Except Code Peer :=
  if hdLvl h != 0 then .error Code.handle
  else if s.inShape (s.vfOf c) (hdCell h) then (if tdWv d then .error Code.handle else .ok { target := h })
  else
    let w : Dword := tget 0 (s.bh (bhOf c)).windows (tdWin d)
    if tdWv d && wnValid w && wnCell w == hdCell h && decide (wnLo w ≤ hdIdx h) && decide (hdIdx h ≤ wnHi w) then
      .ok { target := h, win := some (bhOf c, tdWin d, w) }
    else .error Code.window

/-- The allotment of l.hnew (R194, R195, R199): the handle, or the failed handle. -/
def State.allot (s : State) (c : Nat) (d : Dword) (p : Peer) (launch : Option Nat) : Option Dword × State :=
  if tdLvl d = 1 then
    match lowestFree 32 (fun n => (s.landing (bhOf c) n).used) with
    | none => (none, s)
    | some n =>
      let l := s.landing (bhOf c) n
      (some (handleVal l.gen c 1 n),
       s.modLanding (bhOf c) n (fun l => { l with used := true, desc := d, cons := tdCons d, refused := false, launch := launch }))
  else
    let x := s.cell c
    match lowestFree 512 (fun i => (x.entry i).used) with
    | none => (none, s)
    | some i =>
      let n := if tdLvl d = 0 then ceilDiv (tdLines d) 32 else 0
      match (if n = 0 then some 0 else lowestRun x.usedRuns n) with
      | none => (none, s)
      | some q =>
        (some (handleVal (x.entry i).gen c (tdLvl d) i),
         s.modCell c (fun x => x.modEntry i (fun e =>
           { e with used := true, desc := d, peer := p, stripe := q, stripes := n, refused := false, launch := launch })))

/-- LHnew (R199). s_D is a source too when the descriptor is of level PEER. -/
def execLHnew (g : Guard) (d a : BitVec 6) (p : BitVec 3) (s : State) : Host.Outcome State Fault Refusal :=
  issueWord false g s (fun s =>
    let srcs := if tdLvl (s.me.readS a).val = 2 then [a, d] else [a]
    if isQ a && (s.me.queue (qOf a)).isEmpty then .hold true
    else withScalars srcs s (fun xs s => roomFor d s (noPoison xs (
      let desc := (opnd xs 0).val
      if !descOk desc then .fault Code.handle 0
      else
        match (if tdLvl desc = 2 then s.peerTarget s.cur.cell desc (opnd xs 1).val else .ok {}) with
        | .error e => if e = Code.window then faultW s Code.window else .fault e 0
        | .ok peer =>
          let (h, s) := s.allot s.cur.cell desc peer s.me.launch
          .done 2 ((s.result 4 (.s d { val := h.getD (BitVec.allOnes 64) })).result 4 (.p p h.isSome))))))

/-- LHinfo (R201). -/
def execLHinfo (g : Guard) (d a i : BitVec 6) (s : State) : Host.Outcome State Fault Refusal :=
  issueWord false g s (fun s =>
    let x := s.here
    let c := s.cur.cell
    if 3 ≤ i.toNat ∧ i.toNat < 8 ∨ 12 ≤ i.toNat ∨ (8 ≤ i.toNat ∧ a ≠ 0) then faultW s Code.illegal
    else if 8 ≤ i.toNat then
      roomFor d s (.done 1 (s.result 2 (.s d { val := BitVec.ofNat 64 (match i.toNat with
        | 8 => 512 - (x.table.filter (fun e => e.2.used)).length
        | 9 => (3072 - x.usedRuns.foldl (fun n u => n + u.2) 0) * 2048
        | 10 => longestRun x.usedRuns * 2048
        | _ => 32 - ((s.bh (bhOf c)).landings.filter (fun e => e.2.used)).length) })))
    else withScalars [a] s (fun xs s => roomFor d s (noPoison xs (
      let h := (opnd xs 0).val
      let give (v : Dword) : Issue := .done 1 (s.result 2 (.s d { val := v }))
      match s.landHandle c h with
      | some l =>
        give (match i.toNat with
          | 0 => (l.desc &&& ~~~((0x1F : Dword) <<< 48)) ||| ((BitVec.ofNat 64 l.cons : Dword) <<< 48)
          | 1 => 65536
          | _ => 0)
      | none =>
        match s.cellHandle c h with
        | some e => give (match i.toNat with | 0 => e.desc | 1 => BitVec.ofNat 64 (e.stripes * 2048) | _ => e.peer.target)
        | none => .fault Code.handle 0))))

/-! ### Freeing (R196, R200, R207) -/

/-- A step in flight of a chain task reads a landing (R247, R257). -/
def TaskRun.reads (r : TaskRun) (b n : Nat) : Bool :=
  match r.chain with
  | some ch => ch.steps.any (fun st => st.key.land == some (b, n) || st.val.land == some (b, n))
  | none => false

/-- An operation of any cell, or a step of a chain task, uses a handle, other than the word that frees it. -/
def State.inUse (s : State) (u : HUse) : Bool :=
  s.cells.any (fun e => e.2.ops.any (fun o => o.uses.contains u)) ||
  (match u with
   | .landing b n => s.vfs.any (fun v => v.2.tasks.any (fun t => match t.2.run with | some r => r.reads b n | none => false))
   | _ => false)

/-- An l.barw of a cell waits on an entry: its object's, or the PEER entry of its own cell that it named. -/
def Op.waitsOn (o : Op) (at' c idx : Nat) : Bool :=
  match o.body with
  | .barWait wc wi _ _ _ _ _ _ => (wc == c && wi == idx) || (at' == c && hdIdx (o.ops.getD 0 0) == idx)
  | _ => false

/-- The waits of l.barw on an entry fault with HANDLE when it is freed (R306). -/
def State.failWaits (s : State) (c idx : Nat) : State :=
  s.cells.foldl (fun x e => (e.2.ops.filter (fun o => o.waitsOn e.1 c idx)).foldl
    (fun y o => y.lateFault e.1 o Code.handle (o.addr.getD 0)) x) s

/-- An entry is freed: its generation advances (R189, R200). -/
def State.freeEntry (s : State) (c idx : Nat) : State :=
  (s.modCell c (fun x => x.modEntry idx (fun e => { gen := e.gen + 1 }))).failWaits c idx

/-- A landing is freed. -/
def State.freeLanding (s : State) (b n : Nat) : State :=
  s.modLanding b n (fun l => { l with used := false, gen := l.gen + 1, desc := 0, cons := 0, refused := false, launch := none })

/-- The word that waits to free a handle, in any cell. -/
def State.freeing (s : State) (u : HUse) : Option (Nat × Op) :=
  s.cells.findSome? (fun e => (e.2.ops.find? (fun o => match o.body with | .hfree v => v == u | _ => false)).map (fun o => (e.1, o)))

/-- The earliest cycle of the device's clock in which a handle that refuses accesses may be freed. -/
def State.freeAt (s : State) (u : HUse) : Nat :=
  match u with
  | .scratch c i => ((s.cell c).entry i).freeAt
  | .landing b n => (s.landing b n).freeAt

def State.freeFrom (s : State) (u : HUse) (t : Nat) : State :=
  match u with
  | .scratch c i => s.modCell c (fun x => x.modEntry i (fun e => { e with freeAt := t }))
  | .landing b n => s.modLanding b n (fun l => { l with freeAt := t })

/-- A handle refuses every access from now on; it is freed in the next cycle at the earliest (R200). -/
def State.refuseUse (s : State) (u : HUse) : State :=
  match u with
  | .scratch c i => s.modCell c (fun x => x.modEntry i (fun e => { e with refused := true, freeAt := s.cyc + 1 }))
  | .landing b n => s.modLanding b n (fun l => { l with refused := true, freeAt := s.cyc + 1 })

/-- The free of a refused handle, when its accesses have ended: in the cycle after the last of them; L is occupied for that cycle by the
word that waits for it (R200). -/
def State.tryFree (s : State) (u : HUse) (free : State → State) : State :=
  match s.freeing u with
  | some (c, o) =>
    if s.inUse u then s.modOp c o.id (fun p => { p with due := (s.cell c).time + 2 })
    else if (s.cell c).time < o.due then s
    else ((free s).endOp c o.id).modCell c (fun x => { x with busy := tput engL (max (tget 0 x.busy engL) (x.time + 1)) x.busy })
  | none => if s.inUse u then s.freeFrom u (s.cyc + 2) else if s.cyc < s.freeAt u then s else free s

/-- HANDLE_FREE (R200): an entry, or with idx ≥ 512 landing idx − 512 of the cell's bulkhead. -/
def execHandleFree (c idx : Nat) (s : State) : Host.Outcome State Fault Refusal :=
  if idx < 512 then
    if ((s.cell c).entry idx).refused then .next (s.tryFree (.scratch c idx) (fun s => s.freeEntry c idx)) else .next s
  else
    let n := idx - 512
    if (s.landing (bhOf c) n).refused then .next (s.tryFree (.landing (bhOf c) n) (fun s => s.freeLanding (bhOf c) n)) else .next s

/-- LANDING_AUTO_FREE (R207): the last declared consumer has completed. -/
def execLandingAutoFree (b n : Nat) (s : State) : Host.Outcome State Fault Refusal :=
  let l := s.landing b n
  if l.refused && (s.freeing (.landing b n)).isNone then .next (s.tryFree (.landing b n) (fun s => s.freeLanding b n)) else .next s

/-- A consumer of a landing completes (R207): the last declared one makes it refuse accesses. -/
def State.consume (s : State) (b n : Nat) : State :=
  let l := s.landing b n
  if l.used && tdCons l.desc != 0 && l.cons != 0 then
    let s := s.modLanding b n (fun l => { l with cons := l.cons - 1 })
    if l.cons == 1 && !l.refused then s.refuseUse (.landing b n) else s
  else s

/-- The issue of l.hfree or l.rel: the handle refuses accesses from now on, and L holds the word until it is free; L's 1 cc comes after the
hold (R200). -/
def freeWord (g : Guard) (a : BitVec 6) (s : State) (use : State → Dword → Option HUse) : Host.Outcome State Fault Refusal :=
  issueWord false g s (fun s => withScalars [a] s (fun xs s => noPoison xs (
    match use s (opnd xs 0).val with
    | none => .fault Code.handle 0
    | some u =>
      let s := s.refuseUse u
      .done 0 (s.startOp (if s.inUse u then 2 else 1) (.hfree u) (fun o => { o with holds := .l })).2)))

/-- LHfree (R200). -/
def execLHfree (g : Guard) (a : BitVec 6) (s : State) : Host.Outcome State Fault Refusal :=
  freeWord g a s (fun s h => (s.cellHandle s.cur.cell h).map (fun _ => .scratch s.cur.cell (hdIdx h)))

/-- LRel (R200). -/
def execLRel (g : Guard) (a : BitVec 6) (s : State) : Host.Outcome State Fault Refusal :=
  freeWord g a s (fun s h => (s.landHandle s.cur.cell h).map (fun _ => .landing (bhOf s.cur.cell) (hdIdx h)))

/-! ### Loads and stores (R202 to R204) -/

/-- The checks of R202 on a SCRATCH or PEER access. -/
def withAccess (s : State) (h o : Dword) (size align : Nat) (k : TEntry → Issue) : Issue :=
  match s.cellHandle s.cur.cell h with
  | none => .fault Code.handle o
  | some e =>
    if o.toNat % align != 0 then .fault Code.align o
    else if o.toInt < 0 ∨ tdSize e.desc < o.toNat + size then .fault Code.bounds o
    else k e

/-- A word whose handle is a PEER's is held until a buffer entry is free, before its checks (R93, R198). -/
def needsPeer (s : State) (h : Sval) (b : Bool) (k : Issue) : Issue :=
  match s.cellHandle s.cur.cell h.val with
  | some e => needs (b || h.tag.isSome || tdLvl e.desc != 2) k
  | none => k

/-- A PEER access passes its window at issue, else WINDOW (R197, R382). -/
def withWindow (s : State) (e : TEntry) (a : PAcc) (k : Issue) : Issue :=
  if s.windowOk e.peer a then k else faultW s Code.window

/-- The effective offset of a MEM word (R202). -/
def offsetOf (s : State) (xs : List Sval) : Dword := (opnd xs 1).val + disp s.cur.ent

/-- A load of n bytes from a SCRATCH or PEER handle. -/
def scratchLoad (s : State) (xs : List Sval) (n align : Nat) (dst : LDst) (timed : OpBody) : Issue :=
  let h := (opnd xs 0).val
  let o := offsetOf s xs
  needsPeer s (opnd xs 0) s.landingFree (noPoison xs (withAccess s h o n align (fun e =>
    if tdLvl e.desc = 0 then
      let gs := groupParts (partsOf e.desc e.base o.toNat n)
      .done gs.length (s.startOp (3 + gs.length) (.sload dst none gs [] none) (fun p => { p with
        ops := xs.map (·.val), addr := some o, uses := [.scratch s.cur.cell (hdIdx h)] })).2
    else withWindow s e .load (
      .done 1 (s.startOp (arrival (tdArr e.desc)) timed (fun p => { p with
        ops := xs.map (·.val), addr := some o, buf := .landing, uses := [.scratch s.cur.cell (hdIdx h)],
        req := some (.peerRead e.peer [(o.toNat, n)] none) })).2))))

/-- LLds (R203). -/
def execLLds (g : Guard) (d a b : BitVec 6) (s : State) : Host.Outcome State Fault Refusal :=
  issueWord true g s (fun s => withScalars [a, b] s (fun xs s => roomFor d s
    (scratchLoad s xs 8 8 (.s d) (.timedS d none false))))

/-- LLdvs (R203). -/
def execLLdvs (g : Guard) (d : BitVec 5) (a b : BitVec 6) (s : State) : Host.Outcome State Fault Refusal :=
  issueWord true g s (fun s =>
    if isY d then faultW s Code.illegal
    else withScalars [a, b] s (fun xs s => scratchLoad s xs 256 4 (.v d) (.timedV d none false)))

/-- Parts that carry the bytes to write. -/
def withData (ps : List Part) (l : List Byte) : List Part := ps.map (fun p => { p with data := (l.drop p.pos).take p.len })

/-- A store of bytes through a SCRATCH or PEER handle. -/
def scratchStore (s : State) (xs : List Sval) (vec : Option Vreg) (l : List Byte) (align : Nat) : Issue :=
  let h := (opnd xs 0).val
  let o := offsetOf s xs
  needsPeer s (opnd xs 0) s.sendFree (noPoison xs (noVPoison vec.toList (withAccess s h o l.length align (fun e =>
    if tdLvl e.desc = 0 then
      let gs := groupParts (withData (partsOf e.desc e.base o.toNat l.length) l)
      .done gs.length (s.startOp (1 + gs.length) (.sstore gs) (fun p => { p with
        ops := xs.map (·.val), vec := vec.map (·.val), addr := some o, uses := [.scratch s.cur.cell (hdIdx h)] })).2
    else withWindow s e .store (
      .done 1 (s.startOp 64 .store (fun p => { p with
        ops := xs.map (·.val), vec := vec.map (·.val), addr := some o, buf := .send, uses := [.scratch s.cur.cell (hdIdx h)],
        req := some (.peerWrite e.peer o.toNat l) })).2)))))

/-- LSts (R203). -/
def execLSts (g : Guard) (d a b : BitVec 6) (s : State) : Host.Outcome State Fault Refusal :=
  issueWord true g s (fun s => withScalars [a, b, d] s (fun xs s => scratchStore s xs none (le8 (opnd xs 2).val) 8))

/-- LStvs (R203). -/
def execLStvs (g : Guard) (d : BitVec 5) (a b : BitVec 6) (s : State) : Host.Outcome State Fault Refusal :=
  issueWord true g s (fun s => withScalars [a, b] s (fun xs s => withVectors [d] s (fun vs s =>
    scratchStore s xs (some (vopnd vs 0)) (leBytes (vopnd vs 0).val.toNat 256) 4)))

/-- The shape of a tile load from a handle (R204, R205). -/
def tileGeo (d : Dword) (col bt : Bool) : TileGeo :=
  { fmt := BitVec.ofNat 4 (tdFmt d), pl := BitVec.ofNat 3 (tdPl d), w := blockBytes (tdFmt d) (tdPl d + 1), e := elemBytes (tdFmt d),
    col := col, sc := tdScaled d, bt := bt }

/-- The ranges that a tile load at offset o reads: 64 rows, their scales, the bound (R205). -/
def tileRanges (d : Dword) (g : TileGeo) (o : Nat) : List (Nat × Nat) :=
  let row0 := o / tdRb d
  let cb := o % tdRb d
  (upto 64).map (fun r => ((row0 + r) * tdRb d + cb, g.w)) ++
  (if g.sc then (upto 64).map (fun r => (tdScaleOff d + (row0 + r) * tdBlocks d + cb / g.w, 1)) else []) ++
  (if g.bt then [(tdBoundOff d + 4 * (row0 / 64 * tdBlocks d + cb / g.w), 4)] else [])

/-- The place in the bytes of a load where each range goes: scales after the rows, the bound after room for scales. -/
def tilePlaces (g : TileGeo) : List Nat :=
  (upto 64).map (fun r => r * g.w) ++ (if g.sc then (upto 64).map (fun r => 64 * g.w + r) else []) ++ (if g.bt then [64 * g.w + 64] else [])

/-- The groups of a local tile load in ascending order: 32 rows of one line-column at a time, then scales and bound (R186, R204). -/
def tileGroups (d : Dword) (base : Nat) (g : TileGeo) (o : Nat) : List (List Part) :=
  let rs := (tileRanges d g o).zip (tilePlaces g)
  let parts (x : (Nat × Nat) × Nat) : List Part := (partsOf d base x.1.1 x.1.2).map (fun p => { p with pos := p.pos + x.2 })
  let rows := (rs.take 64).map parts
  let cols := max 1 ((rows.map (·.length)).foldl max 0)
  let half (lo : Nat) (k : Nat) : List Part := ((rows.drop lo).take 32).flatMap (fun r => (r.drop k).take 1)
  ([0, 32].flatMap (fun lo => (upto cols).map (half lo))) ++ (if g.sc || g.bt then [(rs.drop 64).flatMap parts] else [])

/-- The checks of a tile load on its descriptor (R204). DESIGN CHOICE (log entry 69): the remainder of a negative offset is taken modulo 2^64
first, which decides ALIGN against BOUNDS. -/
def tileChecks (s : State) (d : Dword) (g : TileGeo) (o : Dword) (k : Issue) : Issue :=
  let row0 := o.toNat / tdRb d
  let cb := o.toNat % tdRb d
  if tdFmt d = 0 ∨ tdFmt d = 8 ∨ tdFmt d = 11 ∨ (g.col ∧ g.sc) then faultW s Code.illegal
  else if cb % g.w != 0 || (g.bt && row0 % 64 != 0) then .fault Code.align o
  else if o.toInt < 0 ∨ tdRows d ≤ row0 + 63 ∨ tdRb d < cb + g.w ∨ (g.bt ∧ ¬tdBd d) then .fault Code.bounds o
  else k

/-- The register of a tile load becomes loading (R212). -/
def State.setLoading (s : State) (t : Nat) : State := s.modHere (fun x => x.setTile t { x.tile t with st := .loading })

/-- LLdt (R204). -/
def execLLdt (g : Guard) (k c : Bool) (d : BitVec 4) (a b : BitVec 6) (s : State) : Host.Outcome State Fault Refusal :=
  issueWord true g s (fun s => needs ((s.here.tile d.toNat).st == .empty) (withScalars [a, b] s (fun xs s =>
    needsPeer s (opnd xs 0) s.landingFree (noPoison xs (
    let h := (opnd xs 0).val
    let o := offsetOf s xs
    match s.cellHandle s.cur.cell h with
    | none => .fault Code.handle o
    | some e =>
      let geo := tileGeo e.desc c k
      tileChecks s e.desc geo o (
        if tdLvl e.desc = 0 then
          let gs := tileGroups e.desc e.base geo o.toNat
          .done gs.length ((s.startOp (4 + gs.length) (.sload (.t d.toNat geo) none gs [] none) (fun p => { p with
            ops := xs.map (·.val), addr := some o, uses := [.scratch s.cur.cell (hdIdx h)] })).2.setLoading d.toNat)
        else withWindow s e .load (
          .done 1 ((s.startOp (arrival (tdArr e.desc)) (.timedT d.toNat none false) (fun p => { p with
            ops := xs.map (·.val), addr := some o, buf := .landing, uses := [.scratch s.cur.cell (hdIdx h)],
            req := some (.peerRead e.peer (tileRanges e.desc geo o.toNat) (some geo)) })).2.setLoading d.toNat))))))))

/-- LLdl (R204). -/
def execLLdl (g : Guard) (k c : Bool) (d : BitVec 4) (a b : BitVec 6) (s : State) : Host.Outcome State Fault Refusal :=
  issueWord true g s (fun s => needs ((s.here.tile d.toNat).st == .empty) (withScalars [a, b] s (fun xs s => noPoison xs (
    let h := (opnd xs 0).val
    let o := offsetOf s xs
    match s.landHandle s.cur.cell h with
    | none => .fault Code.handle o
    | some l =>
      let geo := tileGeo l.desc c k
      tileChecks s l.desc geo o (
        let gs := tileGroups l.desc 0 geo o.toNat
        .done gs.length ((s.startOp (4 + gs.length) (.sload (.t d.toNat geo) (some (hdIdx h)) gs [] none) (fun p => { p with
          ops := xs.map (·.val), addr := some o, uses := [.landing (bhOf s.cur.cell) (hdIdx h)] })).2.setLoading d.toNat))))))

/-- TILE_LOAD_COMPLETE (R204, R205): the register becomes full; a poisoned word faults and leaves it empty (R187, R212). -/
def execTileLoadComplete (c id : Nat) (s : State) : Host.Outcome State Fault Refusal :=
  match s.findOp c id with
  | some o =>
    (match o.body with
     | .sload (.t t geo) _ [] got bad =>
       if (s.cell c).time < o.due then .next s
       else
         match bad with
         | some _ => .next ((s.modCell c (fun x => x.emptyTile t)).lateFault c o Code.poison (o.addr.getD 0))
         | none => .next ((s.modCell c (fun x => x.setTile t (fillTile geo (bytesAt got 0 (64 * geo.w + 68))))).endOp c id)
     | _ => .next s)
  | none => .next s

/-! ### Scratch atomics (R206) -/

/-- LAtom (R206): SCRATCH handles only. -/
def execLAtom (g : Guard) (o j : BitVec 3) (a b : BitVec 6) (s : State) : Host.Outcome State Fault Refusal :=
  issueWord true g s (fun s =>
    if o = 7 then faultW s Code.illegal
    else withScalars (a :: b :: atomSources o j) s (fun xs s => noPoison xs (
      let h := (opnd xs 0).val
      let off := offsetOf s xs
      if hdLvl h != 0 then .fault Code.handle off
      else withAccess s h off 8 8 (fun e =>
        if tdLvl e.desc != 0 then .fault Code.handle off
        else .done 1 (s.startOp 3 (.satom (partsOf e.desc e.base off.toNat 8) off.toNat o (opnd xs 2).val (opnd xs 3).val (atomReg j)) (fun p => { p with
          ops := xs.map (·.val), addr := some off, uses := [.scratch s.cur.cell (hdIdx h)] })).2))))

/-- A result of an operation, due at a cell time; it keeps the operation's place in issue order. -/
def State.later (s : State) (c : Nat) (o : Op) (due : Nat) (w : PendW) : State :=
  s.modStrand c o.sc (fun st => { st with pend := st.pend ++ [{ due := due, eng := o.eng, ord := o.id, seq := o.ent.seq, w := w }] })

/-! ### At the owner of a PEER handle (R198, R308, R385) -/

/-- The owner's answer to a request through a PEER handle: its entry, or the code of an error response (R198, R382, R385). -/
def State.ownerEntry (s : State) (p : Peer) (off n : Nat) : Except Code TEntry :=
  let c := hdCell p.target
  if !s.gateOpen c then .error Code.fabric
  else if (match p.win with | some (_, _, w) => (s.cell c).vf != some (wnVf w) | none => false) then .error Code.window
  else
    match s.scratchHandle c p.target with
    | none => .error Code.handle
    | some e => if tdSize e.desc < off + n then .error Code.bounds else .ok e

/-- The codes whose sr.taddr is the address of the faulting word (R396). -/
def wordCodes : List Code :=
  [Code.illegal, Code.priv, Code.prefixFault, Code.qdead, Code.matshape, Code.chain, Code.deckle, Code.semmap, Code.window, Code.flume,
   Code.fabric, Code.swtrap, Code.sys]

/-- The address that sr.taddr gets for an error of a request: the word's for some codes, else the access address, or the word's when the
request has none (R49, R396). -/
def errAddr (o : Op) (code : Code) : Dword := if code ∈ wordCodes then o.ent.addr else o.addr.getD o.ent.addr

/-- The owner cell of a request through a PEER handle. -/
def Req.owner : Req → Option Nat
  | .moving w .. => some w
  | .peerRead p _ _ => some (hdCell p.target)
  | .peerWrite p _ _ => some (hdCell p.target)
  | .ratom p _ _ _ _ => some (hdCell p.target)
  | .bar p _ _ _ => some (hdCell p.target)
  | _ => none

/-- An earlier request of the same strand to the same owner has not been applied (R198). -/
def State.behind (s : State) (c : Nat) (o : Op) : Bool :=
  match o.req.bind Req.owner with
  | some w => (s.ops c).any (fun x => x.sc == o.sc && decide (x.id < o.id) && x.req.bind Req.owner == some w)
  | none => false

/-- A request is refused: its error response is on its way. -/
def State.refuse (s : State) (c : Nat) (o : Op) (code : Code) : State :=
  s.modOp c o.id (fun x => { x with req := none, err := some (code, errAddr o code) })

/-- The data of a load has been read: bytes for a timed body. -/
def OpBody.filled (b : OpBody) (l : List Byte) (geo : Option TileGeo) : OpBody :=
  match b with
  | .timedS d _ sp => .timedS d (some (BitVec.ofNat 64 (ofBytes l))) sp
  | .timedV d _ sp => .timedV d (some (BitVec.ofNat 2048 (ofBytes l))) sp
  | .timedT t _ sp => .timedT t (geo.map (fun g => fillTile g l)) sp
  | b => b

/-- The result of update(da, db) on the two words of a barrier object (R303): the new words and the phase before, or BARRIER. -/
def barrierUpdate (w0 w1 : Dword) (da : Nat) (db : Int) : Option (Dword × Dword × BitVec 12) :=
  let reload := (w0.extractLsb' 32 20).toNat
  let arr := (w0.extractLsb' 12 20).toNat
  let phase := w0.extractLsb' 0 12
  let bytes := w1.toInt + db
  if w0.extractLsb' 52 12 != 0 || reload == 0 || (da == 1 && arr == 0) || decide (bytes < -(2 ^ 63)) || decide (2 ^ 63 ≤ bytes) then none
  else
    let arr := arr - da
    let done := arr == 0 && bytes == 0
    let word : Nat := reload * 2 ^ 32 + (if done then reload else arr) * 2 ^ 12 + (if done then phase + 1 else phase).toNat
    some (BitVec.ofNat 64 word, BitVec.ofInt 64 bytes, phase)

/-- update(da, db) on a barrier object of a cell (R303): the phase before it, or POISON or BARRIER. -/
def State.updateBarrier (s : State) (c : Nat) (e : TEntry) (off da : Nat) (db : Int) : Except Code (BitVec 12 × State) :=
  let x := s.cell c
  if x.entryPoisoned e off 16 then .error Code.poison
  else
    let w (o : Nat) : Dword := BitVec.ofNat 64 (ofBytes (x.entryBytes e o 8))
    match barrierUpdate (w off) (w (off + 8)) da db with
    | none => .error Code.barrier
    | some (w0, w1, p) => .ok (p, s.modCell c (fun x => (x.entryWrite e off (le8 w0)).entryWrite e (off + 8) (le8 w1)))

/-- The line of a barrier update or atomic in the owner's scratchpad; none if the handle names no SCRATCH entry there. -/
def State.ownerParts (s : State) (r : Req) : Option (Nat × List Part) :=
  let at' (p : Peer) (off n : Nat) : Option (Nat × List Part) :=
    (s.scratchHandle (hdCell p.target) p.target).map (fun e => (hdCell p.target, partsOf e.desc e.base off n))
  match r with
  | .ratom p _ off _ _ => at' p off 8
  | .bar p off _ _ => at' p off 16
  | _ => none

/-- A request waits: for an earlier one of its strand to the same owner (R198), or for the owner's fill port (R185). -/
def State.reqWaits (s : State) (c : Nat) (o : Op) : Bool :=
  s.behind c o || (match o.req.bind s.ownerParts with | some (w, ps) => !fillFree (s.cell w).fill s.cyc ps | none => false)

/-- A request's line passes the owner's fill port. -/
def State.passFill (s : State) (o : Op) : State :=
  match o.req.bind s.ownerParts with
  | some (w, ps) => s.modCell w (fun x => { x with fill := fillTake x.fill s.cyc ps })
  | none => s

/-- The end of an accepted request: its use of the owner's entry ends. -/
def Op.moved (o : Op) (w idx : Nat) : Op := { o with req := none, uses := o.uses.filter (· != .scratch w idx) }

/-- An accepted load or store moves the lines that the owner's fill port takes in this cycle, in ascending order (R185, R186). A poisoned word
refuses a load; the data of a load is known when its last line has moved. -/
def State.moveLines (s : State) (c : Nat) (o : Op) (w idx : Nat) (rd : Bool) (todo : List Part) (got : Table Byte) (n : Nat) (geo : Option TileGeo) :
    State :=
  let x := s.cell w
  let (now, later, fill) := fillMove s.cyc x.fill [] todo
  let got := if rd then gather x.scratch now got else got
  let s := s.modCell w (fun x => (if rd then [] else now).foldl (fun y p => y.writeBytes p.addr p.data) { x with fill := fill })
  if rd && now.any (partPoisoned x.spoison) then (s.modOp c o.id (fun q => q.moved w idx)).refuse c o Code.poison
  else
    s.modOp c o.id (fun q =>
      if later.isEmpty then { q.moved w idx with body := if rd then q.body.filled (bytesAt got 0 n) geo else q.body }
      else { q with req := some (.moving w idx rd later got n geo),
                    uses := if q.uses.contains (.scratch w idx) then q.uses else q.uses ++ [.scratch w idx] })

/-- The parts of a load's ranges, in ascending order of their lines, each with its place in the load (R186): of a tile, or of one range. -/
def loadParts (e : TEntry) (rs : List (Nat × Nat)) (geo : Option TileGeo) : List Part :=
  match geo with
  | none => rs.flatMap (fun r => partsOf e.desc e.base r.1 r.2)
  | some g => sortBy (fun (a b : Part) => decide (a.addr < b.addr)) ((rs.zip (tilePlaces g)).flatMap (fun r =>
      (partsOf e.desc e.base r.1.1 r.1.2).map (fun p => { p with pos := p.pos + r.2 })))

/-- The bytes of a load: a tile's rows, scales and bound, or those of its one range. -/
def loadSize (rs : List (Nat × Nat)) (geo : Option TileGeo) : Nat :=
  match geo with
  | some g => 64 * g.w + 68
  | none => (rs.map (fun r => r.2)).headD 0

/-- PEER_ACCESS_AT_OWNER (R198, R305): a load, store or barrier update is checked when it arrives, and is applied through the owner's fill
port. -/
def execPeerAccessAtOwner (i : Nat) (s : State) : Host.Outcome State Fault Refusal :=
  match s.findAny i with
  | none => .next s
  | some (c, o) =>
    if s.reqWaits c o then .next s
    else
      match o.req with
      | some (.peerRead p rs geo) =>
        (match rs.foldl (fun r x => match r with | .error e => .error e | .ok _ => s.ownerEntry p x.1 x.2)
            (s.ownerEntry p 0 0) with
         | .error code => .next (s.refuse c o code)
         | .ok e => .next (s.moveLines c o (hdCell p.target) (hdIdx p.target) true (loadParts e rs geo) [] (loadSize rs geo) geo))
      | some (.peerWrite p off l) =>
        (match s.ownerEntry p off l.length with
         | .error code => .next (s.refuse c o code)
         | .ok e => .next (s.moveLines c o (hdCell p.target) (hdIdx p.target) false (withData (partsOf e.desc e.base off l.length) l) [] 0 none))
      | some (.moving w idx rd todo got n geo) => .next (s.moveLines c o w idx rd todo got n geo)
      | some (.bar p off da db) =>
        (match s.ownerEntry p off 16 with
         | .error code => .next (s.refuse c o code)
         | .ok e =>
           match (s.passFill o).updateBarrier (hdCell p.target) e off da db with
           | .error code => .next (s.refuse c o code)
           | .ok (ph, s) =>
             .next (s.modOp c i (fun (q : Op) => { q with req := none, body := q.body.filled (le8 (ph.zeroExtend 64)) none })))
      | _ => .next s

/-- LRatom (R308): the word offset is the displacement alone. -/
def execLRatom (g : Guard) (o j : BitVec 3) (a c : BitVec 6) (s : State) : Host.Outcome State Fault Refusal :=
  issueWord true g s (fun s =>
    if o = 7 then faultW s Code.illegal
    else withScalars (a :: atomSources o j) s (fun xs s => needs s.landingFree (noPoison xs (
      let h := (opnd xs 0).val
      let off := disp s.cur.ent
      if hdLvl h != 2 then .fault Code.handle off
      else withAccess s h off 8 8 (fun e => if tdLvl e.desc != 2 then .fault Code.handle off else withWindow s e .atomic (
        .done 1 (s.startOp (arrival c) (.timedS (atomReg j) none false) (fun p => { p with
          ops := xs.map (·.val), addr := some off, buf := .landing, uses := [.scratch s.cur.cell (hdIdx h)],
          req := some (.ratom e.peer o off.toNat (opnd xs 1).val (opnd xs 2).val) })).2))))))

/-- REMOTE_ATOMIC_AT_OWNER (R308): the owner checks handle, offset and poison, and applies the operation as one access. -/
def execRemoteAtomicAtOwner (i : Nat) (s : State) : Host.Outcome State Fault Refusal :=
  match s.findAny i with
  | none => .next s
  | some (c, o) =>
    if s.reqWaits c o then .next s
    else
      match o.req with
      | some (.ratom p op off x y) =>
        (match s.ownerEntry p off 8 with
         | .error code => .next (s.refuse c o code)
         | .ok e =>
           let w := hdCell p.target
           if (s.cell w).entryPoisoned e off 8 then .next (s.refuse c o Code.poison)
           else
             let old : Dword := BitVec.ofNat 64 (ofBytes ((s.cell w).entryBytes e off 8))
             .next (((s.passFill o).modCell w (fun z => z.entryWrite e off (le8 (atomicNew op old x y)))).modOp c i (fun (q : Op) => { q with
               req := none, body := q.body.filled (le8 old) none })))
      | _ => .next s

end Sys2Proof.Machine
end

