-- ==== Sys2Proof/Machine/Events.lean ====
section
/-! DEFINITION. Management events (R380), reports to strands (R276, R342), the fault of a flume stream (R342), and what the local operations
of the L engine do in a cycle at the cell port (R185, R186, R203 to R206). -/

namespace Sys2Proof.Machine

open Sys2Proof

/-! ### Management events (R375, R380) -/

/-- An 8-byte word of the management region, in die 0's sequence. -/
def State.mgmtWord (s : State) (a : Nat) : Nat := leRead (s.mem.view 0) a 8

/-- The device writes bytes of the management region. -/
def State.mgmtWrite (s : State) (a : Nat) (l : List Byte) : State := (s.enterWrite 0 (placed a l)).2

/-- The bytes of an event record (R380). -/
def eventBytes (code vf bh wall : Nat) (detail : List Byte) : List Byte :=
  [BitVec.ofNat 8 code, BitVec.ofNat 8 vf, BitVec.ofNat 8 bh] ++ zeros 5 ++ leBytes (wall % 2 ^ 48) 6 ++ zeros 2 ++
    (detail ++ zeros 16).take 16

/-- An event: its record enters the ring and the tail advances, or it is counted as lost when the ring is full (R380). -/
def State.event (s : State) (code vf bh : Nat) (detail : List Byte) : State :=
  let head := s.mgmtWord 0x900
  let tail := s.mgmtWord 0x908
  if 4096 ≤ (tail + 2 ^ 64 - head) % 2 ^ 64 then s.mgmtWrite 0x910 (leBytes (s.mgmtWord 0x910 + 1) 8)
  else
    ((s.mgmtWrite (0x1000 + 32 * (tail % 4096)) (eventBytes code vf bh s.wall detail)).mgmtWrite 0x908 (leBytes (tail + 1) 8))

/-! ### Reports (R276, R342) -/

/-- A report waits for a strand. -/
def State.reportTo (s : State) (c sc : Nat) (r : Report) : State := s.modStrand c sc (fun st => { st with reports := st.reports ++ [r] })

/-- A report to the strand that still runs a given item; otherwise it is discarded (R276). -/
def State.reportItem (s : State) (c sc : Nat) (launch : Option Nat) (idx : Nat) (r : Report) : State :=
  let st := s.strand c sc
  if st.st != .idle && !st.halted && st.launch == launch && st.launch.isSome && st.idx == idx then s.reportTo c sc r else s

/-- The operations of a cell's flume stream. -/
def State.streamOps (s : State) (c : Nat) : List Op := (s.ops c).filter (fun o => o.sc == 4)

/-- A stream that has ended: its launch's share knows, and the engine is free for the next (R38, R53). -/
def State.endStream (s : State) (c : Nat) : State :=
  match (s.cell c).flume.launch with
  | none => s
  | some l =>
    let s := s.modCell c (fun x => { x with flume := {} })
    { s with launches := s.launches.map (fun e => if e.1 == l then
        (e.1, { e.2 with shares := tput c { tget {} e.2.shares c with stream := .done } e.2.shares }) else e) }

/-- A stopped stream ends once its operations have (R342). -/
def State.closeStream (s : State) (c : Nat) : State :=
  if (s.cell c).flume.stopped && (s.streamOps c).isEmpty then s.endStream c else s

/-- A stream fault (R342): the stream stops, and the lowest-numbered strand of the cell that runs an item of its launch gets the report,
or VF0 an event. -/
def State.streamFault (s : State) (c : Nat) (code : Code) (a : Dword) : State :=
  let f := (s.cell c).flume
  let s := s.modCell c (fun x => { x with flume := { x.flume with stopped := true, word := none, pfx := none } })
  let s :=
    match (upto 4).find? (fun sc => let st := s.strand c sc; st.st != .idle && !st.halted && st.launch == f.launch) with
    | some sc => s.reportTo c sc { eng := 6, code := code, taddr := a }
    | none => s.event 4 (s.vfOf c) (bhOf c) []
  s.closeStream c

/-- A fault of a wait: of a strand's word, or of the stream (R300, R301, R342). -/
def State.waitFault (s : State) (c : Nat) (o : Op) (code : Code) : State :=
  if o.sc = 4 then (s.dropOp c o.id).streamFault c code o.ent.addr else s.lateFault c o code (errAddr o code)

/-! ### Local operations of L at the cell port (R185, R203 to R206, R303, R305) -/

/-- The cycles from the access of the last group to the write of a load's destination, or the end of a store (R203, R204, R206). -/
def OpBody.lag : OpBody → Nat
  | .sload (.t ..) _ _ _ _ => 5
  | .sload _ _ _ _ _ => 4
  | .sstore _ => 1
  | _ => 0

/-- The groups of lines that an operation has still to access. -/
def OpBody.left : OpBody → List (List Part)
  | .sload _ _ todo _ _ => todo
  | .sstore todo => todo
  | _ => []

/-- The next group of an operation is due at the cell port in cycle t. -/
def Op.atPort (o : Op) (t : Nat) : Bool := !o.body.left.isEmpty && decide (o.due + 1 ≤ t + o.body.lag + o.body.left.length)

/-- A scratch or landing load reads parts. -/
def State.readParts (s : State) (c : Nat) (land : Option Nat) (ps : List Part) (got : Table Byte) (bad : Option Nat) :
    Table Byte × Option Nat :=
  let (bytes, poison) : Table Byte × Table Bool :=
    match land with
    | some n => let l := s.landing (bhOf c) n; (l.bytes, l.poison)
    | none => let x := s.cell c; (x.scratch, x.spoison)
  (gather bytes ps got, match bad with | some b => some b | none => (ps.find? (partPoisoned poison)).map (·.pos))

/-- The bytes that a store writes. -/
def State.writeParts (s : State) (c : Nat) (ps : List Part) : State :=
  s.modCell c (fun x => ps.foldl (fun y p => y.writeBytes p.addr p.data) x)

/-- An operation that lost a bank: it and L take one cycle more (R185). -/
def State.delayL (s : State) (c id : Nat) : State :=
  (s.modOp c id (fun o => { o with due := o.due + 1 })).modCell c (fun x =>
    { x with busy := tput engL (max (tget 0 x.busy engL) (x.time + 1) + 1) x.busy })

/-- One group of a load or store; parts whose bank the M engine has taken in this cycle stay for the next (R185). -/
def State.portGroup (s : State) (c : Nat) (o : Op) (banks : List Nat) : State :=
  match o.body with
  | .sload dst land (g :: rest) got bad =>
    let lost := if land.isSome then [] else g.filter (fun p => banks.contains p.bank)
    let (got, bad) := s.readParts c land (if land.isSome then g else g.filter (fun p => !banks.contains p.bank)) got bad
    let s := s.modOp c o.id (fun q => { q with body := .sload dst land (if lost.isEmpty then rest else lost :: rest) got bad })
    if lost.isEmpty then s else s.delayL c o.id
  | .sstore (g :: rest) =>
    let lost := g.filter (fun p => banks.contains p.bank)
    let s := (s.writeParts c (g.filter (fun p => !banks.contains p.bank))).modOp c o.id
      (fun q => { q with body := .sstore (if lost.isEmpty then rest else lost :: rest) })
    if lost.isEmpty then s else s.delayL c o.id
  | _ => s

/-- A scratch atomic at the banks of its word (R206): the old word goes to the destination three cycles later. -/
def State.portAtom (s : State) (c : Nat) (o : Op) (banks : List Nat) (ps : List Part) (op : BitVec 3) (x y : Dword) (d : BitVec 6) : State :=
  if ps.any (fun p => banks.contains p.bank) then s.delayL c o.id
  else if ps.any (partPoisoned (s.cell c).spoison) then
    -- POISON is raised in the cycle in which the result would have been written (R187)
    s.modOp c o.id (fun q => { q with err := some (Code.poison, o.addr.getD 0), due := q.due + 3 })
  else
    let old : Dword := BitVec.ofNat 64 (leRead (gather (s.cell c).scratch ps []) 0 8)
    ((s.later c o (o.due + 3) (.s d { val := old })).writeParts c (withData ps (le8 (atomicNew op old x y)))).endOp c o.id

/-- A barrier update of a local object (R303, R305), which may lose its bank (R185): the phase before it goes to the destination three cycles
later. -/
def State.portBarrier (s : State) (c : Nat) (o : Op) (banks : List Nat) (idx off da : Nat) (db : Int) (d : Option (BitVec 6)) : State :=
  let e := (s.cell c).entry idx
  if (partsOf e.desc e.base off 16).any (fun p => banks.contains p.bank) then s.delayL c o.id else
  match s.updateBarrier c e off da db with
  | .error code => s.lateFault c o code (BitVec.ofNat 64 off)
  | .ok (ph, s) =>
    (match d with
     | some r => s.later c o (o.due + 3) (.s r { val := ph.zeroExtend 64 })
     | none => s).endOp c o.id

/-- The accesses of L in a cell in this cycle, oldest word first, after M has taken its banks (R185, R186). -/
def State.portL (s : State) (c : Nat) (banks : List Nat) : State :=
  let t := (s.cell c).time
  ((s.ops c).map (·.id)).foldl (fun s id =>
    match s.findOp c id with
    | none => s
    | some o =>
      match o.body with
      | .satom ps _ op x y d => if o.due ≤ t && o.err.isNone then s.portAtom c o banks ps op x y d else s
      | .barUpdate idx off da db d => if o.due ≤ t then s.portBarrier c o banks idx off da db d else s
      | _ => if o.atPort t then s.portGroup c o banks else s) s

/-- M takes no bank from L in this cycle: no line of an M operation is due and no chain is open (R185). -/
def Cell.portFree (x : Cell) : Bool :=
  x.chain.isNone && x.taken.isEmpty && x.ops.all (fun o =>
    match o.body with
    | .mlines _ start (_ :: _) _ _ => decide (x.time < start)
    | .che _ _ (some _) => decide (x.time < o.issued + 4)
    | _ => true)

/-- Local operations that end in this cycle: a load's result, or its POISON; a barrier update; a store that writes its last lines in this
cycle (R187, R203, R303). The accesses come at the start of the cycle when M cannot take their banks, so that what waits for their
completion may issue in the same cycle (R305); else they come at the port after M's. -/
def State.finishLocal (s : State) (c : Nat) : State :=
  let t := (s.cell c).time
  ((s.ops c).map (·.id)).foldl (fun s id =>
    match s.findOp c id with
    | none => s
    | some o =>
      match o.body with
      | .sstore [_] => if o.atPort t && (s.cell c).portFree then (s.portGroup c o []).endOp c o.id else s
      | .barUpdate idx off da db d => if o.due ≤ t && (s.cell c).portFree then s.portBarrier c o [] idx off da db d else s
      | _ =>
        if t < o.due then s
        else
          match o.body, o.err with
          | .sload (.s d) _ [] got none, _ => (s.later c o t (.s d { val := BitVec.ofNat 64 (leRead got 0 8) })).endOp c id
          | .sload (.v d) _ [] got none, _ =>
            (s.later c o t (.v d (BitVec.ofNat 2048 (leRead got 0 256)) (BitVec.allOnes 64) (some none))).endOp c id
          | .sload (.s _) _ [] _ (some _), _ => s.lateFault c o Code.poison (o.addr.getD 0)
          | .sload (.v _) _ [] _ (some _), _ => s.lateFault c o Code.poison (o.addr.getD 0)
          | .sstore [], _ => s.endOp c id
          | .satom .., some (e, a) => s.lateFault c o e a
          | _, _ => s) s

end Sys2Proof.Machine
end

