-- ==== Sys2Proof/Machine/Sync.lean ====
section
/-! DEFINITION. Semaphores, fences and barrier objects (R288 to R306): b.wait, b.sig, b.smap, l.fence, l.tfence, l.barr, l.barw, l.bare, and
the steps by which signals and requests arrive, grants land, and fences and barrier waits retire. -/

namespace Sys2Proof.Machine

open Sys2Proof

/-! ### The semaphore map (R294 to R296) -/

def smV (e : BitVec 16) : Bool := e.getLsbD 15

/-- The physical number of an entry. -/
def smPs (e : BitVec 16) : Nat := (e.extractLsb' 0 12).toNat

def State.semEntry (s : State) (vf : Nat) (v : BitVec 8) : BitVec 16 := tget 0 (s.vf vf).semMap v.toNat

/-- The physical semaphore that a virtual number names now. -/
def State.resolve (s : State) (vf : Nat) (v : BitVec 8) : Option Nat :=
  let e := s.semEntry vf v
  if smV e then some (smPs e) else none

def State.sem (s : State) (ps : Nat) : Sem := tget {} s.sems ps

def State.modSem (s : State) (ps : Nat) (f : Sem → Sem) : State := { s with sems := tset {} s.sems ps (f (s.sem ps)) }

/-- A VF maps a physical semaphore. -/
def Vf.mapsSem (v : Vf) (ps : Nat) : Bool := v.semMap.any (fun e => smV e.2 && smPs e.2 == ps)

/-! ### Signals and waits (R297 to R299) -/

/-- A grant is made: it lands two cycles later (R298). -/
def State.grant (s : State) (w : Waiter) : State :=
  s.modOp w.cell w.op (fun o =>
    { o with due := (s.cell w.cell).time + 2, body := match o.body with | .semWait v n _ => .semWait v n true | b => b })

/-- Waiters at the head whose count is there are granted, in order (R297). -/
def State.serve (s : State) (ps : Nat) : Nat → State
  | 0 => s
  | f + 1 =>
    match (s.sem ps).fifo with
    | [] => s
    | w :: r =>
      if w.n ≤ (s.sem ps).val.toNat then
        ((s.modSem ps (fun m => { m with val := m.val - BitVec.ofNat 32 w.n, fifo := r })).grant w).serve ps f
      else s

def State.serveAll (s : State) (ps : Nat) : State := s.serve ps (s.sem ps).fifo.length

/-- Every semaphore serves its queue: a head may have left it without a grant (R297, R299). -/
def State.serveSems (s : State) : State := s.sems.foldl (fun x e => if e.2.fifo.isEmpty then x else x.serveAll e.1) s

/-- The order in which wait requests that arrive in one cycle join their queues (R297). -/
def WaitReq.before (a b : WaitReq) : Bool := decide (a.w.cell < b.w.cell) || (a.w.cell == b.w.cell && decide (a.w.unit < b.w.unit))

/-- A signal enters the semaphore units: a release of a number at a semaphore. -/
def State.signal (s : State) (x : Sig) : State := { s with sigs := s.sigs ++ [x] }

/-- The delivery time of a signal or request of a cell: for a semaphore of its own bulkhead 2 cc later, in the cell's time (R5, R298); for
another the wall time from which the fabric may deliver it. -/
def State.semDue (s : State) (c ps : Nat) : Nat := if ps / 64 = bhOf c then (s.cell c).time + 2 else s.wall3

/-- The delivery time has come. In a cell that a switch has closed what is in flight goes on (R411). -/
def State.semCame (s : State) (c ps due : Nat) : Bool :=
  if ps / 64 = bhOf c then decide (due ≤ (s.cell c).time) || (s.cell c).closed else decide (due ≤ s.wall3)

/-- A signal whose writes are not yet performed reaches its semaphore no earlier than 2 cc after they are (R298). -/
def State.holdSigs (s : State) : State :=
  { s with sigs := s.sigs.map (fun x =>
      if s.performed x.cover then x
      else if x.ps / 64 = bhOf x.cell then { x with due := if (s.cell x.cell).vf == some x.vf then (s.cell x.cell).time + 3 else 0 }
      else { x with due := s.wall3 + 2 }) }

/-- BSig (R298): held until every earlier word has issued; then a release at pkg and the signal. -/
def execBSig (g : Guard) (d : BitVec 6) (v : BitVec 8) (s : State) : Host.Outcome State Fault Refusal :=
  issueWord false g s (fun s => needs (allIssuedBefore s.me s.cur.ent.seq) (withScalars [d] s (fun xs s => noPoison xs (
    let c := s.cur.cell
    match s.resolve (s.vfOf c) v with
    | none => faultW s Code.semmap
    | some ps =>
      .done 1 (s.signal { ps := ps, n := (opnd xs 0).val.toNat % 2 ^ 32, cover := s.coverOf c s.cur.sc s.cur.ent.seq 3, cell := c,
                          sc := s.cur.sc, vf := s.vfOf c, due := s.semDue c ps })))))

/-- BWait (R298, R299): it joins the FIFO; every later word of the strand is held until its grant lands. -/
def execBWait (g : Guard) (d : BitVec 6) (v : BitVec 8) (s : State) : Host.Outcome State Fault Refusal :=
  issueWord false g s (fun s => withScalars [d] s (fun xs s => noPoison xs (
    let c := s.cur.cell
    match s.resolve (s.vfOf c) v with
    | none => faultW s Code.semmap
    | some ps =>
      let n := (opnd xs 0).val.toNat % 2 ^ 32
      let (id, s) := s.startOp 0 (.semWait v n false) (fun o => { o with ops := xs.map (·.val), holds := .all })
      .done 1 { s with waits := s.waits ++ [{ ps := ps, due := s.semDue c ps,
                                              w := { cell := c, unit := s.cur.sc, op := id, vf := s.vfOf c, v := v, n := n } }] })))

/-- A bulkhead in reset drops the signals that reach it; they are counted (R301). -/
def State.semReset (s : State) (ps : Nat) : Bool := (tget {} s.bhs (ps / 64)).gateClosed

/-- A signal arrives in this cycle: its time has come and its writes are performed (R298). -/
def State.sigCame (s : State) (x : Sig) : Bool := s.semCame x.cell x.ps x.due && s.performed x.cover

/-- The signals that arrive at a semaphore in this cycle, and the others; the signals of one strand arrive in issue order, so one that stays
holds back those of its strand after it (R298). held lists the strands of those that stay. -/
def State.arriving (s : State) (ps : Nat) : List (Nat × Nat) → List Sig → List Sig × List Sig
  | _, [] => ([], [])
  | held, x :: r =>
    let own := (x.cell, x.sc)
    if s.sigCame x && (x.sc == 5 || !held.contains own) then
      let (a, b) := s.arriving ps held r
      if x.ps = ps then (x :: a, b) else (a, x :: b)
    else
      let (a, b) := s.arriving ps (own :: held) r
      (a, x :: b)

/-- What a physical semaphore does in a cycle (R297): the sum of the signals that arrive is added once, the waits that arrive join the
tail, and heads whose count is there are granted. -/
def State.semCycle (s : State) (ps : Nat) : State :=
  let (a, rest) := s.arriving ps [] s.sigs
  let ws := sortBy WaitReq.before (s.waits.filter (fun x => x.ps == ps && s.semCame x.w.cell ps x.due))
  let s := { s with sigs := rest, waits := s.waits.filter (fun x => !(x.ps == ps && s.semCame x.w.cell ps x.due)) }
  (s.modSem ps (fun m => { m with val := BitVec.ofNat 32 (min (m.val.toNat + (a.map (·.n)).foldl (· + ·) 0) 0xFFFFFFFF),
                                  fifo := m.fifo ++ ws.map (·.w) })).serveAll ps

/-- A signal that reaches a bulkhead in reset is dropped and counted (R301). -/
def State.dropSig (s : State) (i : Nat) (x : Sig) : State :=
  ({ s with sigs := removeAt s.sigs i } : State).modVf x.vf (fun v => { v with counters := { v.counters with signals := v.counters.signals + 1 } })

/-- SEMAPHORE_SIGNAL_ARRIVAL (R297, R298): the cycle of a semaphore in which signal i arrives. -/
def execSemaphoreSignalArrival (i : Nat) (s : State) : Host.Outcome State Fault Refusal :=
  match s.sigs[i]? with
  | none => .next s
  | some x => if !s.sigCame x then .next s else .next (if s.semReset x.ps then s.dropSig i x else s.semCycle x.ps)

/-- SEMAPHORE_WAIT_ARRIVAL (R297): the cycle of a semaphore in which wait request i arrives. At a bulkhead in reset it gets a NAK (R301). -/
def execSemaphoreWaitArrival (i : Nat) (s : State) : Host.Outcome State Fault Refusal :=
  match s.waits[i]? with
  | none => .next s
  | some x =>
    if !s.semCame x.w.cell x.ps x.due then .next s
    else if s.semReset x.ps then
      let s := { s with waits := removeAt s.waits i }
      (match s.findOp x.w.cell x.w.op with
       | some o => .next (s.waitFault x.w.cell o Code.fabric)
       | none => .next s)
    else .next (s.semCycle x.ps)

/-- SEMAPHORE_GRANT_LANDING (R298, R299): the grant of a strand, or of the stream (unit 4), lands and its words go on. -/
def execSemaphoreGrantLanding (c u : Nat) (s : State) : Host.Outcome State Fault Refusal :=
  match (s.ops c).find? (fun o => o.sc == u && (match o.body with | .semWait _ _ true => true | _ => false)) with
  | some o => .next (if o.due ≤ (s.cell c).time then s.endOp c o.id else s)
  | none => .next s

/-! ### b.smap (R300) -/

/-- A change of a VF's map that is on its way to the semaphore units maps a physical semaphore. -/
def Op.mapping (o : Op) (vf ps : Nat) : Bool :=
  match o.body with
  | .smap v _ e _ => v != vf && smV e && smPs e == ps
  | _ => false

/-- A physical semaphore is mapped by another VF, or a change that has issued will map it for one: it is mapped by at most one at a time
(R294). DESIGN CHOICE (log entry 70): a b.smap counts from its issue. -/
def State.mappedElsewhere (s : State) (vf ps : Nat) : Bool :=
  s.vfs.any (fun e => e.1 != vf && e.2.mapsSem ps) || s.cells.any (fun e => e.2.ops.any (fun o => o.mapping vf ps))

/-- BSmap (R300): B holds its later words until the semaphore units have acknowledged the change. -/
def execBSmap (g : Guard) (a b : BitVec 6) (s : State) : Host.Outcome State Fault Refusal :=
  issueWord false g s (fun s => withScalars [a, b] s (fun xs s => noPoison xs (
    let vf := s.me.vfsel.toNat
    let x := (opnd xs 0).val
    let y := (opnd xs 1).val
    let ent : BitVec 16 := y.truncate 16
    let v : BitVec 8 := x.truncate 8
    let move := y.getLsbD 16
    if s.vfOf s.cur.cell ≠ 0 then faultW s Code.priv
    else if !(s.vf vf).live then faultW s Code.semmap
    else if x.extractLsb' 8 56 != 0 || y.extractLsb' 17 47 != 0 || ent.extractLsb' 12 3 != 0 then faultW s Code.semmap
    else if smV ent && !s.inShape vf (smPs ent / 64 * 2) then faultW s Code.window
    else if smV ent && s.mappedElsewhere vf (smPs ent) then faultW s Code.semmap
    else if move && !(smV ent && smV (s.semEntry vf v)) then faultW s Code.semmap
    else .done 1 (s.startOp 0 (.smap vf v ent move) (fun o => { o with ops := xs.map (·.val), holds := .b })).2)))

/-- Waiters on a number that remain at a semaphore after its entry has changed: they join the new FIFO, or fault (R300). -/
def State.rejoin (s : State) (vf : Nat) (v : BitVec 8) (old : Nat) (new : Option Nat) : State :=
  let mine := (s.sem old).fifo.filter (fun w => w.vf == vf && w.v == v)
  let s := s.modSem old (fun m => { m with fifo := m.fifo.filter (fun w => !(w.vf == vf && w.v == v)) })
  match new with
  | some ps => s.modSem ps (fun m => { m with fifo := m.fifo ++ mine })
  | none =>
    mine.foldl (fun x w => match x.findOp w.cell w.op with | some o => x.waitFault w.cell o Code.semmap | none => x) s

/-- The change of an entry, as one step (R300). -/
def State.applySmap (s : State) (vf : Nat) (v : BitVec 8) (new : BitVec 16) (move : Bool) : State :=
  let old := s.semEntry vf v
  let (po, pn) := (smPs old, smPs new)
  let s := s.modVf vf (fun x => { x with semMap := tset 0 x.semMap v.toNat new })
  let s :=
    if smV new && !(s.sem pn).mapped then
      if move && smV old then
        let o := s.sem po
        (s.modSem pn (fun _ => { mapped := true, val := o.val, fifo := o.fifo })).modSem po (fun m => { m with val := 0, fifo := [] })
      else s.modSem pn (fun _ => { mapped := true })
    else s
  let s := if smV old && !(smV new && pn == po) then s.rejoin vf v po (if smV new then some pn else none) else s
  let s := if smV old && !(s.vf vf).mapsSem po then s.modSem po (fun _ => {}) else s
  if smV new then s.serveAll pn else s

/-- SMAP_APPLY (R300): once every signal and request resolved to the old entry's semaphore has reached it; a VF that is gone has no map. -/
def execSmapApply (c sc : Nat) (s : State) : Host.Outcome State Fault Refusal :=
  match (s.ops c).find? (fun o => o.sc == sc && (match o.body with | .smap .. => true | _ => false)) with
  | none => .next s
  | some o =>
    match o.body with
    | .smap vf v ent move =>
      let old := s.semEntry vf v
      if !(s.vf vf).live then .next (s.endOp c o.id)
      else if smV old && (s.sigs.any (fun x => x.ps == smPs old) || s.waits.any (fun x => x.ps == smPs old)) then .next s
      else .next ((s.applySmap vf v ent move).endOp c o.id)
    | _ => .next s

/-! ### Fences (R292, R293) -/

/-- An operation completes inside its cell (R292). -/
def Op.inCell (o : Op) : Bool :=
  match o.body with
  | .timedS .. | .timedV .. | .timedT .. | .store | .kfork .. | .stk _ | .msg _ | .launch .. | .drainP _ | .flume _ | .peerAdd .. => false
  | .barRel _ _ _ _ _ _ peer => peer.isNone
  | _ => true

/-- What L waits for before a fence issues: every earlier word has issued and its operations inside the cell have completed; with reads,
its global and PEER reads have landed (R292). -/
def fenceReady (s : State) (reads : Bool) : Bool :=
  let q := s.cur.ent.seq
  allIssuedBefore s.me q && s.me.pend.all (fun p => decide (q ≤ p.seq)) &&
    (s.ops s.cur.cell).all (fun o => o.sc != s.cur.sc || decide (q ≤ o.ent.seq) || !(o.inCell || (reads && o.timed)))

/-- LFence (R292). -/
def execLFence (g : Guard) (k : BitVec 2) (sc : BitVec 3) (s : State) : Host.Outcome State Fault Refusal :=
  if k = 3 ∨ 5 ≤ sc.toNat then .next (s.raise Code.illegal s.cur.ent.addr)
  else issueWord false g s (fun s => needs (fenceReady s (k != 1)) (
    let cover := if k = 0 then [] else s.coverOf s.cur.cell s.cur.sc s.cur.ent.seq sc.toNat
    .done 1 (s.startOp (if k = 0 then 1 else scopeTf sc.toNat) (.fence cover none) (fun o => { o with holds := fenceHolds k })).2))

/-- LTfence (R293). -/
def execLTfence (g : Guard) (sc : BitVec 3) (s : State) : Host.Outcome State Fault Refusal :=
  if 5 ≤ sc.toNat then .next (s.raise Code.illegal s.cur.ent.addr)
  else issueWord false g s (fun s => needs (fenceReady s true) (
    .done 1 (s.startOp (scopeTt sc.toNat) (.fence (s.coverOf s.cur.cell s.cur.sc s.cur.ent.seq sc.toNat) (some sc.toNat))
      (fun o => { o with holds := .all })).2))

/-- A cell lies in a scope around another (R288). -/
def inScope (sc c x : Nat) : Bool :=
  if sc = 0 then x == c else if sc = 1 then bhOf x == bhOf c else if sc = 2 then dieOf x == dieOf c else true

/-- The cached translations of a VF in a scope are discarded (R293). -/
def State.discardTlb (s : State) (c sc vf : Nat) : State :=
  { s with cells := s.cells.map (fun e => if inScope sc c e.1 && e.2.vf == some vf then (e.1, { e.2 with tlb := [] }) else e) }

/-- The next part of a barrier release whose covered writes are performed: the update of a local object, or the request to the
owner (R305). -/
def State.barReleased (s : State) (c : Nat) (o : Op) (idx off da : Nat) (db : Int) (d : Option (BitVec 6)) (peer : Option (Peer × Nat)) :
    State :=
  let s := s.modCell c (fun x => { x with frozenOn := x.frozenOn.filter (· != o.id) })
  match peer with
  | none => s.modOp c o.id (fun q => { q with due := o.due + 3, body := .barUpdate idx off da db d })
  | some (p, delta) =>
    s.modOp c o.id (fun q => { q with
      due := o.due + (if d.isSome then delta else 64),
      body := (match d with | some r => .timedS r none false | none => .store),
      req := some (.bar p off da db) })

/-- FENCE_RETIREMENT (R292, R293, R305): a fence or barrier release of a strand, or a fence of the stream (unit 4), at its Tf: it retires
when its covered writes are performed, and until then the cell is frozen. -/
def execFenceRetirement (c u : Nat) (s : State) : Host.Outcome State Fault Refusal :=
  match (s.ops c).find? (fun o => o.sc == u && decide (o.due ≤ (s.cell c).time) &&
      (match o.body with | .fence .. | .barRel .. => true | _ => false)) with
  | none => .next s
  | some o =>
    match o.body with
    | .fence cover disc =>
      if !s.performed cover || (s.env.slow.contains o.id && !(s.cell c).frozenOn.contains o.id) then .next (s.freezeOn c o.id)
      else
        let s := match disc with | some sc => s.discardTlb c sc (s.vfOf c) | none => s
        .next (s.endOp c o.id)
    | .barRel cover idx off da db d peer =>
      if !s.performed cover || (s.env.slow.contains o.id && !(s.cell c).frozenOn.contains o.id) then .next (s.freezeOn c o.id)
      else .next (s.barReleased c o idx off da db d peer)
    | _ => .next s

/-! ### Barrier objects (R302 to R306) -/

/-- The scope of an object (R305). -/
def objectScope (c : Nat) (e : TEntry) : Nat :=
  if tdLvl e.desc = 0 then 0
  else
    let w := hdCell e.peer.target
    if bhOf w = bhOf c then 1 else if dieOf w = dieOf c then 2 else 3

/-- The issue of l.barr and l.bare: a release at the object's scope, then the update (R305). -/
def barrierRelease (s : State) (xs : List Sval) (da : Nat) (db : Int) (d : Option (BitVec 6)) : Issue :=
  let o := offsetOf s xs
  let h := (opnd xs 0).val
  withAccess s h o 16 16 (fun e => withWindow s e .barrier (
    let sc := objectScope s.cur.cell e
    let cover := s.coverOf s.cur.cell s.cur.sc s.cur.ent.seq sc
    let isPeer := tdLvl e.desc == 2
    .done 1 (s.startOp (scopeTf sc) (.barRel cover (hdIdx h) o.toNat da db d (if isPeer then some (e.peer, arrival (tdArr e.desc)) else none))
      (fun q => { q with ops := xs.map (·.val), addr := some o, uses := [.scratch s.cur.cell (hdIdx h)],
                         buf := if isPeer then (if d.isSome then .landing else .send) else .none })).2))

/-- LBarr (R304, R305): update(1, 0); the phase before it to s_D. -/
def execLBarr (g : Guard) (d a b : BitVec 6) (s : State) : Host.Outcome State Fault Refusal :=
  issueWord true g s (fun s => needs (fenceReady s false) (withScalars [a, b] s (fun xs s =>
    roomFor d s (needsPeer s (opnd xs 0) s.landingFree (noPoison xs (barrierRelease s xs 1 0 (some d)))))))

/-- LBare (R304, R305): update(0, s_D). -/
def execLBare (g : Guard) (d a b : BitVec 6) (s : State) : Host.Outcome State Fault Refusal :=
  issueWord true g s (fun s => needs (fenceReady s false) (withScalars [a, b, d] s (fun xs s =>
    needsPeer s (opnd xs 0) s.sendFree (noPoison xs (barrierRelease s xs 0 (opnd xs 2).val.toInt none)))))

/-- Remote barrier waiters that a cell holds (R306). -/
def State.remoteWaiters (s : State) (w : Nat) : Nat :=
  (s.cells.map (fun e => (e.2.ops.filter (fun o => match o.body with | .barWait wc _ _ _ _ true true _ => wc == w | _ => false)).length)).foldl
    (· + ·) 0

/-- A remote waiter asks its owner for a place, which the owner's checks may refuse (R198, R382); refused for lack of room it asks again
64 cc later (R306). -/
def State.registerWait (s : State) (c : Nat) (o : Op) : State :=
  match o.body with
  | .barWait w idx gen off ph peer _ met =>
    match s.ownerEntry ((s.cell c).entry (hdIdx (o.ops.getD 0 0))).peer off 16 with
    | .error code => s.lateFault c o code (errAddr o code)
    | .ok _ =>
    if s.remoteWaiters w < 32 then s.modOp c o.id (fun q => { q with body := .barWait w idx gen off ph peer true met })
    else s.modOp c o.id (fun q => { q with due := (s.cell c).time + 64 })
  | _ => s

/-- LBarw (R304, R306): every later word of the strand is held until the object's phase differs from p. -/
def execLBarw (g : Guard) (d a b : BitVec 6) (s : State) : Host.Outcome State Fault Refusal :=
  issueWord true g s (fun s => withScalars [a, b, d] s (fun xs s => noPoison xs (
    let o := offsetOf s xs
    let h := (opnd xs 0).val
    withAccess s h o 16 16 (fun e => withWindow s e .look (
      let isPeer := tdLvl e.desc == 2
      let obj := if isPeer then e.peer.target else h
      let (id, s) := s.startOp 3 (.barWait (hdCell obj) (hdIdx obj) (hdGen obj).toNat o.toNat ((opnd xs 2).val.truncate 12) isPeer false false)
        (fun q => { q with ops := xs.map (·.val), addr := some o, holds := .all })
      match (if isPeer then s.findOp s.cur.cell id else none) with
      | some q => .done 1 (s.registerWait s.cur.cell q)
      | none => .done 1 s)))))

/-- What a barrier wait sees of its object: nothing yet, that the phase differs, or a fault (R302, R303). -/
def State.lookBarrier (s : State) (w idx gen off : Nat) (ph : BitVec 12) : Except Code Bool :=
  let e := (s.cell w).entry idx
  if !e.used || e.gen.toNat != gen then .error Code.handle
  else if tdSize e.desc < off + 16 then .error Code.bounds
  else if (s.cell w).entryPoisoned e off 8 then .error Code.poison
  else
    let w0 : Dword := BitVec.ofNat 64 (ofBytes ((s.cell w).entryBytes e off 8))
    if w0.extractLsb' 52 12 != 0 || w0.extractLsb' 32 20 == 0 then .error Code.barrier
    else .ok (w0.truncate 12 != ph)

/-- Barrier waits that see their phase pass in this cycle, or a fault; called at the end of each cycle (R306). -/
def State.lookWaits (s : State) (c : Nat) : State :=
  (s.ops c).foldl (fun s o =>
    match o.body with
    | .barWait w idx gen off ph peer reg false =>
      if !peer || reg then
        match s.lookBarrier w idx gen off ph with
        | .error code => s.lateFault c o code (errAddr o code)
        | .ok true => s.modOp c o.id (fun q => { q with body := .barWait w idx gen off ph peer reg true })
        | .ok false => s
      else s
    | _ => s) s

/-- BARW_RETIREMENT (R306): not before issue + 3, and in the cycle after the one that leaves another phase. -/
def execBarwRetirement (c sc : Nat) (s : State) : Host.Outcome State Fault Refusal :=
  match (s.ops c).find? (fun o => o.sc == sc && (match o.body with | .barWait _ _ _ _ _ _ _ true => true | _ => false)) with
  | some o => .next (if o.due ≤ (s.cell c).time then s.endOp c o.id else s)
  | none => .next s

/-- REMOTE_WAITER_RETRY (R306). -/
def execRemoteWaiterRetry (c sc : Nat) (s : State) : Host.Outcome State Fault Refusal :=
  match (s.ops c).find? (fun o => o.sc == sc && (match o.body with | .barWait _ _ _ _ _ true false _ => true | _ => false)) with
  | some o => .next (if o.due ≤ (s.cell c).time then s.registerWait c o else s)
  | none => .next s

end Sys2Proof.Machine
end

