-- ==== Sys2Proof/Machine/Mats.lean ====
section
/-! DEFINITION. The M engine's words on mats, tile registers, accumulators and deckle registers (R208 to R236), the steps by which chunks,
drains, peer additions, saves and restores complete, and the lines that M operations move at the cell port (R185, R220). -/

namespace Sys2Proof.Machine

open Sys2Proof

/-! ### Accumulators, groups and sides (R208 to R211, R215) -/

def Cell.acc (x : Cell) (k : Nat) : Accum := tget {} x.accs k

def Cell.setAcc (x : Cell) (k : Nat) (a : Accum) : Cell := { x with accs := tset {} x.accs k a }

def Cell.dk (x : Cell) (k : Nat) : Deckle := tget 0 x.dks k

def Cell.setDk (x : Cell) (k : Nat) (d : Deckle) : Cell := { x with dks := tset 0 x.dks k d }

/-- The partner of an accumulator. -/
def partner (k : Nat) : Nat := if k % 2 = 0 then k + 1 else k - 1

/-- The hi and lo words of an accumulator. -/
def Cell.words (x : Cell) (k : Nat) : List (BitVec 32) × Option (List (BitVec 32)) :=
  (accList (x.acc k).val, if dkWide (x.dk k) then some (accList (x.acc (partner k)).val) else none)

/-- An accumulator with its lo partner when it is wide (R219). -/
def Cell.pair (x : Cell) (k : Nat) : List Nat := if dkWide (x.dk k) then [k, partner k] else [k]

/-- m.zero on one accumulator (R215, R224). -/
def Cell.clearAcc (x : Cell) (k : Nat) : Cell :=
  let d := x.dk k
  let x := if dkWide d then (x.setAcc (partner k) {}).setDk (partner k) 0 else x
  (x.setAcc k {}).setDk k (dkSet (dkSet (d.setBound 0) 66 1 0) 104 1 0)

/-- At the issue of a widening chunk a_k becomes wide and its partner lo (R215). -/
def Cell.widen (x : Cell) (k : Nat) : Cell :=
  if dkWide (x.dk k) then x
  else (x.setDk (partner k) (dkSet (x.dk (partner k)) 104 1 1)).setDk k (dkSet (x.dk k) 66 1 1)

/-- When a widening chunk is added, after every chunk issued before it, the partner's contents and bound are discarded (R215). -/
def Cell.discardPartner (x : Cell) (k : Nat) : Cell := (x.setAcc (partner k) {}).setDk (partner k) ((x.dk (partner k)).setBound 0)

/-- The mats of a pair or quad (R210). -/
def shapeMats (code : Nat) : List Nat :=
  match code with
  | 1 => [0, 1]
  | 2 => [2, 3]
  | 3 => [0, 2]
  | 4 => [1, 3]
  | 5 => [4, 5]
  | 6 => [6, 7]
  | 7 => [4, 6]
  | 8 => [5, 7]
  | 9 => [0, 1, 2, 3]
  | 10 => [4, 5, 6, 7]
  | _ => []

/-- The mats of the group of a mat, its leader first. -/
def Cell.groupOf (x : Cell) (m : Nat) : List Nat := ((x.shapes.map shapeMats).find? (fun l => l.contains m)).getD [m]

/-- A member of a group: its mat and its position (R211). -/
def members (ms : List Nat) : List (Nat × Nat × Nat) :=
  let r0 := (ms.map (fun m => m % 4 / 2)).foldl min 1
  let c0 := (ms.map (fun m => m % 2)).foldl min 1
  ms.map (fun m => (m, m % 4 / 2 - r0, m % 2 - c0))

/-- The members of the group of an accumulator, each with its accumulator (R211). -/
def Cell.group (x : Cell) (k : Nat) : List (Nat × Nat × Nat × Nat) :=
  (members (x.groupOf (k / 2))).map (fun m => (2 * m.1 + k % 2, m.1, m.2.1, m.2.2))

/-- a_k is the leader's and is not lo (R237). -/
def Cell.shapeOk (x : Cell) (k : Nat) : Bool := (x.groupOf (k / 2)).head? == some (k / 2) && !dkLo (x.dk k)

/-- A side is in STRAND mode. -/
def Cell.strandMode (x : Cell) (side : Nat) : Bool := tget false x.strandSide side

def sideOf (acc : Nat) : Nat := acc / 8

/-- An operation in flight on any of some accumulators; chunks count only if asked (R219, condition 4). -/
def Cell.pendingOn (x : Cell) (accs : List Nat) (chunks : Bool) : Bool :=
  x.ops.any (fun o => o.accs.any (fun a => accs.contains a) && (chunks || (match o.body with | .chunk _ => false | _ => true)))

/-- One of those operations is a drain that finds its result queue full (R219). -/
def Cell.stalledOn (x : Cell) (accs : List Nat) : Bool :=
  x.ops.any (fun o => o.accs.any (fun a => accs.contains a) &&
    (match o.body with | .drainQ y _ _ => decide (16 ≤ ((x.strand o.sc).yq y.toNat).length) | _ => false))

/-- A mat has something in flight. -/
def Cell.matBusy (x : Cell) (m : Nat) : Bool := x.ops.any (fun o => o.accs.any (fun a => a / 2 == m))

/-- A mat's accumulator path is free (R219, condition 5): drains into queues, saves and restores keep it until they complete. -/
def Cell.pathFree (x : Cell) (m : Nat) : Bool :=
  decide (tget 0 x.path m ≤ x.time) && !x.ops.any (fun o => o.accs.any (fun a => a / 2 == m) &&
    (match o.body with
     | .drainQ .. => true
     | .mlines _ _ _ _ .msave => true
     | .mlines _ _ _ _ (.mrest _) => true
     | _ => false))

def Cell.setPath (x : Cell) (ms : List Nat) (t : Nat) : Cell := { x with path := ms.foldl (fun p m => tput m t p) x.path }

/-- What an open chain keeps of an accumulator (R255). -/
inductive Zone where
  | free | score | obank
  deriving DecidableEq, Repr

def Cell.zone (x : Cell) (k : Nat) : Zone :=
  match x.chain with
  | none => .free
  | some ch => if k < 8 then .score else if ch.wide || (k % 2 == 1) == ch.bank then .obank else .free

/-! ### Claims (R209) -/

/-- The sides that a word claims (R209, R223, R241). -/
def claimSides : Instr → List Nat
  | .mFuse _ c =>
    let n := c.toNat
    if n = 0 then [0, 1] else if n ≤ 4 ∨ n = 9 ∨ n = 11 then [0] else if n ≤ 8 ∨ n = 10 ∨ n = 12 then [1] else []
  | .mZero _ k => [sideOf k.toNat]
  | .mMma _ _ k _ _ _ _ => [sideOf k.toNat]
  | .mMmaw _ _ k _ _ _ _ => [sideOf k.toNat]
  | .mDrain _ k _ _ => [sideOf k.toNat]
  | .mDrainQ _ k _ => [sideOf k.toNat]
  | .mDrainPeer _ k _ _ => [sideOf k.toNat]
  | .mScale _ k _ => [sideOf k.toNat]
  | .mMsave _ t _ _ => [t.toNat / 4]
  | .mMrest _ t _ _ => [t.toNat / 4]
  | .mChb .. => [0, 1]
  | _ => []

/-- The guard of an M word. -/
def mGuard : Instr → Guard
  | .mFuse g _ | .mZero g _ | .mMma g _ _ _ _ _ _ | .mMmaw g _ _ _ _ _ _ | .mDrain g _ _ _ | .mDrainQ g _ _ | .mDrainPeer g _ _ _ => g
  | .mScale g _ _ | .mMsave g _ _ _ | .mMrest g _ _ _ | .mChb g _ _ _ _ => g
  | _ => ⟨true, 0⟩

/-- A word of strand sc at the head of its M queue claims a side. -/
def State.claims (s : State) (c sc side : Nat) : Bool :=
  let x := s.cell c
  let st := x.strand sc
  st.st == .running && st.trap.isNone && !st.swStop &&
    (match (match st.replay.find? (fun z => z.eng.toNat == 5) with | some z => some (z.ent, true) | none => (st.engq 5).head?.map (·, false)) with
     | none => false
     | some (e, re) =>
       match decodeWord e.word with
       | .error _ => false
       | .ok i => (claimSides i).contains side && (re || e.passed || guardP st e (mGuard i)) && !heldBy x sc e.seq 5 (isWriter i))

/-- A side is being claimed, or has been in a cycle in which no task ran there: the scheduler starts no task there (R209). -/
def State.claimed (s : State) (c side : Nat) : Bool :=
  [0, 1, 2, 3].any (fun sc => s.claims c sc side) || (tfind side (s.cell c).claim).isSome

/-- SIDE_CLAIM (R209): in the cycle after the first in which no task runs on a claimed side, it becomes STRAND, whether the word that claimed
it still stands there or not. -/
def execSideClaim (c side : Nat) (s : State) : Host.Outcome State Fault Refusal :=
  let x := s.cell c
  if x.strandMode side || !s.claimed c side || (tfind side x.sideTask).isSome then .next s
  else
    match tfind side x.claim with
    | none => .next (s.modCell c (fun x => { x with claim := tput side x.time x.claim }))
    | some t =>
      if t < x.time then .next (s.modCell c (fun x => { x with claim := tdel side x.claim, strandSide := tput side true x.strandSide }))
      else .next s

/-! ### The issue of M words -/

/-- A fault of an M word that has no access address (R396). -/
def chainFault (s : State) (k : Nat) (body : Issue) : Issue := if s.here.zone k = .free then body else faultW s Code.chain

/-- MATSHAPE unless a_k is the leader's and not lo (R226, R237). -/
def withShape (s : State) (k : Nat) (body : Issue) : Issue := if s.here.shapeOk k then body else faultW s Code.matshape

/-- POISON if a word reads a poisoned accumulator or deckle register (R214), with the word's access address (R396). -/
def withSoundAt (s : State) (a : Dword) (accs : List Nat) (body : Issue) : Issue :=
  if accs.any (fun k => let p := s.here.acc k; p.poison || p.dpoison) then .fault Code.poison a else body

/-- POISON of a word without an access address. -/
def withSound (s : State) (accs : List Nat) (body : Issue) : Issue := withSoundAt s s.cur.ent.addr accs body

/-- The sides that m.fuse names. -/
def fuseSides (n : Nat) : List Nat :=
  if n = 0 ∨ n = 15 then [0, 1] else if n ≤ 4 ∨ n = 9 ∨ n = 11 ∨ n = 13 then [0] else [1]

def sideMats (side : Nat) : List Nat := span (4 * side) 4

/-- A released side (R223). -/
def Cell.releaseSide (x : Cell) (side : Nat) : Cell :=
  if x.strandMode side then
    { x with accs := x.accs.filter (fun e => e.1 / 8 != side), dks := x.dks.filter (fun e => e.1 / 8 != side),
             shapes := x.shapes.filter (fun sh => !(shapeMats sh).any (fun m => m / 4 == side)),
             strandSide := tset false x.strandSide side false, claim := tdel side x.claim, freeSince := tput side x.time x.freeSince }
  else x

/-- The shapes after a shape code, or none for MATSHAPE (R210). -/
def Cell.reshape (x : Cell) (n : Nat) : Option (List Nat) :=
  let without (sides : List Nat) : List Nat := x.shapes.filter (fun sh => !(shapeMats sh).any (fun m => sides.contains (m / 4)))
  if n = 0 then some [] else if n = 11 then some (without [0]) else if n = 12 then some (without [1])
  else if n = 9 ∨ n = 10 then some (without [n - 9] ++ [n])
  else if x.shapes.contains n then some x.shapes
  else if (shapeMats n).all (fun m => x.groupOf m == [m]) then some (x.shapes ++ [n]) else none

/-- MFuse (R210, R223). -/
def execMFuse (g : Guard) (code : BitVec 5) (s : State) : Host.Outcome State Fault Refusal :=
  issueWord false g s (fun s =>
    let n := code.toNat
    let x := s.here
    if 16 ≤ n then faultW s Code.matshape
    else
      let sides := fuseSides n
      let release := decide (13 ≤ n)
      if !release && !sides.all x.strandMode then .hold false
      else if (sides.flatMap sideMats).any x.matBusy then .hold false
      else if x.chain.isSome then faultW s Code.chain
      else if release then .done 1 (s.modHere (fun x => sides.foldl Cell.releaseSide x))
      else
        match x.reshape n with
        | some l => .done 1 (s.modHere (fun x => { x with shapes := l }))
        | none => faultW s Code.matshape)

/-- MZero (R224). -/
def execMZero (g : Guard) (k : BitVec 4) (s : State) : Host.Outcome State Fault Refusal :=
  issueWord false g s (fun s =>
    let x := s.here
    let accs := (x.group k.toNat).map (·.1)
    if !x.strandMode (sideOf k.toNat) then .hold false
    else if x.pendingOn (accs.flatMap x.pair) true then .hold (x.stalledOn (accs.flatMap x.pair))
    else chainFault s k.toNat (withShape s k.toNat (.done 1 (s.modHere (fun x => accs.foldl Cell.clearAcc x)))))

/-! ### m.mma and m.mmaw (R225, R226) -/

/-- The registers of an operand of a group: t_i, and t_(i+1) when it is doubled (R211). -/
def operandRegs (i : Nat) (dbl : Bool) : List Nat := if dbl then [i, i + 1] else [i]

/-- A register agrees with the entry of a .ft word (R226). -/
def ftAgrees (t : Tile) (fmt pl : Nat) (scaled : Bool) : Bool :=
  t.fmt.toNat == fmt && (if fmt = 5 then pl != 0 && decide (pl ≤ t.pl.toNat) else pl == 0) &&
    ((fmt != 3 && fmt != 4) || t.sc == scaled)

/-- The checks of R226 on operand registers: none, or the fault. -/
def operandFault (s : State) (ta tb : List Tile) (e : Option (BitVec 32)) : Option (Code × Dword) :=
  if (ta ++ tb).any (fun t => !isMatFmt t.fmt.toNat) then some (Code.illegal, s.cur.ent.addr)
  else
    match e with
    | none => none
    | some e =>
      let sc := (ftScale e).getLsbD 0
      if ta.all (fun t => ftAgrees t (ftAfmt e) (ftApl e) sc) && tb.all (fun t => ftAgrees t (ftBfmt e) (ftBpl e) sc) then none
      else some (Code.illegal, s.cur.ent.addr)

/-- The deferred fault of an operand register (R322): it comes before every check of what the register holds. -/
def deferredFault (ts : List Tile) : Option (Code × Dword) := (ts.findSome? (·.dfault)).map (fun e => (e.1, e.2.zeroExtend 64))

/-- The poison of an operand register (R214). -/
def tileFault (s : State) (ts : List Tile) : Option (Code × Dword) :=
  if ts.any (·.poison) then some (Code.poison, s.cur.ent.addr) else none

def orFault (f : Option (Code × Dword)) (k : Issue) : Issue := match f with | some (c, a) => .fault c a | none => k

/-- The planes that an operand is read with. -/
def readPlanes (t : Tile) (e : Option (BitVec 32)) (pl : BitVec 32 → Nat) : Nat :=
  match e with
  | some e => pl e + 1
  | none => t.pl.toNat + 1

/-- A cell after the issue of a chunk: accumulators widened (R215), dk.mode copied from the entry (R217), arrays busy, registers that empty
in the next cycle (R212). -/
def Cell.takeOperands (x : Cell) (gr : List (Nat × Nat × Nat × Nat)) (wide : Bool) (occ : Nat) (e : Option (BitVec 32)) (rel : List Nat) : Cell :=
  let accs : List Nat := List.map (fun m => m.1) gr
  let mats : List Nat := List.map (fun m => m.2.1) gr
  let x : Cell := if wide then accs.foldl Cell.widen x else x
  let x : Cell := match e with
    | some e => accs.foldl (fun (y : Cell) k => y.setDk k (dkSet (y.dk k) 64 2 (ftDk e))) x
    | none => x
  { x with array := mats.foldl (fun a m => tput m (x.time + occ) a) x.array, emptying := x.emptying ++ rel }

/-- The issue of a chunk whose entry, if it is .ft, is known. -/
def mmaIssue (s : State) (wop : Bool) (k i j : Nat) (ri rj : Bool) (e : Option (BitVec 32)) : Issue :=
  let x := s.here
  let gr := x.group k
  let dblA := gr.any (fun m => m.2.2.1 != 0)
  let dblB := gr.any (fun m => m.2.2.2 != 0)
  let ra := (operandRegs i dblA).filter (fun r => decide (r < 16))
  let rb := (operandRegs j dblB).filter (fun r => decide (r < 16))
  let ta := ra.map x.tile
  let tb := rb.map x.tile
  let wide := wop || (match e with | some e => ftWide e | none => false)
  orFault (deferredFault (ta ++ tb)) (orFault (operandFault s ta tb e) (
    if !x.shapeOk k || (dblA && i % 2 == 1) || (dblB && j % 2 == 1) ||
       (wide && gr.any (fun m => dkWide (x.dk (partner m.1)))) then faultW s Code.matshape
    else
      orFault (tileFault s (ta ++ tb)) (withSound s (gr.flatMap (fun m => x.pair m.1)) (
        let occ := ((ta.map (fun t => occOf t.fmt.toNat (readPlanes t e ftApl))) ++
          (tb.map (fun t => occOf t.fmt.toNat (readPlanes t e ftBpl)))).foldl max 0
        let staged := gr.map (fun m =>
          let tx := x.tile (i + if dblA then m.2.2.1 else 0)
          let ty := x.tile (j + if dblB then m.2.2.2 else 0)
          ({ acc := m.1, wide := wide || dkWide (x.dk m.1), widens := wide && !dkWide (x.dk m.1), x := tx, y := ty, px := readPlanes tx e ftApl, py := readPlanes ty e ftBpl } : Staged))
        let s := s.modHere (fun x => x.takeOperands gr wide occ e ((if ri then ra else []) ++ (if rj then rb else [])))
        .done 1 (s.startOp (occ + 20) (.chunk staged) (fun o => { o with accs := gr.flatMap (fun m => s.here.pair m.1) })).2))))

/-- A chunk word: its holds (R219), then its issue. -/
def mmaWord (wop : Bool) (g : Guard) (f : Bool) (k : BitVec 4) (ri : Bool) (i : BitVec 4) (rj : Bool) (j : BitVec 4) (s : State) :
    Host.Outcome State Fault Refusal :=
  issueWord false g s (fun s =>
    let x := s.here
    let gr := x.group k.toNat
    let dblA := gr.any (fun m => m.2.2.1 != 0)
    let dblB := gr.any (fun m => m.2.2.2 != 0)
    let regs := (operandRegs i.toNat dblA ++ operandRegs j.toNat dblB).filter (fun r => decide (r < 16))
    let accs := gr.map (·.1)
    -- a word that widens takes the partners too (R215)
    let wide := wop || (f && (match s.ftEntry s.cur.cell (ftIndex s.cur.ent) with | .ok e => ftWide e | .error _ => false))
    let takes := if wide then accs ++ accs.map partner else accs.flatMap x.pair
    if !x.strandMode (sideOf k.toNat) || regs.any (fun r => (x.tile r).st != .full) ||
       gr.any (fun m => decide (x.time < tget 0 x.array m.2.1)) then .hold false
    else if x.pendingOn takes false then .hold (x.stalledOn takes)
    else if x.chain.isSome then faultW s Code.chain
    else if f then withEntry s (fun e => mmaIssue s wop k.toNat i.toNat j.toNat ri rj (some e))
    else mmaIssue s wop k.toNat i.toNat j.toNat ri rj none)

/-- MMma (R225, R226). -/
def execMMma (g : Guard) (f : Bool) (k : BitVec 4) (r : Bool) (i : BitVec 4) (q : Bool) (j : BitVec 4) (s : State) :
    Host.Outcome State Fault Refusal := mmaWord false g f k r i q j s

/-- MMmaw (R225, R226). -/
def execMMmaw (g : Guard) (f : Bool) (k : BitVec 4) (r : Bool) (i : BitVec 4) (q : Bool) (j : BitVec 4) (s : State) :
    Host.Outcome State Fault Refusal := mmaWord true g f k r i q j s

/-- One member's chunk is added: result, bound and flags (R77, R80, R217). A member whose accumulator is lo takes it like any other
(R225). -/
def Cell.addStaged (x : Cell) (m : Staged) : Cell × Flags :=
  let x := if m.widens then x.discardPartner m.acc else x
  let d := x.dk m.acc
  let xs := (upto 64).map (m.x.rowVals m.px)
  let ys := (upto 64).map (m.y.rowVals m.py)
  let lo := accList (x.acc (partner m.acc)).val
  let (h, l, fl) := chunkTile m.wide (accList (x.acc m.acc).val) lo xs ys
  let b := chunkBound m.wide h (dkBound d) m.x.beta m.y.beta xs ys
  let x := (x.setAcc m.acc { x.acc m.acc with val := ofAccList h }).setDk m.acc (d.setBound b)
  (if m.wide then x.setAcc (partner m.acc) { x.acc (partner m.acc) with val := ofAccList l } else x,
   fl ||| chunkOvf h (dkBound d) m.x.beta m.y.beta b)

/-- CHUNK_RESULT (R220, R225): at issue + occ + 20 the results and bounds are written. -/
def execChunkResult (c id : Nat) (s : State) : Host.Outcome State Fault Refusal :=
  match s.findOp c id with
  | some o =>
    (match o.body with
     | .chunk ms =>
       if (s.cell c).time < o.due then .next s
       else
         let (x, fl) := ms.foldl (fun (e : Cell × Flags) m => let (y, f) := e.1.addStaged m; (y, e.2 ||| f)) (s.cell c, 0)
         .next (((s.modCell c (fun _ => x)).flagNow c o.sc fl).endOp c id)
     | _ => .next s)
  | none => .next s

/-! ### Drains (R218, R227 to R231) -/

/-- One member's conversion at a drain, and whether its bound passes its threshold. -/
structure Drained where
  acc : Nat
  mat : Nat
  r : Nat
  c : Nat
  conv : Conv
  exc : Bool
  mode : Nat

/-- The members of a drain, converted. -/
def drainMembers (x : Cell) (k : Nat) (sp : ConvSpec) (col0 row0 : Nat) : List Drained :=
  (x.group k).map (fun m =>
    let (hi, lo) := x.words m.1
    let d := x.dk m.1
    let cv := (convTile { sp with row0 := row0 + 64 * m.2.2.1, col0 := col0 + 64 * m.2.2.2 } hi lo (dkBound d)).getD {}
    { acc := m.1, mat := m.2.1, r := m.2.2.1, c := m.2.2.2, conv := cv, exc := exceeds cv.bound (dkThr d), mode := dkMode d })

/-- The issue of a drain whose members are converted: TRAP and REISSUE stop it with DECKLE, leaving dk.exc set (R218). s0 is the state
before the word's pops. -/
def withDeckle (s0 : State) (ds : List Drained) (k : Issue) : Issue :=
  let bad := ds.filter (fun d => d.exc && decide (2 ≤ d.mode))
  if bad.isEmpty then k
  else .gone ((s0.modHere (fun x => bad.foldl (fun x d => x.setDk d.acc (dkSet (x.dk d.acc) 67 1 1)) x)).raise Code.deckle s0.cur.ent.addr)

/-- What the completion of a drain does to its members. -/
def drainMems (ds : List Drained) : List DrainMem :=
  ds.map (fun d => { acc := d.acc, bound := d.conv.bound, exc := d.exc && d.mode != 0, ovf := d.conv.ovf })

/-- The holds and the first checks of a drain (R219, R227). blocked says whether a queue row or send-buffer entry is missing. -/
def drainWord (pfx : Bool) (g : Guard) (k : Nat) (srcs : List (BitVec 6)) (s : State) (blocked : State → Option Bool)
    (body : BitVec 32 → List Sval → State → Issue) : Host.Outcome State Fault Refusal :=
  issueWord pfx g s (fun s => withScalars srcs s (fun xs s =>
    let x := s.here
    let accs := (x.group k).map (·.1)
    let all := accs.flatMap x.pair
    if !x.strandMode (sideOf k) then .hold false
    else if x.pendingOn all true then .hold (x.stalledOn all)
    else if !(x.group k).all (fun m => x.pathFree m.2.1) then .hold false
    else
      match blocked s with
      | some q => .hold q
      | none =>
        noPoison xs (chainFault s k (withEntry s (fun e =>
          if 12 ≤ ftOut e ∨ 6 ≤ ftRnd e then faultW s Code.illegal
          else withShape s k (body e xs s))))))

/-- The flags of a drain's rows: row i at issue + 8 + i (R71, R220). -/
def State.drainFlags (s : State) (ds : List Drained) : State :=
  (upto 64).foldl (fun s i => s.flag (8 + i) (orFlags (ds.map (fun d => d.conv.flags.getD i 0)))) s

/-- The lines of a scratch drain, one group for each row of the members: data, then scales (R193, R220, R228). -/
def drainGroups (e : TEntry) (ds : List Drained) (out k row0 cb w : Nat) : List (List Part) :=
  (upto 64).map (fun i => ds.flatMap (fun d =>
    let row := row0 + 64 * d.r + i
    let data := withData (partsOf e.desc e.base (row * tdRb e.desc + cb + d.c * w) w) (rowBytes out k (d.conv.rows.getD i []))
    let sc := match d.conv.scales[i]? with
      | some b => withData (partsOf e.desc e.base (tdScaleOff e.desc + row * tdBlocks e.desc + cb / w + d.c) 1) [b]
      | none => []
    data ++ sc))

/-- The bound words of a scratch drain, in member order: they are written in the cycle in which it completes (R193, R220, R228). -/
def drainBounds (e : TEntry) (ds : List Drained) (row0 cb w : Nat) : List (List Part) :=
  if !tdBd e.desc then []
  else
    [(ds.zip (drainMems ds)).flatMap (fun m =>
      withData (partsOf e.desc e.base (tdBoundOff e.desc + 4 * ((row0 / 64 + m.1.r) * tdBlocks e.desc + cb / w + m.1.c)) 4)
        (leBytes (storedBound m.2.bound m.2.exc).toNat 4))]

/-- MDrain (R227, R228). -/
def execMDrain (g : Guard) (k : BitVec 4) (a b : BitVec 6) (s0 : State) : Host.Outcome State Fault Refusal :=
  drainWord true g k.toNat [a, b] s0 (fun _ => none) (fun e xs s =>
    let x := s.here
    let h := (opnd xs 0).val
    let o := offsetOf s xs
    let out := ftOut e
    match s.scratchHandle s.cur.cell h with
    | none => .fault Code.handle o
    | some t =>
      let d := t.desc
      let np := if out = 5 then tdPl d + 1 else 8
      let w := blockBytes out np
      let row0 := o.toNat / tdRb d
      let cb := o.toNat % tdRb d
      let nr := 1 + ((x.group k.toNat).map (fun m => m.2.2.1)).foldl max 0
      let nc := 1 + ((x.group k.toNat).map (fun m => m.2.2.2)).foldl max 0
      if tdFmt d ≠ out ∨ ((out = 3 ∨ out = 4) ∧ tdSc d ≠ (ftScale e).getLsbD 1) then faultW s Code.illegal
      else if cb % w != 0 || (tdBd d && row0 % 64 != 0) then .fault Code.align o
      else if o.toInt < 0 ∨ tdRows d ≤ row0 + 64 * nr - 1 ∨ tdRb d < cb + nc * w then .fault Code.bounds o
      else withSoundAt s o ((x.group k.toNat).flatMap (fun m => x.pair m.1)) (
        let ds := drainMembers x k.toNat { out := out, rnd := ftRnd e, k := np, scaled := (ftScale e).getLsbD 1 && (out == 3 || out == 4), key := s.me.srkey }
          (cb / w * 64) row0
        withDeckle s0 ds (
          let gs := drainGroups t ds out np row0 cb w ++ drainBounds t ds row0 cb w
          let s := (s.drainFlags ds).modHere (fun x => x.setPath (ds.map (·.mat)) (x.time + 64))
          .done 1 (s.startOp 72 (.mlines false (s.now + 8) gs [] (.drain (drainMems ds))) (fun p => { p with
            ops := xs.map (·.val), addr := some o, uses := [.scratch s.cur.cell (hdIdx h)], accs := ds.flatMap (fun m => x.pair m.acc) })).2)))

/-- The formats of a drain to a result queue (R229). -/
def queueFmt (out : Nat) (scaled : Bool) : Bool := (decide (out ≤ 4) || (decide (6 ≤ out) && decide (out ≤ 10))) && !(scaled && (out == 3 || out == 4))

/-- The rows of a drain to a result queue, with their flags (R229). -/
def queueRows (ds : List Drained) (out : Nat) : List (Vec × BitVec 5) :=
  let nr := 1 + (ds.map (·.r)).foldl max 0
  (upto (64 * nr)).flatMap (fun gr => (ds.filter (fun d => d.r == gr / 64)).map (fun d =>
    (packElems (8 * elemBytes out) (d.conv.rows.getD (gr % 64) []), d.conv.flags.getD (gr % 64) 0)))

/-- MDrainQ (R227, R229). -/
def execMDrainQ (g : Guard) (k : BitVec 4) (y : BitVec 2) (s0 : State) : Host.Outcome State Fault Refusal :=
  drainWord false g k.toNat [] s0 (fun s => if 16 ≤ (s.me.yq y.toNat).length then some true else none) (fun e _ s =>
    let x := s.here
    let out := ftOut e
    if !queueFmt out ((ftScale e).getLsbD 1) then faultW s Code.illegal
    else withSound s ((x.group k.toNat).flatMap (fun m => x.pair m.1)) (
      let ds := drainMembers x k.toNat { out := out, rnd := ftRnd e, key := s.me.srkey } 0 0
      withDeckle s0 ds (
        .done 1 (s.startOp 8 (.drainQ y (queueRows ds out) (drainMems ds)) (fun p => { p with
          accs := ds.flatMap (fun m => x.pair m.acc) })).2)))

/-- MDrainPeer (R227, R230). -/
def execMDrainPeer (g : Guard) (k : BitVec 4) (a b : BitVec 6) (s0 : State) : Host.Outcome State Fault Refusal :=
  drainWord true g k.toNat [a, b] s0 (fun s => if s.sendFree then none else some false) (fun e xs s =>
    let x := s.here
    let tc := (opnd xs 0).val.toNat % 128
    let o := offsetOf s xs
    if (x.group k.toNat).length ≠ 1 then faultW s Code.matshape
    else if ftOut e ≠ 0 then faultW s Code.illegal
    else if !s.inShape (s.vfOf s.cur.cell) tc then faultW s Code.window
    else if 15 < o.toNat then .fault Code.bounds o
    else withSound s (x.pair k.toNat) (
      let ds := drainMembers x k.toNat { out := 0, rnd := ftRnd e, key := s.me.srkey } 0 0
      withDeckle s0 ds (
        let vals := ofAccList ((ds.flatMap (fun d => d.conv.rows.flatten)).map (BitVec.ofNat 32))
        let bound := ((ds.head?.map (fun d => d.conv.bound)).getD 0)
        let s := (s.drainFlags ds).modHere (fun x => x.setPath (ds.map (·.mat)) (x.time + 64))
        .done 1 (s.startOp 136 (.drainP (drainMems ds)) (fun p => { p with
          ops := xs.map (·.val), buf := .send, accs := x.pair k.toNat, req := some (.peerDrain tc o.toNat vals bound) })).2)))

/-- The completion of a drain (R218, R224, R227): accumulators emptied, dk.last, dk.exc and stat.dkx set. -/
def State.finishDrain (s : State) (c : Nat) (o : Op) (mem : List DrainMem) : State :=
  let s := mem.foldl (fun s m =>
    let st := storedBound m.bound m.exc
    s.modCell c (fun x =>
      let x := x.clearAcc m.acc
      x.setDk m.acc (dkSet (dkSet (x.dk m.acc) 72 32 st.toNat) 67 1 (if m.exc then 1 else 0)))) s
  (s.flagNow c o.sc (orFlags ((if mem.any (·.exc) then Flags.dkx else 0) :: mem.map (·.ovf)))).endOp c o.id

/-! ### Lines at the cell port (R185, R220) -/

/-- The first parts of a group that meet no bank taken in this cycle, and the rest; two parts in one line are one access. -/
def portSplit : List Part → List Nat → List Nat → List Part × List Part × List Nat
  | [], _, lines => ([], [], lines)
  | p :: r, used, lines =>
    let line := p.addr / 64
    if used.contains (line % 32) || lines.any (fun l => l % 32 == line % 32 && l != line) then ([], p :: r, lines)
    else
      let (a, b, ls) := portSplit r used (if lines.contains line then lines else line :: lines)
      (p :: a, b, ls)

/-- Parts are read or written. -/
def State.moveParts (s : State) (c id : Nat) (rd : Bool) (ps : List Part) : State :=
  if rd then
    let (got, bad) := s.readParts c none ps [] none
    s.modOp c id (fun o => { o with
      err := (match o.err, bad with | none, some _ => some (Code.poison, o.addr.getD 0) | e, _ => e),
      body := (match o.body with | .mlines r st todo g w => .mlines r st todo (writeAll g got) w | b => b) })
  else s.writeParts c ps

/-- The line group of an M operation due in cycle t: what the port lets through, and the banks taken. Each collision delays the later lines
and the completion by one cycle (R220). -/
def State.portLines (s : State) (c : Nat) (o : Op) (used : List Nat) : State × List Nat :=
  match o.body with
  | .mlines rd start (g :: rest) _ what =>
    let t := (s.cell c).time
    if t < start then (s, used)
    else
      let (now, later, lines) := portSplit g used []
      let s := s.moveParts c o.id rd now
      let s := s.modOp c o.id (fun q => { q with
        due := if later.isEmpty then q.due else q.due + 1,
        body := (match q.body with
          | .mlines _ _ _ got _ => .mlines rd (t + 1) (if later.isEmpty then rest else later :: rest) got what
          | b => b) })
      (s, used ++ lines.map (· % 32))
  -- the output of a close is due at issue + 4 (R246)
  | .che y rows (some ps) =>
    if (s.cell c).time < o.issued + 4 then (s, used)
    else
      let (now, later, lines) := portSplit ps used []
      ((s.writeParts c now).modOp c o.id (fun q => { q with
        body := .che y rows (if later.isEmpty then none else some later), uses := if later.isEmpty then [] else q.uses }), used ++ lines.map (· % 32))
  | _ => (s, used)

/-- The banks that the chain's reads want in this cycle: the next lines of the keys of each step, and of its values from its value phase on. -/
def Cell.chainBanks (x : Cell) : List Nat :=
  let banks (k : ChSrc) : List Nat := if k.land.isSome then [] else (k.todo.headD []).map Part.bank
  match x.chain with
  | some ch => ch.steps.flatMap (fun st => banks st.key ++ (if st.vs ≤ x.time then banks st.val else []))
  | none => []

/-- The lines that an operation moves in the cycle in which it completes: true when none is left. One that meets a bank already taken, or
wanted by the chain, delays the completion by a cycle (R220, R246). -/
def State.flushLines (s : State) (c : Nat) (o : Op) : Bool × State :=
  match o.body with
  | .mlines rd _ todo _ _ =>
    let x := s.cell c
    let (now, later, lines) := portSplit todo.flatten (x.chainBanks ++ x.taken) []
    let s := (s.moveParts c o.id rd now).modCell c (fun x => { x with taken := x.taken ++ lines.map (· % 32) })
    (later.isEmpty, s.modOp c o.id (fun q => { q with
      due := if later.isEmpty then q.due else q.due + 1,
      body := (match q.body with | .mlines rd _ _ got w => .mlines rd (x.time + 1) (if later.isEmpty then [] else [later]) got w | b => b) }))
  | _ => (true, s)

/-- DRAIN_COMPLETION (R220, R227): a scratch drain completes at issue + 72, later by its collisions, with its bound words. -/
def execDrainCompletion (c id : Nat) (s : State) : Host.Outcome State Fault Refusal :=
  match s.findOp c id with
  | some o =>
    (match o.body with
     | .mlines _ _ _ _ (.drain mem) =>
       if (s.cell c).time < o.due then .next s
       else
         let (done, s) := s.flushLines c o
         .next (if done then s.finishDrain c o mem else s)
     | _ => .next s)
  | none => .next s

/-- RESULT_QUEUE_ROW_PUSH (R229, R248): one row enters the queue while a row is free; a drain completes at its last push. -/
def execResultQueueRowPush (c id : Nat) (s : State) : Host.Outcome State Fault Refusal :=
  match s.findOp c id with
  | none => .next s
  | some o =>
    let t := (s.cell c).time
    let push (y : BitVec 2) (v : Vec) : State := s.modStrand c o.sc (fun st => { st with y := tset [] st.y y.toNat (st.yq y.toNat ++ [v]) })
    let free (y : BitVec 2) : Bool := decide (((s.strand c o.sc).yq y.toNat).length < 16)
    match o.body with
    | .drainQ y ((v, fl) :: rest) mem =>
      if !(s.cell c).runs || t < o.due || !free y then .next s
      else
        let s := (push y v).flagNow c o.sc fl
        if rest.isEmpty then .next (s.finishDrain c o mem)
        else .next (s.modOp c id (fun q => { q with due := t + 1, body := .drainQ y rest mem }))
    | .che (some y) (v :: rest) out =>
      if !(s.cell c).runs || t < o.issued + 2 || !free y || (4 - (v :: rest).length) + o.issued + 2 > t then .next s
      else
        let s := push y v
        -- the chain has closed already when its operation holds no accumulator
        if rest.isEmpty && o.accs.isEmpty then .next (s.endOp c id)
        else .next (s.modOp c id (fun q => { q with body := .che (some y) rest out }))
    | _ => .next s

/-- An operation of a cell that stands before operation i acts on one of its accumulators (R221). -/
def Cell.pendingBefore (x : Cell) (i : Nat) (accs : List Nat) : Bool :=
  (x.ops.takeWhile (fun o => o.id != i)).any (fun o => o.accs.any (fun a => accs.contains a))

/-- PEER_ADDITION (R221, R231): a peer drain's request arrives at the target and takes its place after every M word issued there. Once
nothing is before it the addition is refused or starts, and 66 cc later the values and the bound are added. i is the drain's operation,
or the addition at its target. -/
def execPeerAddition (i : Nat) (s : State) : Host.Outcome State Fault Refusal :=
  match s.findAny i with
  | none => .next s
  | some (c, o) =>
    match o.req, o.body with
    | some (.peerDrain tc p vals bound), _ =>
      let x := s.cell tc
      if !s.gateOpen tc then .next (s.modOp c i (fun q => { q with req := none, err := some (Code.fabric, o.ent.addr) }))
      else if !x.strandMode (sideOf p) || (dkLo (x.dk p) && !x.pendingOn (x.pair p) true) then
        .next (s.modOp c i (fun q => { q with req := none, err := some (Code.matshape, o.ent.addr) }))
      else
        let (id, s) := s.fresh
        .next ((s.modOp c i (fun q => { q with req := none })).addOp tc
          { id := id, sc := 5, eng := 5, ent := {}, issued := x.time, due := x.time + 66, accs := x.pair p, waits := x.pendingOn (x.pair p) true,
            body := .peerAdd p vals bound c i })
    | _, .peerAdd p vals bound sc sid =>
      if o.waits then
        let x := s.cell c
        if x.pendingBefore i o.accs then .next s
        else if !x.strandMode (sideOf p) || dkLo (x.dk p) then
          .next ((s.endOp c i).modOp sc sid (fun q => { q with err := some (Code.matshape, q.ent.addr) }))
        else .next (s.modOp c i (fun q => { q with waits := false, due := x.time + 66, accs := x.pair p }))
      else if (s.cell c).time < o.due then .next s
      else
        let x := s.cell c
        let (hi, lo) := x.words p
        let (h, l, b) := addTile lo.isSome hi (lo.getD []) (dkBound (x.dk p)) (accList vals) bound
        let x := (x.setAcc p { x.acc p with val := ofAccList h }).setDk p ((x.dk p).setBound b)
        let x := if lo.isSome then x.setAcc (partner p) { x.acc (partner p) with val := ofAccList l } else x
        .next ((s.modCell c (fun _ => x)).endOp c i)
    | _, _ => .next s

/-- A peer drain has its answer: its values have been added at the target. -/
def State.peerDone (s : State) (c id : Nat) : Bool :=
  !s.cells.any (fun e => e.2.ops.any (fun o => match o.body with | .peerAdd _ _ _ sc sid => sc == c && sid == id | _ => false))

/-- PEER_DRAIN_ACK (R230): at the later of issue + 136 and its answer a peer drain completes or faults; until then the cell freezes. -/
def execPeerDrainAck (c id : Nat) (s : State) : Host.Outcome State Fault Refusal :=
  match s.findOp c id with
  | some o =>
    (match o.body with
     | .drainP mem =>
       if (s.cell c).time < o.due then .next s
       else
         match o.err with
         | some (code, a) => .next (s.lateFault c o code a)
         | none =>
           if o.req.isNone && s.peerDone c id && (!s.env.slow.contains id || (s.cell c).frozenOn.contains id) then .next (s.finishDrain c o mem)
           else .next (s.freezeOn c id)
     | _ => .next s)
  | none => .next s

/-! ### m.scale, m.dkr, m.dkw, m.tfree, m.mwait (R232 to R235) -/

/-- MScale (R232). -/
def execMScale (g : Guard) (k : BitVec 4) (a : BitVec 6) (s : State) : Host.Outcome State Fault Refusal :=
  issueWord false g s (fun s => withScalars [a] s (fun xs s =>
    let x := s.here
    let accs := (x.group k.toNat).map (·.1)
    let all := accs.flatMap x.pair
    if !x.strandMode (sideOf k.toNat) then .hold false
    else if x.pendingOn all true then .hold (x.stalledOn all)
    else if !(x.group k.toNat).all (fun m => x.pathFree m.2.1) then .hold false
    else noPoison xs (chainFault s k.toNat (withShape s k.toNat (withSound s all (
      let s := s.modHere (fun x => x.setPath ((x.group k.toNat).map (fun m => m.2.1)) (x.time + 64))
      .done 1 (s.startOp 66 (.scale accs ((opnd xs 0).val.truncate 32)) (fun o => { o with ops := xs.map (·.val), accs := all })).2))))))

/-- The completion of m.scale. -/
def State.finishScale (s : State) (c : Nat) (o : Op) (accs : List Nat) (f : BitVec 32) : State :=
  accs.foldl (fun s k =>
    let x := s.cell c
    let (hi, lo) := x.words k
    let (h, l, b, fl) := scaleTile lo.isSome hi (lo.getD (hi.map (fun _ => 0))) (dkBound (x.dk k)) f
    let x := (x.setAcc k { x.acc k with val := ofAccList h }).setDk k ((x.dk k).setBound b)
    let x := if lo.isSome then x.setAcc (partner k) { x.acc (partner k) with val := ofAccList l } else x
    (s.modCell c (fun _ => x)).flagNow c o.sc fl) s

/-- MDkr (R209, R233, R255). -/
def execMDkr (g : Guard) (d : BitVec 6) (k : BitVec 4) (h : Bool) (s : State) : Host.Outcome State Fault Refusal :=
  issueWord false g s (fun s =>
    let x := s.here
    let all := x.pair k.toNat
    if x.pendingOn all true then .hold (x.stalledOn all)
    else roomFor d s (
      let zero := !x.strandMode (sideOf k.toNat) || x.zone k.toNat == .score
      let v : Dword := if zero then 0 else (x.dk k.toNat).extractLsb' (if h then 64 else 0) 64
      if !zero && (x.acc k.toNat).dpoison then faultW s Code.poison
      else .done 1 (s.result 2 (.s d { val := v }))))

/-- MDkw (R209, R233, R255). -/
def execMDkw (g : Guard) (k : BitVec 4) (a b : BitVec 6) (s : State) : Host.Outcome State Fault Refusal :=
  issueWord false g s (fun s => withScalars [a, b] s (fun xs s =>
    let x := s.here
    let all := x.pair k.toNat
    if x.pendingOn all true then .hold (x.stalledOn all)
    else noPoison xs (
      if x.zone k.toNat = .score then faultW s Code.chain
      else if !x.strandMode (sideOf k.toNat) then .done 1 s
      else .done 1 (s.modHere (fun x => x.setDk k.toNat (writeDeckle (x.dk k.toNat) (opnd xs 0).val (opnd xs 1).val))))))

/-- MTfree (R234). -/
def execMTfree (g : Guard) (i : BitVec 4) (s : State) : Host.Outcome State Fault Refusal :=
  issueWord false g s (fun s =>
    match (s.here.tile i.toNat).st with
    | .loading => .hold false
    | .full => .done 1 (s.modHere (fun x => { x with emptying := x.emptying ++ [i.toNat] }))
    | .empty => .done 1 s)

/-- Nothing is in flight on a mat (R235, R255). -/
def Cell.matIdle (x : Cell) (m : Nat) : Bool :=
  !x.matBusy m && decide (tget 0 x.array m ≤ x.time) && decide (tget 0 x.path m ≤ x.time) &&
    (match x.chain with | some ch => ch.steps.isEmpty | none => true) &&
    (x.strandMode (m / 4) || (tfind (m / 4) x.sideTask).isNone)

/-- MMwait (R235). -/
def execMMwait (g : Guard) (m : BitVec 8) (s : State) : Host.Outcome State Fault Refusal :=
  issueWord false g s (fun s => needs ((upto 8).all (fun i => !m.getLsbD i || s.here.matIdle i)) (.done 1 s))

/-! ### m.msave and m.mrest (R236) -/

/-- Bytes of a mat image. -/
def imageBytes : Nat := 32800

/-- The image of a mat (R236). -/
def Cell.matImage (x : Cell) (n : Nat) : List Byte :=
  leBytes (x.acc (2 * n)).val.toNat 16384 ++ leBytes (x.acc (2 * n + 1)).val.toNat 16384 ++
    leBytes (x.dk (2 * n)).toNat 16 ++ leBytes (x.dk (2 * n + 1)).toNat 16

/-- The groups of lines of an image at offset o: image line q is one group. -/
def imageGroups (e : TEntry) (o n : Nat) (data : Option (List Byte)) : List (List Part) :=
  (upto (ceilDiv n 64)).map (fun q =>
    let k := min 64 (n - 64 * q)
    (partsOf e.desc e.base (o + 64 * q) k).map (fun p =>
      { p with pos := 64 * q + p.pos, data := match data with | some l => (l.drop (64 * q + p.pos)).take p.len | none => [] }))

/-- The checks of an image's place: a SCRATCH handle, alignment to 64, and its bounds (R236, R252). -/
def withImage (s : State) (xs : List Sval) (n : Nat) (k : TEntry → Dword → Issue) : Issue :=
  let o := offsetOf s xs
  match s.scratchHandle s.cur.cell (opnd xs 0).val with
  | none => .fault Code.handle o
  | some e =>
    if o.toNat % 64 != 0 then .fault Code.align o
    else if o.toInt < 0 ∨ tdSize e.desc < o.toNat + n then .fault Code.bounds o
    else k e o

/-- The holds of m.msave and m.mrest. -/
def matWord (g : Guard) (n : Nat) (a b : BitVec 6) (s : State) (body : List Sval → State → Issue) : Host.Outcome State Fault Refusal :=
  issueWord true g s (fun s => withScalars [a, b] s (fun xs s =>
    let x := s.here
    if !x.strandMode (n / 4) then .hold false
    else if x.pendingOn [2 * n, 2 * n + 1] true then .hold (x.stalledOn [2 * n, 2 * n + 1])
    else if !x.pathFree n then .hold false
    else noPoison xs (body xs s)))

/-- MMsave (R236, R255). -/
def execMMsave (g : Guard) (t : BitVec 3) (a b : BitVec 6) (s : State) : Host.Outcome State Fault Refusal :=
  matWord g t.toNat a b s (fun xs s => withImage s xs imageBytes (fun e o =>
    let n := t.toNat
    withSoundAt s o [2 * n, 2 * n + 1] (
      .done 1 (s.startOp 516 (.mlines false (s.now + 4) (imageGroups e o.toNat imageBytes (some (s.here.matImage n))) [] .msave) (fun p => { p with
        ops := xs.map (·.val), addr := some o, uses := [.scratch s.cur.cell (hdIdx (opnd xs 0).val)], accs := [2 * n, 2 * n + 1] })).2)))

/-- MMrest (R236, R255). -/
def execMMrest (g : Guard) (t : BitVec 3) (a b : BitVec 6) (s : State) : Host.Outcome State Fault Refusal :=
  matWord g t.toNat a b s (fun xs s =>
    let n := t.toNat
    if n < 4 ∧ s.here.chain.isSome then faultW s Code.chain
    else withImage s xs imageBytes (fun e o =>
      .done 1 (s.startOp 516 (.mlines true (s.now + 4) (imageGroups e o.toNat imageBytes none) [] (.mrest n)) (fun p => { p with
        ops := xs.map (·.val), addr := some o, uses := [.scratch s.cur.cell (hdIdx (opnd xs 0).val)], accs := [2 * n, 2 * n + 1] })).2))

/-- The two deckle registers of an image are refused together (R236). -/
def imageRefused (d0 d1 : Deckle) : Bool :=
  (dkWide d0 && dkWide d1) || (dkLo d0 && !dkWide d1) || (dkLo d1 && !dkWide d0)

/-- MREST_COMPLETION (R236): the state is restored, or an inconsistent image leaves +0 and faults. DESIGN CHOICE (log entry 45): a restored bound is
taken as R233 takes that of m.dkw: a −0 or negative one as 0, a NaN as +Inf. -/
def execMrestCompletion (c id : Nat) (s : State) : Host.Outcome State Fault Refusal :=
  match s.findOp c id with
  | none => .next s
  | some o =>
    if (s.cell c).time < o.due then .next s
    else
      let (done, s) := s.flushLines c o
      match (if done then s.findOp c id else none) with
      | none => .next s
      | some o =>
        match o.body, o.err with
        | .mlines _ _ _ _ (.mrest _), some (e, a) => .next (s.lateFault c o e a)
        | .mlines _ _ _ got (.mrest n), none =>
          -- a bound is never −0, negative or NaN, whatever the image holds (R81)
          let dkAt (a : Nat) : Deckle :=
            let d : Deckle := (BitVec.ofNat 128 (leRead got a 16)) &&& (BitVec.ofNat 128 (2 ^ 105 - 1))
            d.setBound (takeBound (dkBound d))
          let d0 := dkAt 32768
          let d1 := dkAt 32784
          if imageRefused d0 d1 then
            .next ((s.modCell c (fun x => (((x.setAcc (2 * n) {}).setAcc (2 * n + 1) {}).setDk (2 * n) 0).setDk (2 * n + 1) 0)).lateFault c o Code.matshape
              o.ent.addr)
          else
            .next ((s.modCell c (fun x => (((x.setAcc (2 * n) { val := BitVec.ofNat 131072 (leRead got 0 16384) }).setAcc (2 * n + 1)
              { val := BitVec.ofNat 131072 (leRead got 16384 16384) }).setDk (2 * n) d0).setDk (2 * n + 1) d1)).endOp c id)
        | _, _ => .next s

/-- M operations without a completion step of their own that end in this cycle: m.scale, m.msave, m.chsv (R220, R246). -/
def State.finishM (s : State) (c : Nat) : State :=
  let t := (s.cell c).time
  ((s.ops c).map (·.id)).foldl (fun s id =>
    match s.findOp c id with
    | none => s
    | some o =>
      if t < o.due then s
      else
        match o.body with
        | .scale accs f => (s.finishScale c o accs f).endOp c id
        | .mlines _ _ _ _ .msave | .mlines _ _ _ _ .chsv => let (done, s) := s.flushLines c o; if done then s.endOp c id else s
        | _ => s) s

/-- Tile registers emptied in the last cycle are empty (R212). -/
def State.emptyTiles (s : State) (c : Nat) : State :=
  s.modCell c (fun x => { x.emptying.foldl (fun x n => x.emptyTile n) x with emptying := [] })

end Sys2Proof.Machine
end

