-- ==== Sys2Proof/Machine/ChainArith.lean ====
section
/-! DEFINITION. The arithmetic of the calender chain on exact values: a step's scores, row stage and value side with their bounds (R244,
R245, R249, R250), and the close (R248, R251). A strand's chain and a chain task use the same functions. -/

namespace Sys2Proof.Machine

open Sys2Proof

/-- Rows of values cut into blocks of 64 along d; none for a masked key or value row. -/
abbrev Rows := List (Option (List (List FVal)))

/-- A value member of the O bank: hi and lo words and its bound. -/
structure OTile where
  hi : List (BitVec 32)
  lo : List (BitVec 32)
  b : BitVec 32

/-- The row state: running maxima, sums and factors (R239). -/
structure RowState where
  m : List (BitVec 32)
  l : List (BitVec 32)
  f : List (BitVec 32)

/-- The row state of an opened or closed chain (R239). -/
def RowState.init : RowState :=
  { m := List.replicate 128 0xFF800000, l := List.replicate 128 0, f := List.replicate 128 0x3F800000 }

/-- What a step reads: width, scale, queries by block, βQ by row block and chunk, keys, values, and which key is visible to which row. -/
structure StepIn where
  wide : Bool
  c : BitVec 32
  q : List (List (List FVal))
  beta : List (List (BitVec 32))
  keys : Rows
  vals : Rows
  vis : Nat → Nat → Bool

def blockOf (r : List (List FVal)) (x : Nat) : List FVal := r.getD x []

def StepIn.blocks (s : StepIn) : Nat := (s.q.head?.getD []).length

/-- Bits of the canonical NaN. -/
def nan32 : BitVec 32 := 0x7FC00000

/-- One element plus a chunk of products. -/
def addProducts (wide : Bool) (e : BitVec 32 × BitVec 32) (ps : List FVal) : (BitVec 32 × BitVec 32) × Flags :=
  if wide then let (h, l, fl) := addChunkWide e.1 e.2 ps; ((h, l), fl) else let (h, fl) := addChunk e.1 ps; ((h, 0), fl)

/-- A rectangle of a square of elements. -/
def quadrant {α : Type} (rows : List (List α)) (r c : Nat) : List α := ((rows.drop (64 * r)).take 64).flatMap (fun x => (x.drop (64 * c)).take 64)

/-- The greatest magnitude of the visible rows of a list in one block. -/
def maxRows (l : Rows) (x : Nat) : FVal := maxMag ((l.flatMap (fun r => match r with | some b => blockOf b x | none => [])).filter FVal.isFin)

/-- The scores after chunk x of d, and their bounds by member (R244, R249); the K operand of a masked key is +0. -/
def scoreChunk (s : StepIn) (x : Nat) (sc : List (List (BitVec 32 × BitVec 32))) (bq : List (BitVec 32)) (fl : Flags) :
    List (List (BitVec 32 × BitVec 32)) × List (BitVec 32) × Flags :=
  let r := ((sc.zip s.q).zip (upto 128)).map (fun e =>
    let a := blockOf e.1.2 x
    ((e.1.1.zip s.keys).zip (upto 128)).map (fun k =>
      match k.1.2 with
      | some key =>
        if s.vis e.2 k.2 then addProducts s.wide k.1.1 ((a.zip (blockOf key x)).map (fun (p : FVal × FVal) => p.1.mul p.2))
        else addProducts s.wide k.1.1 (a.map (fun (q : FVal) => q.mul FVal.zero))
      | none => addProducts s.wide k.1.1 (a.map (fun (q : FVal) => q.mul FVal.zero))))
  let sc := r.map (fun row => row.map (·.1))
  let bq := (bq.zip (upto 4)).map (fun e =>
    let row := e.2 / 2
    let col := e.2 % 2
    let hi := (quadrant sc row col).map (·.1)
    let b := chunkTerm s.wide hi e.1
    let beta := (s.beta.getD row []).getD x 0
    let b' := if beta = 0 then b else bAdd b (((f32 beta).mul (maxRows ((s.keys.drop (64 * col)).take 64) x)).scale2 6)
    (b', chunkOvf hi e.1 beta 0 b'))
  (sc, bq.map (·.1), orFlags (fl :: bq.map (·.2) ++ r.map (fun row => orFlags (row.map (·.2)))))

/-- Every chunk of d from x on. -/
def scoreChunks (s : StepIn) : Nat → Nat → List (List (BitVec 32 × BitVec 32)) → List (BitVec 32) → Flags →
    List (List (BitVec 32 × BitVec 32)) × List (BitVec 32) × Flags
  | 0, _, sc, bq, fl => (sc, bq, fl)
  | n + 1, x, sc, bq, fl => let r := scoreChunk s x sc bq fl; scoreChunks s n (x + 1) r.1 r.2.1 r.2.2

/-- A row after the row stage (R244): its state, its P, their sum, whether m changed, and whether some t lies below mnew − 126. -/
structure RowOut where
  m : BitVec 32
  l : BitVec 32
  f : BitVec 32
  p : List FVal
  sum : FVal
  changed : Bool
  tiny : Bool
  flags : Flags

/-- The row stage of one row; a masked key has no t. -/
def rowStage (m l : BitVec 32) (ts : List (Option (BitVec 32))) : RowOut :=
  let vs := ts.filterMap (fun t => t)
  if (f32 m).isNan || vs.any (fun t => (f32 t).isNan || f32 t == .inf false) then
    { m := nan32, l := nan32, f := nan32, p := ts.map (fun _ => .nan), sum := FVal.zero, changed := true, tiny := false, flags := Flags.nan }
  else
    let mnew := vs.foldl (fun a t => (fminmax true a t).1) m
    let mv := f32 mnew
    let none' : Bool := mv == .inf true
    let f : BitVec 32 := if none' then 0x3F800000 else (exp2Val ((f32 m).sub mv)).1
    let p := ts.map (fun t => match t with | some t => if none' then FVal.zero else f32 (exp2Val ((f32 t).sub mv)).1 | none => FVal.zero)
    let sum := exactSum p
    let (l', fl) := rne32 (((f32 l).mul (f32 f)).add sum)
    { m := mnew, l := l', f := f, p := p, sum := sum, changed := !FVal.eq mv (f32 m),
      tiny := vs.any (fun t => (f32 t).isFin && FVal.lt ((f32 t).sub mv) (.fin true 126 0)), flags := fl &&& (Flags.ovf ||| Flags.nan) }

/-- τ and ρ of R249. -/
def tauRho (c : BitVec 32) (bs : BitVec 32) (top : Option FVal) : BitVec 32 × BitVec 32 :=
  let tau : BitVec 32 :=
    match top with
    | none => 0
    | some t =>
      let x := ((f32 c).abs.mul (f32 bs)).add (emaxTerm t 24)
      if bs = bInf || x.isNan then bInf else boundUp x
  (tau, if tau = bInf then bInf else boundUp ((FVal.fin false 1 (-23)).add ((FVal.fin false 45548 (-16)).mul (f32 tau))))

/-- The rescale term of R250. -/
def rescaleTerm (top : FVal) : FVal :=
  if top.msb < -126 then (FVal.fin false 1 (top.msb - 23)).add (.fin false 1 (-150)) else .fin false 1 (top.msb - 22)

/-- One value chunk of one member: keys 64x to 64x + 63. -/
def valueChunk (s : StepIn) (rows : List RowOut) (r c x : Nat) (t : OTile) : OTile × Flags :=
  let vals := (s.vals.drop (64 * x)).take 64
  let cols := (upto 64).map (fun n => vals.map (fun v => match v with | some b => (blockOf b c).getD n FVal.zero | none => FVal.zero))
  let hs := (rows64 (t.hi.zip t.lo)).zip ((rows.drop (64 * r)).zip (span (64 * r) 64))
  let out := hs.map (fun e =>
    let p := (e.2.1.p.drop (64 * x)).take 64
    let see := (upto 64).map (fun j => s.vis e.2.2 (64 * x + j))
    (e.1.zip cols).map (fun k => addProducts s.wide k.1
      ((p.zip (k.2.zip see)).map (fun z => z.1.mul (if z.2.2 then z.2.1 else FVal.zero)))))
  let out := out.flatten
  let hi := out.map (fun e => e.1.1)
  ({ hi := hi, lo := out.map (fun e => e.1.2), b := chunkTerm s.wide hi t.b }, orFlags (out.map (·.2)))

/-- One value member's step (R245, R250). -/
def valueMember (s : StepIn) (rows : List RowOut) (rho : BitVec 32) (big : Bool) (r c : Nat) (t : OTile) : OTile × Flags :=
  let mine := (rows.drop (64 * r)).take 64
  let top := topMag t.hi
  let b0 := !hasBad t.hi && boundFin t.b
  let b := if hasBad t.hi then bInf
    else if !top.isZero && mine.any (·.changed) then bAdd (boundUp ((f32 t.b).mul (.fin false (2 ^ 23 + 1) (-23)))) (rescaleTerm top)
    else t.b
  let sc := ((rows64 (t.hi.zip t.lo)).zip mine).flatMap (fun e => e.1.map (fun k => scaleElem s.wide k.1 k.2 (f32 e.2.f)))
  let t := { hi := sc.map (·.1), lo := sc.map (·.2.1), b := b : OTile }
  let (t, f0) := valueChunk s rows r c 0 t
  let (t, f1) := valueChunk s rows r c 1 t
  let sp := maxMag (mine.map (·.sum))
  let vmax := maxRows s.vals c
  let b := bAdd t.b (((f32 rho).mul sp).mul vmax)
  let b := if mine.any (·.tiny) then bAdd b ((FVal.fin false 1 (-143)).mul vmax) else b
  ({ t with b := if big || hasBad t.hi then bInf else b },
   orFlags [orFlags (sc.map (·.2.2.1)), f0, f1, boundOvf (!big && !hasBad t.hi && b0) b])

/-- What a step leaves. -/
structure StepOut where
  rows : RowState
  lam : BitVec 32
  o : List OTile
  flags : Flags

/-- A chain step (R244, R245, R249, R250); o lists the members (r, c) with c below d/64, row by row. -/
def chainStep (s : StepIn) (rs : RowState) (lam : BitVec 32) (o : List OTile) : StepOut :=
  let zero : List (List (BitVec 32 × BitVec 32)) := List.replicate 128 (List.replicate 128 (0, 0))
  let (sc, bq, f0) := scoreChunks s s.blocks 0 zero [0, 0, 0, 0] 0
  let ts := (sc.zip (upto 128)).map (fun e => ((e.1.zip s.keys).zip (upto 128)).map (fun k =>
    if k.1.2.isSome && s.vis e.2 k.2 then
      let hi := f32 k.1.1.1
      some (rne32 ((if s.wide then hi.add (f32 k.1.1.2) else hi).mul (f32 s.c)))
    else none))
  let rows := (ts.zip (rs.m.zip rs.l)).map (fun e => rowStage e.2.1 e.2.2 (e.1.map (fun t => t.map (·.1))))
  let f1 := orFlags (ts.flatMap (fun l => l.filterMap (fun t => t.map (·.2)))) &&& (Flags.ovf ||| Flags.nan)
  let fin := (ts.flatMap (fun l => l.filterMap (fun t => t.map (fun x => f32 x.1)))).filter FVal.isFin
  let bs := bq.foldl (fun a x => if a.toNat < x.toNat then x else a) 0
  let (tau, rho) := tauRho s.c bs (if fin.isEmpty then none else some (maxMag fin))
  let big := decide (0x3A800000 < tau.toNat)
  let w := s.blocks
  let lam' := if big then bInf else bAdd (if lam.toNat < rho.toNat then rho else lam) (.fin false 1 (-22))
  let ovf := boundOvf (boundFin bs) tau ||| boundOvf (!big && boundFin lam) lam'
  let os := (o.zip (upto o.length)).map (fun e => valueMember s rows rho big (e.2 / w) (e.2 % w) e.1)
  { rows := { m := rows.map (·.m), l := rows.map (·.l), f := rows.map (·.f) },
    lam := lam', o := os.map (·.1), flags := orFlags (f0 :: f1 :: ovf :: rows.map (·.flags) ++ os.map (·.2)) }

/-- An O element divided by its row's sum (R248): specials and zeros keep their value, NaN is canonical. -/
def divElem (wide : Bool) (hi lo l : BitVec 32) : BitVec 32 × BitVec 32 :=
  let x := if wide then (f32 hi).add (f32 lo) else f32 hi
  if x.isNan then (nan32, 0)
  else if x.isInf || x.isZero then (hi, lo)
  else
    let h := (divRound .rne x (f32 l)).1
    if wide && (f32 h).isFin then (h, (divRound .rne (x.sub ((f32 h).mul (f32 l))) (f32 l)).1) else (h, if wide then 0 else lo)

/-- The close of one value member (R248, R251). -/
def closeMember (wide : Bool) (lam : BitVec 32) (l : List (BitVec 32)) (t : OTile) : OTile × Flags :=
  let ok (x : BitVec 32) : Bool := (f32 x).isFin && FVal.lt FVal.zero (f32 x)
  let out := ((rows64 (t.hi.zip t.lo)).zip l).flatMap (fun e => e.1.map (fun k => if ok e.2 then divElem wide k.1 k.2 e.2 else k))
  let hi := out.map (·.1)
  let ls := (l.map f32).filter (FVal.lt FVal.zero)
  let b :=
    match ls with
    | [] => t.b
    | x :: r =>
      if t.b = bInf ∨ lam = bInf ∨ hasBad t.hi ∨ hasBad hi then bInf
      else
        let lmin := r.foldl (fun a y => if FVal.lt y a then y else a) x
        let num := bAdd (bAdd t.b ((f32 t.b).mul (f32 lam))) ((f32 lam).mul (topMag t.hi))
        bAdd (if lmin.isInf then (if num = bInf then bInf else 0) else (divRound .ru (f32 num) lmin).1) (emaxTerm (topMag hi) (if wide then 48 else 24))
  ({ hi := hi, lo := out.map (·.2), b := b }, if hi.any (fun x => (f32 x).isNan) then Flags.nan else 0)

end Sys2Proof.Machine
end

