-- ==== Sys2Proof/Machine/Chain.lean ====
section
/-! DEFINITION. The calender chain's words and steps (R238 to R256): m.chb, m.chs, m.che, m.chsv and m.chld, the lines that a step reads, the
start of its value phase, its completion, and the close. -/

namespace Sys2Proof.Machine

open Sys2Proof

/-! ### The O bank and the row state as the cell holds them (R238, R239) -/

/-- The accumulators of the O bank. -/
def Chain.bankAccs (ch : Chain) : List Nat := [8, 10, 12, 14].map (fun k => if ch.bank then k + 1 else k)

/-- The blocks of 64 along d. -/
def Chain.blocks (ch : Chain) : Nat := if ch.d128 then 2 else 1

/-- The value members in use, row by row: a column at or beyond d/64 takes no part (R265). -/
def Chain.memberAccs (ch : Chain) : List Nat := if ch.d128 then ch.bankAccs else (ch.bankAccs.zip (upto 4)).filterMap (fun e => if e.2 % 2 = 0 then some e.1 else none)

/-- The accumulators that a step acts on: the O bank and, when wide, its partners. -/
def Chain.allAccs (ch : Chain) : List Nat := if ch.wide then ch.bankAccs ++ ch.bankAccs.map partner else ch.bankAccs

/-- Planes of a query register. -/
def Tile.planes (t : Tile) : Nat := if t.fmt = 5 then t.pl.toNat + 1 else 8

/-- The query register of a row block and a chunk of d (R241). -/
def Chain.qTile (ch : Chain) (r x : Nat) : Tile := ch.q.getD (r + 2 * x) {}

/-- The queries, row by row and block by block. -/
def Chain.queries (ch : Chain) : List (List (List FVal)) :=
  (upto 128).map (fun i => (upto ch.blocks).map (fun x => let t := ch.qTile (i / 64) x; t.rowVals t.planes (i % 64)))

/-- βQ by row block and chunk (R249). -/
def Chain.betas (ch : Chain) : List (List (BitVec 32)) := (upto 2).map (fun r => (upto ch.blocks).map (fun x => (ch.qTile r x).beta))

def Chain.rowState (ch : Chain) : RowState := ⟨ch.m, ch.l, ch.f⟩

def Chain.setRows (ch : Chain) (r : RowState) : Chain := { ch with m := r.m, l := r.l, f := r.f }

/-- The O members as tiles. -/
def Cell.oTiles (x : Cell) (ch : Chain) : List OTile :=
  ch.memberAccs.map (fun k => ({ hi := accList (x.acc k).val, lo := accList (x.acc (partner k)).val, b := dkBound (x.dk k) } : OTile))

/-- O members written back. -/
def Cell.setOTiles (x : Cell) (ch : Chain) (l : List OTile) : Cell :=
  (ch.memberAccs.zip l).foldl (fun (y : Cell) e =>
    let y : Cell := (y.setAcc e.1 { y.acc e.1 with val := ofAccList e.2.hi }).setDk e.1 ((y.dk e.1).setBound e.2.b)
    if ch.wide then y.setAcc (partner e.1) { y.acc (partner e.1) with val := ofAccList e.2.lo } else y) x

/-! ### Sources of keys and values (R242, R243) -/

/-- A handle of a step: its descriptor, where its storage starts, its landing if it is one, and its use. -/
structure ChHandle where
  desc : Dword
  base : Nat
  land : Option (Nat × Nat)
  use : HUse

/-- A SCRATCH or LANDING handle (R243). -/
def State.chHandle (s : State) (c : Nat) (h : Dword) : Option ChHandle :=
  match s.scratchHandle c h with
  | some e => some { desc := e.desc, base := e.base, land := none, use := .scratch c (hdIdx h) }
  | none =>
    match s.landHandle c h with
    | some l => some { desc := l.desc, base := 0, land := some (bhOf c, hdIdx h), use := .landing (bhOf c) (hdIdx h) }
    | none => none

/-- The least number of bytes of a row for d elements (R243). -/
def rowNeed (d : Dword) (blocks : Nat) : Nat := blocks * blockBytes (tdFmt d) (tdPl d + 1)

/-- Distinct lines, 32 to a group, in ascending order (R246). -/
def lineGroups (ps : List Part) : List (List Part) :=
  let ps := sortBy (fun (a b : Part) => decide (a.addr < b.addr)) ps
  let lines := (ps.map (fun p => p.addr / 64)).eraseDups
  (chunksOf 32 lines (ceilDiv lines.length 32)).map (fun g => ps.filter (fun p => g.contains (p.addr / 64)))

/-- The source that a step reads: nk rows from row, with their scales. -/
def chSource (h : ChHandle) (row nk blocks : Nat) : ChSrc :=
  let d := h.desc
  let w := rowNeed d blocks
  let place (ps : List Part) (n : Nat) : List Part := ps.map (fun p => { p with pos := n + p.pos })
  let parts := (upto nk).flatMap (fun j =>
    place (partsOf d h.base ((row + j) * tdRb d) w) (j * w) ++
      (if tdScaled d then place (partsOf d h.base (tdScaleOff d + (row + j) * tdBlocks d) blocks) (128 * w + j * blocks) else []))
  { fmt := BitVec.ofNat 4 (tdFmt d), pl := BitVec.ofNat 3 (tdPl d), sc := tdScaled d, land := h.land, todo := lineGroups parts }

/-- The exact value of a stored element, times its block's scale. -/
def elemVal (fmt planes : Nat) (scale : Option (BitVec 8)) (raw : Nat) : FVal :=
  let x : FVal :=
    if fmt = 5 then FVal.ofInt (2 * sextNat planes raw + 1) (-(planes : Int))
    else match Target.ofCode fmt 8 with | some t => t.value raw | none => .nan
  match scale with | some e => applyScale e x | none => x

/-- The rows that a source has read. -/
def ChSrc.rows (k : ChSrc) (nk blocks : Nat) : Rows :=
  let planes := k.pl.toNat + 1
  let bb := blockBytes k.fmt.toNat planes
  (upto 128).map (fun j =>
    if j < nk then
      some ((upto blocks).map (fun x =>
        let sc := if k.sc then some (tget 0 k.got (128 * blocks * bb + j * blocks + x)) else none
        (blockElems k.fmt.toNat planes (bytesAt k.got (j * blocks * bb + x * bb) bb)).map (elemVal k.fmt.toNat planes sc)))
    else none)

/-- The visibility of key j to query row i (R242, R265). -/
def ChStep.sees (st : ChStep) (i j : Nat) : Bool :=
  decide (j < st.nk) && (!st.diag || decide (j ≤ i)) && (match st.causal with | some (q, k0) => decide (k0 + j ≤ q + i) | none => true)

/-- The step's arithmetic on a chain and its O members. -/
def Chain.apply (ch : Chain) (st : ChStep) (o : List OTile) : Chain × List OTile × Flags :=
  let out := chainStep { wide := ch.wide, c := ch.c, q := ch.queries, beta := ch.betas, keys := st.key.rows st.nk ch.blocks,
                         vals := st.val.rows st.nk ch.blocks, vis := st.sees } ch.rowState ch.lam o
  ({ ch.setRows out.rows with lam := out.lam, ntile := ch.ntile + 1 }, out.o, out.flags)

/-! ### Opening (R241) -/

/-- The Q registers of m.chb. -/
def qRegs (i : Nat) (q4 : Bool) : List Nat := span i (if q4 then 4 else 2)

/-- A new chain (R239). -/
def Chain.opened (d128 bank wide : Bool) (c : BitVec 32) (q : List Tile) (t : Nat) : Chain :=
  ({ d128 := d128, bank := bank, wide := wide, c := c, q := q, busy := t + 16 } : Chain).setRows RowState.init

/-- Occupancy of the query format (R246). -/
def Chain.qOcc (ch : Chain) : Nat := let t := ch.qTile 0 0; occOf t.fmt.toNat t.planes

/-- MChb (R241). -/
def execMChb (g : Guard) (o q : Bool) (i : BitVec 4) (a : BitVec 6) (s : State) : Host.Outcome State Fault Refusal :=
  issueWord false g s (fun s => withScalars [a] s (fun xs s =>
    let x := s.here
    let regs := (qRegs i.toNat q).filter (fun r => decide (r < 16))
    let c : BitVec 32 := (opnd xs 0).val.truncate 32
    let ts := regs.map x.tile
    let ch := Chain.opened q o false c ts x.time
    if !(x.strandMode 0 && x.strandMode 1) || (upto 8).any x.matBusy || ts.any (fun t => t.st != .full) then .hold false
    else noPoison xs (
      if x.chain.isSome || !(f32 c).isFin then faultW s Code.chain
      else orFault (deferredFault ts) (if i.toNat % (if q then 4 else 2) != 0 then faultW s Code.matshape
      else if ts.any (fun t => !isMatFmt t.fmt.toNat || t.fmt != (ch.qTile 0 0).fmt || t.planes != (ch.qTile 0 0).planes) then faultW s Code.illegal
      else if ch.bankAccs.any (fun k => dkLo (x.dk k)) then faultW s Code.matshape
      else orFault (tileFault s ts) (withSound s (upto 8 ++ ch.bankAccs.flatMap x.pair) (
        .done 1 (s.modHere (fun x =>
          let x : Cell := (upto 8).foldl (fun (y : Cell) k => (y.setAcc k {}).setDk k 0) x
          let x : Cell := ch.bankAccs.foldl Cell.clearAcc x
          { x with shapes := [9, 10], chain := some ch })))))))) 

/-! ### Stepping (R242 to R247) -/

/-- A close is in flight. -/
def Cell.rowsBusy (x : Cell) : Bool :=
  x.ops.any (fun o =>
    match o.body with
    | .che .. => !o.accs.isEmpty
    | _ => false)

/-- Something other than a step acts on the O bank (R219, R221, R255). -/
def Cell.bankBusy (x : Cell) (ch : Chain) : Bool :=
  x.ops.any (fun o => o.accs.any (fun a => ch.allAccs.contains a) && (match o.body with | .chainStep => false | _ => true))

/-- The address that a chain word's POISON carries: the offset that it used with a handle, or its own (R396). A step uses two handles and no
offset of its own. -/
def chainAddr (s : State) (xs : List Sval) : Dword := if xs.isEmpty then s.cur.ent.addr else offsetOf s xs

/-- A chain word finds a chain open and not poisoned (R247, R256); m.chld is let through by poison. -/
def withChain (s : State) (a : Dword) (body : Chain → Issue) : Issue :=
  match s.here.chain with
  | none => faultW s Code.chain
  | some ch => if ch.poison then .fault Code.poison a else body ch

/-- The checks of R243 on a step's handles, in order. -/
def stepChecks (ch : Chain) (k v : ChHandle) (row nk : Nat) : Option Code :=
  let kf := tdFmt k.desc
  let vf := tdFmt v.desc
  if !isMatFmt kf || (kf == 5 && tdPl k.desc == 0) || !(vf == 1 || vf == 2 || ((vf == 3 || vf == 4) && !tdSc v.desc)) then some Code.illegal
  else if decide (tdRows k.desc ≤ row + nk - 1) || decide (tdRows v.desc ≤ row + nk - 1) then some Code.bounds
  else if decide (tdRb k.desc < rowNeed k.desc ch.blocks) || decide (tdRb v.desc < rowNeed v.desc ch.blocks) then some Code.bounds
  else none

/-- A step joins the chain: its value phase, its end, and the score arrays (R246); each phase starts later by the delay of its lines, 0 for a
strand's step (R419). -/
def Chain.begin (ch : Chain) (st : ChStep) (t ts tv delay : Nat) : Chain × ChStep :=
  let vs := (if ch.fresh then t + ts + 44 else max (t + ts + 44) (ch.vs + ch.tv)) + delay
  let st := { st with issued := t, vs := vs, tv := tv }
  ({ ch with steps := ch.steps ++ [st], vs := vs, tv := tv, fresh := false, busy := t + delay + ts }, st)

/-- MChs (R242, R243, R246). -/
def execMChs (g : Guard) (d a b : BitVec 6) (s : State) : Host.Outcome State Fault Refusal :=
  issueWord false g s (fun s => withScalars [a, b, d] s (fun xs s =>
    let x := s.here
    match x.chain with
    | none => noPoison xs (faultW s Code.chain)
    | some ch =>
      if x.time < ch.busy || 2 < ch.steps.length || x.rowsBusy || x.bankBusy ch then .hold false
      else noPoison xs (withChain s s.cur.ent.addr (fun ch => withSound s ch.allAccs (
        let cw := (opnd xs 2).val
        let row := cw.toNat % 4096
        let nk := cw.toNat / 65536 % 128 + 1
        if cw &&& 0xFFFFFFFFFE80F000 != 0 then faultW s Code.chain
        else
          match s.chHandle s.cur.cell (opnd xs 0).val, s.chHandle s.cur.cell (opnd xs 1).val with
          | some k, some v =>
            (match stepChecks ch k v row nk with
             | some code => if code = Code.bounds then .fault code (BitVec.ofNat 64 (row * tdRb k.desc)) else faultW s code
             | none =>
               let ts := ch.blocks * max ch.qOcc (occOf (tdFmt k.desc) (tdPl k.desc + 1))
               let tv := 2 * occOf (tdFmt v.desc) 8
               let (id, s) := s.fresh
               let (ch, st) := ch.begin { op := id, nk := nk, diag := cw.getLsbD 24, key := chSource k row nk ch.blocks,
                                          val := chSource v row nk ch.blocks } s.now ts tv 0
               let s := s.modHere (fun x => { x with chain := some ch })
               .done 1 (s.addOp s.cur.cell { id := id, sc := s.cur.sc, eng := s.cur.eng, ent := s.cur.ent, ops := xs.map (·.val),
                                             slot := s.cur.replay.isSome, issued := s.now, due := st.vs + tv + 20,
                                             uses := [k.use, v.use].eraseDups, accs := ch.allAccs, body := .chainStep }))
          | _, _ => .fault Code.handle 0)))))

/-- CHAIN_VALUE_PHASE (R246): from vs on the oldest step that has not begun it reads its value lines. -/
def execChainValuePhase (c : Nat) (s : State) : Host.Outcome State Fault Refusal :=
  match (s.cell c).chain with
  | none => .next s
  | some ch =>
    match findIdx (fun (st : ChStep) => !st.started) ch.steps 0 with
    | some (i, st) =>
      if (s.cell c).time < st.vs then .next s
      else .next (s.modCell c (fun x => { x with chain := some { ch with steps := modifyAt (fun st => { st with started := true }) ch.steps i } }))
    | none => .next s

/-- One group of a source is read. -/
def State.readSource (s : State) (c : Nat) (k : ChSrc) : ChSrc × List Nat :=
  match k.todo with
  | [] => (k, [])
  | g :: rest =>
    let (got, bad) := s.readParts c (k.land.map (·.2)) g k.got none
    ({ k with todo := rest, got := got, bad := k.bad || bad.isSome },
     if k.land.isSome then [] else (g.map Part.bank).eraseDups)

/-- The chain's reads in this cycle: a group of key lines and a group of value lines of each step that has lines due; they take the port
first (R246). -/
def State.portChain (s : State) (c : Nat) : State × List Nat :=
  match (s.cell c).chain with
  | none => (s, [])
  | some ch =>
    let r := ch.steps.map (fun st =>
      let (k, b1) := s.readSource c st.key
      let (v, b2) := if st.started then s.readSource c st.val else (st.val, [])
      (({ st with key := k, val := v } : ChStep), b1 ++ b2))
    (s.modCell c (fun x => { x with chain := some { ch with steps := r.map (·.1) } }), r.flatMap (·.2))

/-- CHAIN_STEP_COMPLETION (R246, R247): the oldest step completes at vs + Tv + 20; a poisoned one poisons the chain and raises POISON. -/
def execChainStepCompletion (c : Nat) (s : State) : Host.Outcome State Fault Refusal :=
  match (s.cell c).chain with
  | none => .next s
  | some ch =>
    match ch.steps with
    | [] => .next s
    | st :: rest =>
      if (s.cell c).time < st.vs + st.tv + 20 then .next s
      else
        let s := ([st.key.land, st.val.land].filterMap (fun l => l)).eraseDups.foldl (fun s l => s.consume l.1 l.2) s
        let o := s.findOp c st.op
        if st.key.bad || st.val.bad || ch.poison then
          let s := s.modCell c (fun x =>
            { ch.allAccs.foldl (fun (y : Cell) k => y.setAcc k { y.acc k with poison := true }) x with
              chain := some { ch with steps := rest, poison := true } })
          match o with
          | some o => .next (s.lateFault c o Code.poison o.ent.addr)
          | none => .next s
        else
          let (ch', os, fl) := ch.apply st ((s.cell c).oTiles ch)
          let s := s.modCell c (fun x => { x.setOTiles ch os with chain := some { ch' with steps := rest } })
          match o with
          | some o => .next ((s.flagNow c o.sc fl).endOp c o.id)
          | none => .next s

/-! ### Closing (R248, R251) -/

/-- Four rows of (m, l), each row i of 64 in lane i (R248). -/
def Chain.mlRows (ch : Chain) : List Vec := [ofLanes (ch.m.take 64), ofLanes (ch.m.drop 64), ofLanes (ch.l.take 64), ofLanes (ch.l.drop 64)]

/-- The bytes of (m, l) (R248). -/
def Chain.mlBytes (ch : Chain) : List Byte := (ch.m ++ ch.l).flatMap (fun x => leBytes x.toNat 4)

/-- The chain is gone: both sides stay STRAND as q0123 and q4567, a0 to a7 at +0 (R248). -/
def Cell.endChain (x : Cell) : Cell :=
  { (upto 8).foldl (fun (y : Cell) k => (y.setAcc k {}).setDk k 0) x with chain := none, shapes := [9, 10] }

/-- The holds and the checks of m.che before its output's: s0 is the state before its pops. -/
def cheWord (pfx : Bool) (g : Guard) (srcs : List (BitVec 6)) (s0 : State) (free : State → Bool) (body : Chain → List Sval → State → Issue) :
    Host.Outcome State Fault Refusal :=
  issueWord pfx g s0 (fun s => withScalars srcs s (fun xs s =>
    let x := s.here
    match x.chain with
    | none => noPoison xs (faultW s Code.chain)
    | some ch =>
      if !ch.steps.isEmpty || x.rowsBusy || x.bankBusy ch || !(span 4 4).all x.pathFree then .hold false
      else if !free s then .hold true
      else noPoison xs (
        if ch.poison then .gone ((s0.modHere Cell.endChain).raise Code.poison (chainAddr s xs))
        else body ch xs s)))

/-- The issue of a close (R246). -/
def cheIssue (ch : Chain) (xs : List Sval) (s : State) (y : Option (BitVec 2)) (rows : List Vec) (out : Option (List Part)) (uses : List HUse) : Issue :=
  withSoundAt s (chainAddr s xs) ch.allAccs (
    let t := s.now
    let s := s.modHere (fun x => { x.setPath [4, 5, 6, 7] (x.time + 64) with chain := some { ch with busy := t + 72 } })
    .done 1 (s.startOp 72 (.che y rows out) (fun o => { o with ops := xs.map (·.val), uses := uses, accs := upto 8 ++ ch.allAccs })).2)

/-- MCheQ (R248). -/
def execMCheQ (g : Guard) (y : BitVec 2) (s : State) : Host.Outcome State Fault Refusal :=
  cheWord false g [] s (fun s => decide ((s.me.yq y.toNat).length < 16)) (fun ch xs s => cheIssue ch xs s (some y) ch.mlRows none [])

/-- MChe (R248). -/
def execMChe (g : Guard) (a b : BitVec 6) (s : State) : Host.Outcome State Fault Refusal :=
  cheWord true g [a, b] s (fun _ => true) (fun ch xs s => withImage s xs 1024 (fun e o =>
    cheIssue ch xs s none [] (some (withData (partsOf e.desc e.base o.toNat 1024) ch.mlBytes)) [.scratch s.cur.cell (hdIdx (opnd xs 0).val)]))

/-- CHAIN_CLOSE (R246, R248, R251): at issue + 72 O is divided, bounds are set and the chain is closed; rows still to push go on. -/
def execChainClose (c id : Nat) (s : State) : Host.Outcome State Fault Refusal :=
  match s.findOp c id, (s.cell c).chain with
  | some o, some ch =>
    (match o.body with
     | .che _ rows _ =>
       if (s.cell c).time < o.due || o.accs.isEmpty then .next s
       else
         let rs := ((s.cell c).oTiles ch).zip (upto ch.memberAccs.length)
         let out := rs.map (fun e => closeMember ch.wide ch.lam ((ch.l.drop (64 * (e.2 / ch.blocks))).take 64) e.1)
         let s := s.modCell c (fun x => (x.setOTiles ch (out.map (·.1))).endChain)
         let s := s.flagNow c o.sc (orFlags (out.map (·.2)))
         if rows.isEmpty then .next (s.endOp c id) else .next (s.modOp c id (fun q => { q with accs := [] }))
     | _ => .next s)
  | _, _ => .next s

/-! ### Saving and restoring the row state (R252, R253) -/

/-- ch.flags (R252). -/
def Chain.flagBits (ch : Chain) : Nat := (if ch.d128 then 1 else 0) + (if ch.bank then 2 else 0) + (if ch.wide then 4 else 0)

/-- The image of the row state (R252). -/
def Chain.image (ch : Chain) : List Byte :=
  (ch.m ++ ch.l ++ ch.f ++ [ch.c, ch.lam, ch.ntile, BitVec.ofNat 32 ch.flagBits]).flatMap (fun x => leBytes x.toNat 4) ++ zeros 48

/-- The holds of m.chsv and m.chld. -/
def rowWord (g : Guard) (a b : BitVec 6) (s : State) (body : List Sval → State → Issue) : Host.Outcome State Fault Refusal :=
  issueWord true g s (fun s => withScalars [a, b] s (fun xs s =>
    let x := s.here
    match x.chain with
    | none => noPoison xs (faultW s Code.chain)
    | some ch => if !ch.steps.isEmpty || x.rowsBusy then .hold false else noPoison xs (body xs s)))

/-- MChsv (R246, R252, R253). -/
def execMChsv (g : Guard) (a b : BitVec 6) (s : State) : Host.Outcome State Fault Refusal :=
  rowWord g a b s (fun xs s => withChain s (offsetOf s xs) (fun ch => withImage s xs 1600 (fun e o =>
    let gs := groupParts (withData (partsOf e.desc e.base o.toNat 1600) ch.image)
    .done 1 (s.startOp (6 + gs.length) (.mlines false (s.now + 4) gs [] .chsv) (fun p => { p with
      ops := xs.map (·.val), addr := some o, uses := [.scratch s.cur.cell (hdIdx (opnd xs 0).val)] })).2)))

/-- MChld (R246, R252, R253). -/
def execMChld (g : Guard) (a b : BitVec 6) (s : State) : Host.Outcome State Fault Refusal :=
  rowWord g a b s (fun xs s => withImage s xs 1600 (fun e o =>
    let gs := groupParts (partsOf e.desc e.base o.toNat 1600)
    let s := s.modHere (fun x => { x with chain := x.chain.map (fun ch => { ch with fresh := true }) })
    .done 1 (s.startOp (6 + gs.length) (.mlines true (s.now + 4) gs [] .chld) (fun p => { p with
      ops := xs.map (·.val), addr := some o, uses := [.scratch s.cur.cell (hdIdx (opnd xs 0).val)] })).2))

/-- The words of an image. -/
def imageWord (t : Table Byte) (a : Nat) : BitVec 32 := BitVec.ofNat 32 (leRead t a 4)

/-- CHLD_COMPLETION (R253): the image is checked; m, l, f, ch.lam and ch.ntile are replaced and lose their poison, or CHAIN is raised. -/
def execChldCompletion (c id : Nat) (s : State) : Host.Outcome State Fault Refusal :=
  match s.findOp c id with
  | none => .next s
  | some o =>
    if (s.cell c).time < o.due then .next s
    else
      let (done, s) := s.flushLines c o
      match (if done then s.findOp c id else none), (s.cell c).chain with
      | some o, some ch =>
        (match o.body, o.err with
         | .mlines _ _ _ _ .chld, some (e, a) => .next (s.lateFault c o e a)
         | .mlines _ _ _ got .chld, none =>
           if leRead got 1548 4 ≠ ch.flagBits ∨ imageWord got 1536 ≠ ch.c ∨ leRead got 1552 48 ≠ 0 then .next (s.lateFault c o Code.chain o.ent.addr)
           else
             let row (a : Nat) : List (BitVec 32) := (upto 128).map (fun i => imageWord got (a + 4 * i))
             let lam := imageWord got 1540
             .next ((s.modCell c (fun x => { x with chain := some { ch with
               m := row 0, l := row 512, f := row 1024, lam := if lam.getLsbD 31 || decide (0x7F800000 < lam.toNat) then bInf else lam, ntile := imageWord got 1544,
               poison := false } })).endOp c id)
         | _, _ => .next s)
      | _, _ => .next s

end Sys2Proof.Machine
end

