-- ==== Sys2Proof/Machine/Kv.lean ====
section
/-! DEFINITION. The KV space (R326 to R335): sequence entries, overlays and their resolution, l.ldk, l.stk, l.kfork and l.kfree, and the
steps by which the KV unit applies posted requests. The operations of the second tier are in KvTier.lean. -/

namespace Sys2Proof.Machine

open Sys2Proof

/-! ### KV addresses and sequence entries (R326 to R329) -/

def kvCb (a : Dword) : Nat := (a.extractLsb' 62 2).toNat
def kvSlot (a : Dword) : Nat := (a.extractLsb' 56 6).toNat
def kvSeq (a : Dword) : Nat := (a.extractLsb' 32 24).toNat
def kvPos (a : Dword) : Nat := (a.extractLsb' 0 32).toNat

/-- A sequence entry (R328); clean says that its reserved bits are 0. -/
structure SeqE where
  par : Nat
  v : Bool
  dead : Bool
  depth : Nat
  len : Nat
  fork : Nat
  frz : Nat
  root : Dword
  kfmt : Nat
  kpl : Nat
  ksc : Bool
  vfmt : Nat
  d : Nat
  nslot : Nat
  nchild : Nat
  br : Nat
  own : Nat
  clean : Bool

/-- The entry that 64 bytes hold. -/
def SeqE.parse (l : List Byte) : SeqE :=
  let w (o n : Nat) : Nat := ofBytes ((l.drop o).take n)
  { par := w 0 3, v := w 3 1 / 128 == 1, dead := w 3 1 / 64 % 2 == 1, depth := w 3 1 / 8 % 8, len := w 4 4, fork := w 8 4, frz := w 12 4,
    root := BitVec.ofNat 64 (w 16 8), kfmt := w 24 1 % 16, kpl := w 24 1 / 16 % 8, ksc := w 24 1 / 128 == 1, vfmt := w 25 1 % 16,
    d := w 26 2, nslot := w 28 1 % 64, nchild := w 30 2, br := w 32 4, own := w 36 4,
    clean := w 3 1 % 8 == 0 && w 25 1 / 16 == 0 && w 28 1 / 64 == 0 && w 29 1 == 0 && w 32 4 / 2 ^ 20 % 2 ^ 11 == 0 && w 40 24 == 0 }

/-- The bytes of an entry. -/
def SeqE.bytes (e : SeqE) : List Byte :=
  leBytes e.par 3 ++ [BitVec.ofNat 8 ((if e.v then 128 else 0) + (if e.dead then 64 else 0) + 8 * e.depth)] ++ leBytes e.len 4 ++
    leBytes e.fork 4 ++ leBytes e.frz 4 ++ leBytes e.root.toNat 8 ++
    [BitVec.ofNat 8 (e.kfmt + 16 * e.kpl + (if e.ksc then 128 else 0)), BitVec.ofNat 8 e.vfmt] ++ leBytes e.d 2 ++ [BitVec.ofNat 8 e.nslot, 0] ++
    leBytes e.nchild 2 ++ leBytes e.br 4 ++ leBytes e.own 4 ++ zeros 24

/-- The entry keeps the rules of R328. -/
def SeqE.ok (e : SeqE) : Bool :=
  e.clean && decide (e.depth ≤ 4) && (e.d == 64 || e.d == 128 || e.d == 192 || e.d == 256) &&
    (if e.kfmt = 5 then e.kpl != 0 && e.ksc else e.kpl == 0) &&
    (e.kfmt == 1 || e.kfmt == 2 || e.kfmt == 3 || e.kfmt == 4 || e.kfmt == 5) && ((e.kfmt != 1 && e.kfmt != 2) || !e.ksc) &&
    decide (1 ≤ e.vfmt) && decide (e.vfmt ≤ 4)

/-- K rows carry scales. -/
def SeqE.scaled (e : SeqE) : Bool := e.ksc

/-- Bytes of a block of 64 elements of K or V. -/
def SeqE.block (e : SeqE) (v : Bool) : Nat := if v then blockBytes e.vfmt 8 else blockBytes e.kfmt (e.kpl + 1)

def SeqE.blocks (e : SeqE) : Nat := e.d / 64

/-- The byte of row r, column block cb, in a page at pa (R329). -/
def SeqE.rowAt (e : SeqE) (pa : Nat) (v : Bool) (r cb : Nat) : Nat := pa + (if v then 32768 else 0) + (r * e.blocks + cb) * e.block v

/-- The scale byte of row r, column block cb. -/
def SeqE.scaleAt (e : SeqE) (pa r cb : Nat) : Nat := pa + 24576 + r * e.blocks + cb

/-- The die of a VF's KV unit: that of its lowest-numbered slice (R331). -/
def State.kvDie (s : State) (vf : Nat) : Nat := (((upto 128).find? (fun i => (s.vf vf).cfg.hasSlice i)).getD 0) / 32

/-- The code of a failed access. -/
def codeOf {α : Type} (r : Except (Code × Dword) α) : Except Code α :=
  match r with
  | .ok x => .ok x
  | .error e => .error e.1

/-- The VA of a sequence's entry. -/
def State.seqVa (s : State) (vf id : Nat) : Nat := (s.vf vf).cfg.seqtab + 64 * id

/-- A sequence's entry as the KV unit reads it (R316, R327). -/
def State.seqRaw (s : State) (vf id : Nat) : Except Code SeqE := do
  if (s.vf vf).cfg.nseq ≤ id then .error Code.handle
  else
    let die := s.kvDie vf
    let pg ← codeOf (s.pages none vf die (s.seqVa vf id) 64 .at)
    let l ← codeOf (s.readPages die pg (s.seqVa vf id) 64)
    return SeqE.parse l

/-- A sequence that a KV word may name directly (R327, R328). -/
def State.seqLive (s : State) (vf id : Nat) : Except Code SeqE := do
  let e ← s.seqRaw vf id
  if e.v && !e.dead && e.ok then .ok e else .error Code.handle

/-- An entry written back. -/
def State.seqWrite (s : State) (vf id : Nat) (e : SeqE) : Except Code State := do
  let r ← codeOf (s.writeVa none vf (s.kvDie vf) (s.seqVa vf id) e.bytes)
  return r.2

/-! ### Frames and overlays (R330, R331) -/

/-- Bytes that the device itself places: every write in flight enters every die first, and then every die's sequence has them at once
(R286), since the KV unit alone decides which frame holds a row (R331). -/
def State.kvPlace (s : State) (l : List (Nat × Byte)) : State :=
  let s := s.settle
  { s with mem := (({ s.mem with views := [0, 1, 2, 3].foldl (fun v d => tput d (writeAll (s.mem.view d) l) v) s.mem.views,
                                 home := writeAll s.mem.home l }.cure l).passAll (touches l)).onTurns (AtomTurn.over l) }

/-- A global write takes its place in its die's sequence before the KV unit has decided which bytes it writes (R285, R331): its number. -/
def State.placeWrite (s : State) (die : Nat) : Nat × State := s.enterWrite die []

/-- The bytes of a write that has its place: the dies whose sequence it has entered have them, and they enter the others with it. What
reads them asks the KV unit first, which serves the requests of a row in the order of their places. -/
def State.fillWrite (s : State) (w : Nat) (l : List (Nat × Byte)) : State :=
  let todo := match s.mem.flight.find? (fun x => x.id == w) with | some x => x.todo | none => []
  let dies := [0, 1, 2, 3].filter (fun d => !todo.contains d)
  let m : DevMem := { s.mem with
    views := dies.foldl (fun v d => tput d (writeAll (s.mem.view d) l) v) s.mem.views, home := writeAll s.mem.home l,
    flight := s.mem.flight.map (fun x => if x.id == w then { x with bytes := l } else x) }
  { s with mem := (dies.foldl (fun m d => m.pass d (touches l)) (m.cure l)).onTurns (AtomTurn.over l) }

/-- An 8-byte word of an overlay table. -/
def State.kvWord (s : State) (vf a : Nat) : Except Code Dword := s.tableWord (s.kvDie vf) a

/-- What an overlay maps a page to. -/
inductive KvLeaf where
  | frame (pa : Nat)
  | demoted (n : Nat)

/-- A leaf of an overlay (R310, R314, R330). -/
def kvLeaf (c : VfCfg) (w : Dword) : Except Code (Option KvLeaf) :=
  if w.getLsbD 63 then
    let slice := (w.extractLsb' 32 7).toNat
    let frame := (w.extractLsb' 16 16).toNat
    if w.extractLsb' 39 19 != 0 || w.extractLsb' 0 16 != 0 || (w.getLsbD 58 && w.getLsbD 59) then .error Code.page
    else if sliceFrames ≤ frame then .error Code.page
    else if !c.hasSlice slice then .error Code.prot
    else .ok (some (.frame (sliceBase slice + frame * frameBytes)))
  else .ok (if w.getLsbD 57 then some (.demoted (w.extractLsb' 16 28).toNat) else none)

/-- The key of a page of a slot. -/
def kvKey (slot page : Nat) : Nat := slot * 2 ^ 26 + page

/-- The next table of a walk, or none where it does not exist. -/
def State.kvTable (s : State) (vf : Nat) (w : Dword) : Except Code (Option Nat) :=
  if w.getLsbD 63 then do let t ← pointerTable (s.vf vf).cfg w; return some t else .ok none

/-- The address of a key's leaf in an overlay. -/
def State.kvLeafAt (s : State) (vf : Nat) (root : Dword) (key : Nat) : Except Code (Option Nat) := do
  let some t1 ← s.kvTable vf root | return none
  let w1 ← s.kvWord vf (t1 + 8 * (key / 2 ^ 22 % 1024))
  let some t2 ← s.kvTable vf w1 | return none
  let w2 ← s.kvWord vf (t2 + 8 * (key / 2 ^ 11 % 2048))
  let some t3 ← s.kvTable vf w2 | return none
  return some (t3 + 8 * (key % 2048))

/-- What an overlay maps a key to. -/
def State.kvFind (s : State) (vf : Nat) (root : Dword) (key : Nat) : Except Code (Option KvLeaf) := do
  let some a ← s.kvLeafAt vf root key | return none
  let w ← s.kvWord vf a
  kvLeaf (s.vf vf).cfg w

/-- The resolution of a position (R330): the page and the limit, or none for ABSENT; a hop for each unit of fuel. -/
def State.kvResolve (s : State) (vf slot p : Nat) : Nat → Nat → Nat → Except Code (Option (KvLeaf × Nat))
  | 0, _, _ => .ok none
  | n + 1, cur, lim => do
    let e ← s.seqRaw vf cur
    if !e.v || !e.ok then .error Code.handle
    else
      match ← s.kvFind vf e.root (kvKey slot (p / 64)) with
      | some l => return some (l, lim)
      | none => if e.depth = 0 ∨ e.fork ≤ p then return none else s.kvResolve vf slot p n e.par (min lim e.fork)

/-- A pointer entry (R313) that names a 16 KiB unit. -/
def unitEntry (u : Nat) : Dword :=
  (1 <<< 63) ||| BitVec.ofNat 64 (u / 4 / sliceFrames * 2 ^ 18 + (u / 4 % sliceFrames * 4 + u % 4))

/-- The unit that a pointer entry names. -/
def entryUnit (w : Dword) : Nat := (w.extractLsb' 18 7).toNat * sliceFrames * 4 + (w.extractLsb' 0 18).toNat

/-- A unit for an overlay table, and how many frames it took: units of one frame serve four tables of the VF. -/
def State.takeUnit (s : State) (vf : Nat) : Except Code (Nat × Nat × State) :=
  match (s.vf vf).kvUnits with
  | u :: r => .ok (u, 0, (s.modVf vf (fun v => { v with kvUnits := r })).zeroAt (s.kvDie vf) (u * 16384) 16384)
  | [] =>
    match s.allocFrame vf (s.kvDie vf) with
    | none => .error Code.quota
    | some (f, s) => .ok (4 * f, 1, s.modVf vf (fun v => { v with kvUnits := [4 * f + 1, 4 * f + 2, 4 * f + 3] }))

/-- A frame that nothing references any more returns to the allocator (R319). -/
def State.dropFrame (s : State) (vf f : Nat) : State := s.modVf vf (fun v => { v with returning := v.returning ++ [f] })

/-- A unit that holds no table any more; the frame of four such units returns. -/
def State.giveUnit (s : State) (vf u : Nat) : State :=
  let l := insertBy (fun a b => decide (a < b)) u (s.vf vf).kvUnits
  let f := u / 4
  if (upto 4).all (fun i => l.contains (4 * f + i)) then
    (s.modVf vf (fun v => { v with kvUnits := l.filter (fun x => x / 4 != f) })).dropFrame vf f
  else s.modVf vf (fun v => { v with kvUnits := l })

/-- The table that the word at a names; a new one where there is none. -/
def State.needTable (s : State) (vf a : Nat) : Except Code (Nat × Nat × State) := do
  let w ← s.kvWord vf a
  match ← s.kvTable vf w with
  | some t => return (t, 0, s)
  | none =>
    let (u, n, s) ← s.takeUnit vf
    return (u * 16384, n, s.kvPlace (placed a (leBytes (unitEntry u).toNat 8)))

/-- A key's leaf set in a sequence's overlay, with the tables that it needs; the entry counts the frames (R330). -/
def State.kvMap (s : State) (vf : Nat) (e : SeqE) (key : Nat) (leaf : Dword) : Except Code (SeqE × State) := do
  let (root, n0, s) ←
    if e.root = 0 then do
      let (u, n, s) ← s.takeUnit vf
      .ok (unitEntry u, n, s)
    else .ok (e.root, 0, s)
  let t1 ← pointerTable (s.vf vf).cfg root
  let (t2, n1, s) ← s.needTable vf (t1 + 8 * (key / 2 ^ 22 % 1024))
  let (t3, n2, s) ← s.needTable vf (t2 + 8 * (key / 2 ^ 11 % 2048))
  return ({ e with root := root, own := e.own + n0 + n1 + n2 }, s.kvPlace (placed (t3 + 8 * (key % 2048)) (leBytes leaf.toNat 8)))

/-- The leaf of a resident frame. -/
def frameLeaf (f : Nat) : Dword := (1 <<< 63) ||| BitVec.ofNat 64 (f / sliceFrames * 2 ^ 32 + f % sliceFrames * 2 ^ 16)

/-- Bytes of a page as a die sees them; POISON if any of their words is poisoned (R432). -/
def State.paBytes (s : State) (die pa n : Nat) : Except Code (List Byte) :=
  if (span (pa / 8) ((pa + n - 1) / 8 - pa / 8 + 1)).any (fun w => tget false s.mem.poison w) then .error Code.poison
  else .ok ((span pa n).map (s.byteAt die))

/-- The K and V rows of a page at positions lo to hi − 1 of its 64, copied to another frame with their scales (R333). -/
def State.copyRows (s : State) (vf : Nat) (e : SeqE) (src dst n : Nat) : Except Code State :=
  let s := s.settle
  (upto n).foldlM (fun s r => do
    let die := s.kvDie vf
    let k ← s.paBytes die (e.rowAt src false r 0) (e.blocks * e.block false)
    let v ← s.paBytes die (e.rowAt src true r 0) (e.blocks * e.block true)
    let sc ← if e.scaled then s.paBytes die (e.scaleAt src r 0) e.blocks else .ok []
    .ok (s.kvPlace (placed (e.rowAt dst false r 0) k ++ placed (e.rowAt dst true r 0) v ++ placed (e.scaleAt dst r 0) sc))) s

/-- A new frame for a page of a sequence, holding the rows that it resolves to through its ancestors below a limit (R333). -/
def State.kvNewPage (s : State) (vf : Nat) (e : SeqE) (slot page : Nat) : Except Code (SeqE × Nat × State) := do
  match s.allocFrame vf (s.kvDie vf) with
  | none => .error Code.quota
  | some (f, s) =>
    let p0 := 64 * page
    let s ←
      if e.depth ≠ 0 ∧ p0 < e.fork then do
        match ← s.kvResolve vf slot p0 5 e.par e.fork with
        | some (.frame src, lim) => s.copyRows vf e src (f * frameBytes) (min 64 (min lim e.len - p0))
        | some (.demoted _, _) => .error Code.page
        | none => .ok s
      else .ok s
    let (e, s) ← s.kvMap vf e (kvKey slot page) (frameLeaf f)
    return ({ e with own := e.own + 1 }, f * frameBytes, s)

/-! ### Stores, forks and frees (R333 to R335) -/

/-- The row of 64 elements that a vector becomes: its codes, scale and flags (R64, R70, R333). -/
def kvRow (e : SeqE) (v : Bool) (row : Vec) : ConvRow :=
  let fmt := if v then e.vfmt else e.kfmt
  let hi := lanes row
  convRow ((Target.ofCode fmt (e.kpl + 1)).getD .fp32) .rne { out := fmt, rnd := 0 } (!v && e.scaled) 0 hi (hi.map f32)

/-- An l.stk as the KV unit applies it; the row is the write w, which has its place since the issue (R331, R333). -/
def State.kvStore (s : State) (vf w : Nat) (a : Dword) (v : Bool) (row : Vec) : Except Code (Flags × State) := do
  let e ← s.seqLive vf (kvSeq a)
  let (slot, cb, p) := (kvSlot a, kvCb a, kvPos a)
  if e.nslot < slot ∨ e.d ≤ 64 * cb then .error Code.bounds
  else if p < e.frz then .error Code.prot
  else
    let (e, pa, s) ← match ← s.kvFind vf e.root (kvKey slot (p / 64)) with
      | some (.frame pa) => .ok (e, pa, s)
      | some (.demoted _) => .error Code.page
      | none => s.kvNewPage vf e slot (p / 64)
    let r := kvRow e v row
    let fmt := if v then e.vfmt else e.kfmt
    let data := placed (e.rowAt pa v (p % 64) cb) (rowBytes fmt (e.kpl + 1) r.codes)
    let sc := if !v && e.scaled then [(e.scaleAt pa (p % 64) cb, r.e)] else []
    let s ← s.seqWrite vf (kvSeq a) { e with len := max e.len (p + 1) }
    return (r.flags, s.fillWrite w (data ++ sc))

/-- The lowest free id from id on; n ids are left. -/
def State.freeSeq (s : State) (vf : Nat) : Nat → Nat → Except Code (Option Nat)
  | 0, _ => .ok none
  | n + 1, id => do
    let e ← s.seqRaw vf id
    if e.v then s.freeSeq vf n (id + 1) else return some id

/-- An l.kfork as the KV unit applies it (R334): the child's id, or all-ones. -/
def State.kvFork (s : State) (vf : Nat) (a : Dword) : Except Code (Dword × State) := do
  if a.extractLsb' 52 11 != 0 || a.extractLsb' 24 8 != 0 then .error Code.handle
  else
    let par := (a.extractLsb' 0 24).toNat
    let e ← s.seqLive vf par
    if e.depth = 4 then .error Code.forkdepth
    else
      let c := (s.vf vf).cfg
      match ← s.freeSeq vf (c.nseq - c.nroot) c.nroot with
      | none => return (BitVec.allOnes 64, s)
      | some id =>
        let child := { e with
          par := par, v := true, dead := false, depth := e.depth + 1, fork := e.len, frz := 0, root := 0, nchild := 0, own := 0,
          br := if a.getLsbD 63 then 2 ^ 31 + (a.extractLsb' 32 20).toNat else 0 }
        let s ← s.seqWrite vf id child
        let s ← s.seqWrite vf par { e with frz := max e.frz e.len, nchild := e.nchild + 1 }
        return (BitVec.ofNat 64 id, s)

/-- The words of a table that satisfy a condition, with their places; a poisoned word ends the operation (R432). -/
def State.tableEntries (s : State) (vf t n : Nat) (ok : Dword → Bool) : Except Code (List (Nat × Dword)) := do
  let l ← (upto n).mapM (fun i => (s.kvWord vf (t + 8 * i)).map (fun w => (i, w)))
  return l.filter (fun e => ok e.2)

/-- The next level of an overlay: the tables that pointers name and their words that satisfy a condition, by key (R310, R313). -/
def State.overlayLevel (s : State) (vf n : Nat) (ok : Dword → Bool) (l : List (Nat × Dword)) : Except Code (List (Nat × Dword)) := do
  let r ← l.mapM (fun e => do
    let t ← pointerTable (s.vf vf).cfg e.2
    let x ← s.tableEntries vf t n ok
    return x.map (fun y => (e.1 * n + y.1, y.2)))
  return r.flatten

/-- The units of an overlay's tables, and its leaves by key, each held to R310, R313 and R314. -/
def State.overlay (s : State) (vf : Nat) (root : Dword) : Except Code (List Nat × List (Nat × KvLeaf)) := do
  if !root.getLsbD 63 then return ([], [])
  else
    let valid (w : Dword) : Bool := w.getLsbD 63
    let l2 ← s.overlayLevel vf 1024 valid [(0, root)]
    let l3 ← s.overlayLevel vf 2048 valid l2
    let l4 ← s.overlayLevel vf 2048 (fun w => w.getLsbD 63 || w.getLsbD 57) l3
    let leaves ← l4.mapM (fun e => (kvLeaf (s.vf vf).cfg e.2).map (fun x => x.map (fun y => (e.1, y))))
    return (entryUnit root :: (l2 ++ l3).map (fun e => entryUnit e.2), leaves.filterMap id)

/-- The frame or second-tier page of a leaf is given up. -/
def State.dropLeaf (s : State) (vf : Nat) (x : KvLeaf) : State :=
  match x with
  | .frame pa => s.dropFrame vf (pa / frameBytes)
  | .demoted n => s.modVf vf (fun v => { v with tier := tdel n v.tier })

/-- An overlay's frames, tables and second-tier pages are given up. -/
def State.dropOverlay (s : State) (vf : Nat) (root : Dword) : Except Code State := do
  let (units, leaves) ← s.overlay vf root
  return units.foldl (fun s u => s.giveUnit vf u) (leaves.foldl (fun s e => s.dropLeaf vf e.2) s)

/-- The release of a dead sequence without children, and of its parent in turn (R335). -/
def State.kvRelease (s : State) (vf : Nat) : Nat → Nat → Except Code State
  | 0, _ => .ok s
  | n + 1, id => do
    let e ← s.seqRaw vf id
    let s ← s.dropOverlay vf e.root
    let s ← s.seqWrite vf id { e with v := false }
    if e.depth = 0 then return s
    else
      let p ← s.seqRaw vf e.par
      let p := { p with nchild := p.nchild - 1 }
      let s ← s.seqWrite vf e.par p
      if p.dead && p.nchild == 0 then s.kvRelease vf n e.par else return s

/-- An l.kfree as the KV unit applies it (R335). -/
def State.kvFree (s : State) (vf : Nat) (a : Dword) : Except Code State := do
  if a.extractLsb' 24 40 != 0 then .error Code.handle
  else
    let e ← s.seqLive vf a.toNat
    let s ← s.seqWrite vf a.toNat { e with dead := true }
    if e.nchild = 0 then s.kvRelease vf 6 a.toNat else return s

/-- The sequences tagged with a branch that satisfies a condition are freed (R279, R335). -/
def State.kvFreeTagged (s : State) (vf : Nat) (hit : Nat → Bool) : State :=
  (upto (s.vf vf).cfg.nseq).foldl (fun s id =>
    match s.seqRaw vf id with
    | .ok e =>
      if e.v && !e.dead && decide (2 ^ 31 ≤ e.br) && hit (e.br % 2 ^ 20) then
        (match s.kvFree vf (BitVec.ofNat 64 id) with | .ok t => t | .error _ => s)
      else s
    | .error _ => s) s

/-! ### Requests on their way to the KV unit (R331) -/

/-- An operation waits for the KV unit. -/
def Op.kvReq (o : Op) : Bool :=
  match o.req with
  | some (.kvStore ..) | some (.kvFork _) | some (.kvFree _) => true
  | _ => false

/-- The KV unit serves an operation's request; an error goes back with the KV address (R333 to R335). -/
def State.kvApply (s : State) (c : Nat) (o : Op) : State :=
  let vf := s.vfOf c
  let done (s : State) (f : Op → Op) : State := s.modOp c o.id (fun q => f { q with req := none })
  let fail (e : Code) : State := done s (fun q => { q with err := some (e, o.addr.getD 0) })
  match o.req with
  | some (.kvStore v a row w) =>
    (match s.kvStore vf w a v row with
     | .ok (fl, s) => done s (fun q => { q with body := .stk fl })
     | .error e => fail e)
  | some (.kvFork a) =>
    (match s.kvFork vf a with
     | .ok (id, s) => done s (fun q => { q with body := (match q.body with | .kfork d _ => .kfork d (some id) | b => b) })
     | .error e => fail e)
  | some (.kvFree a) =>
    (match s.kvFree vf a with
     | .ok s => done s (fun q => q)
     | .error e => fail e)
  | _ => s

/-- The KV requests of a VF on their way, in issue order. -/
def State.kvPending (s : State) (vf : Nat) : List (Nat × Op) :=
  sortBy (fun (a b : Nat × Op) => decide (a.2.id < b.2.id))
    ((s.cells.filter (fun e => e.2.vf == some vf)).flatMap (fun e => (e.2.ops.filter Op.kvReq).map (fun o => (e.1, o))))

/-- Every request issued so far is served: a read that follows sees it (R331). -/
def State.kvDrain (s : State) (vf : Nat) : State := (s.kvPending vf).foldl (fun s e => s.kvApply e.1 e.2) s

/-- Two requests are l.stk of one row. -/
def Op.sameRow (o q : Op) : Bool :=
  match o.req, q.req with
  | some (.kvStore v a _ _), some (.kvStore v' a' _ _) => v == v' && a == a'
  | _, _ => false

/-- The service of operation i, after the earlier requests of its strand, and after the earlier stores of its row (R331). -/
def kvStep (i : Nat) (s : State) : Host.Outcome State Fault Refusal :=
  match s.findAny i with
  | some (c, o) =>
    if o.kvReq && !(s.ops c).any (fun q => q.sc == o.sc && q.kvReq && decide (q.id < i)) &&
        !(s.kvPending (s.vfOf c)).any (fun e => decide (e.2.id < i) && o.sameRow e.2) then .next (s.kvApply c o) else .next s
  | none => .next s

/-- KV_STORE_APPLY (R333). -/
def execKvStoreApply (i : Nat) (s : State) : Host.Outcome State Fault Refusal :=
  match s.findAny i with
  | some (_, o) => (match o.req with | some (.kvStore ..) => kvStep i s | _ => .next s)
  | none => .next s

/-- KV_FORK_APPLY (R334). -/
def execKvForkApply (i : Nat) (s : State) : Host.Outcome State Fault Refusal :=
  match s.findAny i with
  | some (_, o) => (match o.req with | some (.kvFork _) => kvStep i s | _ => .next s)
  | none => .next s

/-- KV_FREE_APPLY (R335). -/
def execKvFreeApply (i : Nat) (s : State) : Host.Outcome State Fault Refusal :=
  match s.findAny i with
  | some (_, o) => (match o.req with | some (.kvFree _) => kvStep i s | _ => .next s)
  | none => .next s

/-! ### The KV words (R332 to R335) -/

/-- A tile of K or V as a die reads it (R330, R332). -/
def State.kvTile (s : State) (vf die : Nat) (a : Dword) (v : Bool) : Except Code Tile := do
  let e ← s.seqLive vf (kvSeq a)
  let (slot, cb, p) := (kvSlot a, kvCb a, kvPos a)
  if e.nslot < slot ∨ e.d ≤ 64 * cb then .error Code.bounds
  else
    let b := e.block v
    let rows ← (span p 64).mapM (fun q => do
      match ← s.kvResolve vf slot q 5 (kvSeq a) (2 ^ 32) with
      | some (.demoted _, _) => .error Code.page
      | some (.frame pa, lim) =>
        if e.len ≤ q ∨ lim ≤ q then .ok (zeros b, (0 : Byte))
        else
          let l ← s.paBytes die (e.rowAt pa v (q % 64) cb) b
          let sc ← if !v && e.scaled then s.paBytes die (e.scaleAt pa (q % 64) cb) 1 else .ok [0]
          .ok (l, sc.headD 0)
      | none => .ok (zeros b, (0 : Byte)))
    let g : TileGeo :=
      if v then { fmt := BitVec.ofNat 4 e.vfmt, w := b, col := true }
      else { fmt := BitVec.ofNat 4 e.kfmt, pl := BitVec.ofNat 3 e.kpl, w := b, sc := e.scaled }
    return fillTile g (rows.flatMap (·.1) ++ rows.map (·.2))

/-- LLdk (R331, R332): the read takes its place in its die's sequence at issue, after the KV requests issued before it. -/
def execLLdk (g : Guard) (v : Bool) (d : BitVec 4) (sp : Bool) (b : BitVec 5) (c : BitVec 6) (s : State) : Host.Outcome State Fault Refusal :=
  issueWord false g s (fun s => withScalars [b.zeroExtend 6] s (fun xs s =>
    needs (s.landingFree && (s.here.tile d.toNat).st == .empty) (noPoison xs (
    let a := (opnd xs 0).val
    if a.toNat % 64 != 0 then .fault Code.align a
    else
      let s := s.kvDrain (s.vfOf s.cur.cell)
      let r := (match s.kvTile (s.vfOf s.cur.cell) (dieOf s.cur.cell) a v with
        | .ok t => .ok (OpBody.timedT d.toNat (some t) sp)
        | .error e => .error (e, a))
      .done 1 ((s.timedLoad (arrival c) (xs.map (·.val)) a r (.timedT d.toNat none sp)).modHere
        (fun x => x.setTile d.toNat { x.tile d.toNat with st := .loading }))))))

/-- The issue of a posted KV request. -/
def kvPost (s : State) (xs : List Sval) (vec : Option Vec) (body : OpBody) (r : Req) : Issue :=
  .done 1 (s.startOp 64 body (fun o => { o with
    ops := xs.map (·.val), vec := vec, buf := .send, addr := some (opnd xs 0).val, req := some r })).2

/-- LStk (R331, R333): its write takes its place in its die's sequence at issue. -/
def execLStk (g : Guard) (v : Bool) (d : BitVec 5) (a : BitVec 6) (s : State) : Host.Outcome State Fault Refusal :=
  issueWord false g s (fun s => withScalars [a] s (fun xs s => withVectors [d] s (fun vs s => needs s.sendFree (noPoison xs (noVPoison vs (
    let (w, s) := s.placeWrite (dieOf s.cur.cell)
    kvPost s xs (some (vopnd vs 0).val) (.stk 0) (.kvStore v (opnd xs 0).val (vopnd vs 0).val w)))))))

/-- LKfork (R334). -/
def execLKfork (g : Guard) (d a : BitVec 6) (s : State) : Host.Outcome State Fault Refusal :=
  issueWord false g s (fun s => withScalars [a] s (fun xs s => needs s.sendFree (roomFor d s (noPoison xs (
    kvPost s xs none (.kfork d none) (.kvFork (opnd xs 0).val))))))

/-- LKfree (R335). -/
def execLKfree (g : Guard) (a : BitVec 6) (s : State) : Host.Outcome State Fault Refusal :=
  issueWord false g s (fun s => withScalars [a] s (fun xs s => needs s.sendFree (noPoison xs (
    kvPost s xs none .store (.kvFree (opnd xs 0).val)))))

end Sys2Proof.Machine
end

