-- ==== Sys2Proof/Machine/Tasks.lean ====
section
/-! DEFINITION. Tile tasks and the scheduler (R259 to R282, R419, R421, R434): b.post, b.tdec, b.cancel, the entry of records, slots and
overflow lists, ready order, starts and steals, the chunks and steps of running tasks, drain checks, completion, decrements, aging and the
cancellation of branches. A running task counts the cell time of its group's cell, and stands still while that cell is frozen (R5, R48);
the scheduler counts the cycles in which the VF is resident (R282). -/

namespace Sys2Proof.Machine

open Sys2Proof

/-! ### Records (R259, R260, R264) -/

/-- n bytes of a record at byte o. -/
def recField (l : List Byte) (o n : Nat) : Nat := ofBytes ((l.drop o).take n)

namespace Task

def kind (t : Task) : Nat := recField t.raw 0 1
def prio (t : Task) : Nat := recField t.raw 1 1
def mode (t : Task) : Nat := recField t.raw 2 1 % 4
def br (t : Task) : Nat := recField t.raw 4 4
def va (t : Task) : Nat := recField t.raw 8 8
def vb (t : Task) : Nat := recField t.raw 16 8
def vc (t : Task) : Nat := recField t.raw 24 8
def k (t : Task) : Nat := recField t.raw 32 4
def out (t : Task) : Nat := recField t.raw 38 2 % 16
def opl (t : Task) : Nat := recField t.raw 38 2 / 16 % 8
def succ (t : Task) (i : Nat) : Nat := recField t.raw (40 + 2 * i) 2
def sem (t : Task) : Nat := recField t.raw 52 2
def inc (t : Task) : Nat := recField t.raw 54 2
def thr (t : Task) : BitVec 32 := BitVec.ofNat 32 (recField t.raw 56 4)
def bnd (t : Task) : Nat := recField t.raw 60 4

/-- The task accumulates wide: its record, its entry, or a re-issue (R260, R277). -/
def wide (t : Task) : Bool := recField t.raw 2 1 / 4 % 2 == 1 || ftWide t.fmt || t.rcnt != 0

/-- The fields of a chain descriptor (R264). -/
def cdKey (t : Task) : Nat := recField t.desc 0 8
def cdVal (t : Task) : Nat := recField t.desc 8 8
def cdMl (t : Task) : Nat := recField t.desc 16 8
def cdC (t : Task) : BitVec 32 := BitVec.ofNat 32 (recField t.desc 24 4)
def cdD (t : Task) : Nat := recField t.desc 28 2
def cdFlags (t : Task) : Nat := recField t.desc 30 1
def cdVfmt (t : Task) : Nat := recField t.desc 31 1
def cdQpos (t : Task) : Nat := recField t.desc 32 4
def causal (t : Task) : Bool := t.cdFlags % 2 == 1
def keyLand (t : Task) : Bool := t.kind == 1 && t.cdFlags / 2 % 2 == 1
def valLand (t : Task) : Bool := t.kind == 1 && t.cdFlags / 4 % 2 == 1

/-- The landing handles that a chain task reads. -/
def lands (t : Task) : List Dword :=
  ((if t.keyLand then [BitVec.ofNat 64 t.cdKey] else []) ++ (if t.valLand then [BitVec.ofNat 64 t.cdVal] else [])).eraseDups

/-- The bulkheads that a task is tied to (R265, R273). -/
def ties (t : Task) : List Nat := t.lands.map (fun h => bhOf (hdCell h))

/-- 128-key tiles with a key visible to some row (R265). -/
def steps (t : Task) : Nat :=
  let n := ceilDiv t.k 128
  if t.causal then min n ((t.cdQpos + 127) / 128 + 1) else n

end Task

/-- The next multiple of 64. -/
def up64 (n : Nat) : Nat := ceilDiv n 64 * 64

/-- An operand in memory: rows of nb blocks, then, when scaled, a scale array at the next 64-byte boundary (R263). -/
structure MemOp where
  va : Nat
  fmt : Nat
  planes : Nat
  scaled : Bool
  rows : Nat
  nb : Nat

def MemOp.block (m : MemOp) : Nat := blockBytes m.fmt m.planes
def MemOp.row (m : MemOp) : Nat := m.nb * m.block
def MemOp.scales (m : MemOp) : Nat := up64 (m.va + m.rows * m.row)
def MemOp.size (m : MemOp) : Nat := if m.scaled then m.scales + m.rows * m.nb - m.va else m.rows * m.row

/-- Operands of a format carry scales (R74, R263). -/
def carriesScales (fmt : Nat) (bit : Bool) : Bool := fmt == 5 || ((fmt == 3 || fmt == 4) && bit)

/-- Planes of a format. -/
def planesOf (fmt pl : Nat) : Nat := if fmt = 5 then pl + 1 else 8

namespace Task

/-- The blocks of 64 of A's rows. -/
def blocks (t : Task) : Nat := if t.kind = 1 then t.cdD / 64 else ceilDiv t.k 64

def opA (t : Task) : MemOp :=
  { va := t.va, fmt := ftAfmt t.fmt, planes := planesOf (ftAfmt t.fmt) (ftApl t.fmt), scaled := carriesScales (ftAfmt t.fmt) ((ftScale t.fmt).getLsbD 0),
    rows := 128, nb := t.blocks }

/-- B of kind 0, or the keys of kind 1. -/
def opB (t : Task) : MemOp :=
  { va := if t.kind = 1 then t.cdKey else t.vb, fmt := ftBfmt t.fmt, planes := planesOf (ftBfmt t.fmt) (ftBpl t.fmt),
    scaled := carriesScales (ftBfmt t.fmt) ((ftScale t.fmt).getLsbD 0), rows := if t.kind = 1 then t.k else 128, nb := t.blocks }

/-- The values of kind 1. -/
def opV (t : Task) : MemOp :=
  { va := t.cdVal, fmt := t.cdVfmt, planes := 8, scaled := false, rows := t.k, nb := t.blocks }

/-- The output: its rows hold 128 elements, or the padded rows of a convert. -/
def opC (t : Task) : MemOp :=
  { va := t.vc, fmt := t.out, planes := t.opl + 1, scaled := carriesScales t.out ((ftScale t.fmt).getLsbD 1),
    rows := 128, nb := if t.kind = 3 then ceilDiv t.k 64 else 2 }

/-- Bytes of a partial tile with its bounds (R266). -/
def partBytes : Nat := 65536 + 16

/-- The ranges that a task reads and writes (R262 to R266). -/
def reads (t : Task) : List (Nat × Nat) :=
  match t.kind with
  | 0 => [(t.va, t.opA.size), (t.vb, t.opB.size)]
  | 1 => (t.va, t.opA.size) :: ((if t.keyLand then [] else [(t.cdKey, t.opB.size)]) ++ (if t.valLand then [] else [(t.cdVal, t.opV.size)]))
  | 2 => (t.va, partBytes) :: (if t.vb = 0 then [] else [(t.vb, partBytes)])
  | _ => [(t.va, 128 * 256 * ceilDiv t.k 64)]

def writesTo (t : Task) : List (Nat × Nat) :=
  (t.vc, t.opC.size) :: ((if t.bnd = 0 then [] else [(t.bnd * 4096, if t.kind = 3 then 8 * ceilDiv t.k 64 else 16)]) ++
    (if t.kind = 1 && t.cdMl != 0 then [(t.cdMl, 1024)] else []))

/-- The record breaks R260 or a rule of its kind whose outcome is TASKREC (R262 to R266). -/
def badRecord (t : Task) (marked : Bool) : Bool :=
  let w := recField t.raw
  decide (3 < t.kind) || decide (7 < w 1 1) || decide (7 < w 2 1) || w 4 4 / 2 ^ 20 != 0 || decide (63 < w 36 2) || w 38 2 / 128 != 0 ||
    (if t.out = 5 then t.opl == 0 else t.opl != 0) || w 50 2 != 0 || (t.sem != 0xFFFF && (decide (255 < t.sem) || t.inc == 0)) ||
    (match t.kind with
     | 0 => decide (t.k < 1) || decide (1048576 < t.k)
     | 1 => !(t.cdD == 64 || t.cdD == 128) || t.cdFlags / 16 != 0 || recField t.desc 36 28 != 0 || decide (t.k < 1) || decide (2 ^ 24 < t.k)
     | 2 => w 2 1 / 4 == 1 || (!marked && ftWide t.fmt) || t.k != 0
     | _ => w 2 1 / 4 == 1 || (!marked && ftWide t.fmt) || t.vb != 0 || decide (t.k < 1) || decide (1048576 < t.k))

/-- A format and planes field of a mat operand (R59, R74). -/
def operandOk (fmt pl : Nat) : Bool := isMatFmt fmt && (if fmt = 5 then pl != 0 else pl == 0)

/-- The entry or a format breaks R55, R59, R73 or R74 for the kind (R262): FP32x2 needs a wide accumulation in kind 0 alone (R263). -/
def illegal (t : Task) : Bool :=
  ftReserved t.fmt || decide (6 ≤ ftRnd t.fmt) || decide (11 < t.out) || (t.kind == 0 && t.out == 11 && !t.wide) ||
    (decide (t.kind < 2) && !(operandOk (ftAfmt t.fmt) (ftApl t.fmt) && operandOk (ftBfmt t.fmt) (ftBpl t.fmt))) ||
    (t.kind == 1 && !(decide (1 ≤ t.cdVfmt) && decide (t.cdVfmt ≤ 4)))

end Task

/-! ### Statuses, signals and reports of tasks (R261, R275, R276) -/

/-- The VA of a task's record. -/
def State.recVa (s : State) (vf n : Nat) : Nat := (s.vf vf).cfg.tasks + 64 * n

def State.task (s : State) (vf n : Nat) : Option Task := tfind n (s.vf vf).tasks

def State.modTask (s : State) (vf n : Nat) (f : Task → Task) : State :=
  match s.task vf n with
  | some t => s.modVf vf (fun v => { v with tasks := tput n (f t) v.tasks })
  | none => s

/-- The die on which a task's bulkhead lies. -/
def bhDie (bh : Nat) : Nat := bh / 16

/-- task.st is written (R261). -/
def State.taskStatus (s : State) (vf die n v : Nat) : State :=
  match s.writeVa none vf die (s.recVa vf n + 3) [BitVec.ofNat 8 v] with
  | .ok (_, s) => s
  | .error _ => s

/-- A signal of the scheduler on a virtual semaphore, as a release at pkg; none where the number is not mapped. -/
def State.taskSignal (s : State) (vf cell die v n : Nat) : Option State :=
  match s.resolve vf (BitVec.ofNat 8 v) with
  | some ps => some (s.signal { ps := ps, n := n, cover := s.cover die 3, cell := cell, sc := 5, vf := vf, due := s.semDue cell ps })
  | none => none

/-- A report to the poster of a task (R276). -/
def State.reportPoster (s : State) (t : Task) (code : Code) (a : Nat) : State :=
  s.reportItem t.cell t.sc t.launch t.idx { eng := 7, code := code, taddr := BitVec.ofNat 64 a }

/-- A fault of a task: its status, its signal when that is valid and mapped, and its report (R262, R276). A task that fails while it runs
also reports a signal lost because its number is not mapped. -/
def State.taskFault (s : State) (vf n : Nat) (t : Task) (code : Code) (a : Nat) (running : Bool) : State :=
  let die := bhDie t.bh
  let s := s.taskStatus vf die n (0x40 + code.toNat)
  let s :=
    if t.sem ≤ 255 ∧ t.inc ≠ 0 then
      (match s.taskSignal vf t.cell die t.sem t.inc with
       | some s => s
       | none => if running then s.reportPoster t Code.semmap (s.recVa vf n) else s)
    else s
  s.reportPoster t code a

/-! ### Slots and the overflow list (R267, R268, R431) -/

/-- Entries in a list that one frame holds. -/
def listEntries : Nat := 1024

/-- The listed tasks of a bulkhead, oldest first. -/
def Vf.listed (v : Vf) (bh : Nat) : List (Nat × Task) :=
  sortBy (fun (a b : Nat × Task) => decide (a.2.order < b.2.order)) (v.tasks.filter (fun e => e.2.bh == bh && e.2.slot.isNone))

/-- The lowest free slot of a bulkhead: a slot is free in the cycle after its task has left (R267). -/
def Vf.freeSlot (v : Vf) (bh : Nat) : Option Nat :=
  let used := v.tasks.filterMap (fun e => if e.2.bh = bh then e.2.slot else none)
  let held := v.slotFree.filterMap (fun e => if e.1 = bh ∧ v.clock < e.2.2 then some e.2.1 else none)
  (upto 256).find? (fun i => !used.contains i && !held.contains i)

/-- A list gives back the frames that its entries no longer need (R431). -/
def State.shrinkList (s : State) (vf bh : Nat) : State :=
  let v := s.vf vf
  let fr := tget [] v.listFrames bh
  let need := ceilDiv (v.listed bh).length listEntries
  (fr.drop need).foldl (fun s f => s.dropFrame vf f) (s.modVf vf (fun v => { v with listFrames := tset [] v.listFrames bh (fr.take need) }))

/-- The oldest listed tasks move into the slots that are free, at most n of them (R267). -/
def State.fillSlots (s : State) (vf bh : Nat) : Nat → State
  | 0 => s
  | n + 1 =>
    match (s.vf vf).freeSlot bh, (s.vf vf).listed bh with
    | some i, (m, _) :: _ => ((s.modTask vf m (fun t => { t with slot := some i })).shrinkList vf bh).fillSlots vf bh n
    | _, _ => s

/-- The slots of a bulkhead in a cycle, before anything enters or starts in it. -/
def State.refreshSlots (s : State) (vf bh : Nat) : State :=
  (s.fillSlots vf bh ((s.vf vf).listed bh).length).modVf vf (fun v => { v with slotFree := v.slotFree.filter (fun e => decide (v.clock < e.2.2)) })

/-- The side or sides of a running task are free from the next cycle on (R275). -/
def State.freeSides (s : State) (r : TaskRun) : State :=
  s.modCell r.cell (fun x =>
    (if r.side = 2 then [0, 1] else [r.side]).foldl (fun (x : Cell) k =>
      { x with sideTask := tdel k x.sideTask, freeSince := tput k (x.time + 1) x.freeSince }) x)

/-- A task leaves the scheduler. -/
def State.dropTask (s : State) (vf n : Nat) : State :=
  match s.task vf n with
  | none => s
  | some t =>
    let s := s.modVf vf (fun v => { v with tasks := tdel n v.tasks })
    let s := match t.run with | some r => s.freeSides r | none => s
    match t.slot with
    | some i => s.modVf vf (fun v => { v with slotFree := v.slotFree ++ [(t.bh, i, v.clock + 1)] })
    | none => s.shrinkList vf t.bh

/-- A running task fails (R276). -/
def State.failTask (s : State) (vf n : Nat) (t : Task) (code : Code) : State :=
  (s.taskFault vf n t code (s.recVa vf n) true).dropTask vf n

/-! ### Branches (R278) -/

/-- An entry of the branch table: none when it is invalid. -/
def State.branchEntry (s : State) (vf die i : Nat) : Except (Code × Dword) (Option Nat) := do
  let l ← s.readVa none vf die ((s.vf vf).cfg.branch + 8 * i) 8
  let e := ofBytes l
  return if e / 2 ^ 32 = 0 ∧ e / 2 ^ 31 % 2 = 1 ∧ e / 2 ^ 20 % 1024 = 0 then some e else none

/-- The entries from an index up to its root, at most n of them: none for an invalid entry or a deeper chain. -/
def State.branchChain (s : State) (vf die : Nat) : Nat → Nat → Except (Code × Dword) (Option (List (Nat × Nat)))
  | 0, _ => .ok none
  | n + 1, i => do
    match ← s.branchEntry vf die i with
    | none => return none
    | some e =>
      if e % 4096 = i then return some [(i, e)]
      else
        match ← s.branchChain vf die n (e % 4096) with
        | none => return none
        | some r => return some ((i, e) :: r)

/-! ### b.post, b.tdec and b.cancel (R280, R281) -/

/-- BPost (R280, R281). -/
def execBPost (g : Guard) (a : BitVec 6) (s : State) : Host.Outcome State Fault Refusal :=
  issueWord false g s (fun s => withScalars [a] s (fun xs s => noPoison xs (
    let va := (opnd xs 0).val
    let c := s.cur.cell
    let vf := s.vfOf c
    let base := (s.vf vf).cfg.tasks
    if va.toNat % 64 != 0 then .fault Code.align va
    else if va.toNat < base ∨ base + 64 * 65535 ≤ va.toNat then .fault Code.taskrec va
    else
      .done 1 { s with posts := s.posts ++ [{ vf := vf, va := va, cover := s.coverOf c s.cur.sc s.me.seq 3, cell := c, sc := s.cur.sc, launch := s.me.launch, idx := s.me.idx,
                                              srkey := s.me.srkey }] })))

/-- BTdec (R280, R281). -/
def execBTdec (g : Guard) (a : BitVec 6) (s : State) : Host.Outcome State Fault Refusal :=
  issueWord false g s (fun s => withScalars [a] s (fun xs s => noPoison xs (
    let n := (opnd xs 0).val.toNat
    let c := s.cur.cell
    if 65534 < n then .fault Code.taskrec (BitVec.ofNat 64 (s.recVa (s.vfOf c) n))
    else
      .done 1 { s with tdecs := s.tdecs ++ [{ vf := s.vfOf c, n := n, cell := c, sc := s.cur.sc, launch := s.me.launch, idx := s.me.idx }] })))

/-- BCancel (R280, R281). -/
def execBCancel (g : Guard) (a b : BitVec 6) (s : State) : Host.Outcome State Fault Refusal :=
  issueWord false g s (fun s => withScalars [a, b] s (fun xs s => noPoison xs (
    let id := (opnd xs 0).val
    let v := (opnd xs 1).val.toNat
    let c := s.cur.cell
    if 2 ^ 20 ≤ id.toNat then faultW s Code.taskrec
    else if v ≠ 0xFFFF ∧ (255 < v ∨ (s.resolve (s.vfOf c) (BitVec.ofNat 8 v)).isNone) then faultW s Code.semmap
    else
      .done 1 { s with cancels := s.cancels ++ [{ vf := s.vfOf c, branch := id.truncate 20, sem := if v = 0xFFFF then none else some (BitVec.ofNat 8 v),
                                                  cell := c, sc := s.cur.sc, launch := s.me.launch, idx := s.me.idx }] })))

/-! ### Entry (R262, R268, R269) -/

/-- What the entry of a record comes to. -/
inductive Entering where
  | fails (code : Code) (a : Nat) (t : Task)
  | drops (t : Task)
  | pending
  | enters (t : Task)

/-- The checks of R262 that follow those on the copy itself. -/
def State.branchCheck (s : State) (vf die n : Nat) (t : Task) : Entering :=
  let rva := s.recVa vf n
  match s.branchChain vf die 64 (t.br % 4096) with
  | .error (e, _) => .fails e rva t
  | .ok none => .fails Code.taskrec rva t
  | .ok (some l) =>
    if (l.head?.map (fun e => e.2 / 4096 % 256)) ≠ some (t.br / 4096 % 256) then .fails Code.taskrec rva t
    else if l.any (fun e => e.2 / 2 ^ 30 % 2 == 1) then .drops t
    else if (s.task vf n).isSome then .pending
    else
      let bad := (t.writesTo.map (fun r => (r.1, r.2, Acc.wr)) ++ t.reads.map (fun r => (r.1, r.2, Acc.rd))).findSome? (fun r =>
        match s.pages none vf die r.1 r.2.1 r.2.2 with
        | .error (e, _) => some e
        | .ok _ => none)
      match bad with
      | some e => .fails e rva t
      | none =>
        if t.sem ≠ 0xFFFF ∧ (s.resolve vf (BitVec.ofNat 8 t.sem)).isNone then .fails Code.semmap rva t else .enters t

/-- The checks of R262, in order. -/
def State.entryCheck (s : State) (p : Post) (n : Nat) (raw : List Byte) : Entering :=
  let die := dieOf p.cell
  let vf := p.vf
  let rva := s.recVa vf n
  let ent := s.ftEntry p.cell (recField raw 36 2 % 64)
  let t : Task :=
    { raw := raw, fmt := (match ent with | .ok e => e | .error _ => 0), cell := p.cell, sc := p.sc, launch := p.launch, idx := p.idx,
      srkey := p.srkey, deps := recField raw 48 2, bh := bhOf p.cell }
  let marked : Bool := match ent with | .ok _ => false | .error _ => true
  let desc : Except (Code × Dword) (List Byte) := if t.kind = 1 then s.readVa none vf die t.vb 64 else .ok []
  match desc with
  | .error (e, _) => .fails e rva t
  | .ok d =>
    let t := { t with desc := d }
    if t.badRecord marked then .fails Code.taskrec rva t
    else
      match ent with
      | .error (e, a) => .fails e a.toNat t
      | .ok _ =>
        if t.illegal then .fails Code.illegal rva t
        else if t.kind = 1 ∧ !(f32 t.cdC).isFin then .fails Code.chain rva t
        else s.branchCheck vf die n t

/-- A task that has passed its checks takes a slot, or a place in the overflow list (R267, R268). -/
def State.enterTask (s : State) (vf n : Nat) (t : Task) : State :=
  let die := bhDie t.bh
  let s := s.refreshSlots vf t.bh
  let (id, s) := s.fresh
  let t := { t with order := id, ready := if t.deps = 0 then some (s.vf vf).clock else none }
  let put (s : State) (t : Task) : State :=
    (s.modVf vf (fun v => { v with tasks := tput n t v.tasks, cancelledTasks := v.cancelledTasks.filter (· != n) })).taskStatus vf die n 0
  match (s.vf vf).freeSlot t.bh with
  | some i => put s { t with slot := some i }
  | none =>
    let fr := tget [] (s.vf vf).listFrames t.bh
    if ((s.vf vf).listed t.bh).length < listEntries * fr.length then put s t
    else
      match s.allocFrame vf die with
      | none => s.taskFault vf n t Code.quota (s.recVa vf n) false
      | some (f, s) => put (s.modVf vf (fun v => { v with listFrames := tset [] v.listFrames t.bh (fr ++ [f]) })) t

/-- TASK_ENTRY (R262): record i enters, after the earlier records of its strand, once the writes that b.post covers are performed (R281);
not while its VF is switched out, whose format cache it reads (R76, R282). -/
def execTaskEntry (i : Nat) (s : State) : Host.Outcome State Fault Refusal :=
  match s.posts[i]? with
  | none => .next s
  | some p =>
    if (s.posts.take i).any (fun q => q.cell == p.cell && q.sc == p.sc) || !s.performed p.cover || (s.cell p.cell).vf != some p.vf then .next s
    else
      let s := { s with posts := removeAt s.posts i }
      let n := (p.va.toNat - (s.vf p.vf).cfg.tasks) / 64
      let report (s : State) (e : Code) : State := s.reportItem p.cell p.sc p.launch p.idx { eng := 7, code := e, taddr := p.va }
      match s.readVa none p.vf (dieOf p.cell) p.va.toNat 64 with
      | .error (e, _) => .next (report s e)
      | .ok raw =>
        match s.entryCheck p n raw with
        | .fails e a t => .next (s.taskFault p.vf n t e a false)
        | .drops t => .next (s.taskStatus p.vf (bhDie t.bh) n 2)
        | .pending => .next (report s Code.taskrec)
        | .enters t => .next (s.enterTask p.vf n t)

/-! ### Decrements (R269 to R271) -/

/-- A decrement of counter n; one that finds 0 is reported to the poster of n, or to the given strand (R270). -/
def State.decrement (s : State) (vf n : Nat) (report : State → State) : State :=
  match s.task vf n with
  | some t =>
    if t.dead then s
    else if t.deps = 0 then s.reportPoster t Code.depunder (s.recVa vf n)
    else s.modTask vf n (fun t => { t with deps := t.deps - 1, ready := if t.deps = 1 then some (s.vf vf).clock else t.ready })
  | none => if (s.vf vf).cancelledTasks.contains n then s else report s

/-- TASK_DECREMENT (R270, R271): decrement i of b.tdec, after the earlier ones of its strand. -/
def execTaskDecrement (i : Nat) (s : State) : Host.Outcome State Fault Refusal :=
  match s.tdecs[i]? with
  | none => .next s
  | some d =>
    if (s.tdecs.take i).any (fun q => q.cell == d.cell && q.sc == d.sc) then .next s
    else
      let s := { s with tdecs := removeAt s.tdecs i }
      .next (s.decrement d.vf d.n (fun s => s.reportItem d.cell d.sc d.launch d.idx
        { eng := 7, code := Code.depunder, taddr := BitVec.ofNat 64 (s.recVa d.vf d.n) }))

/-! ### Ready order, starts and steals (R272 to R274) -/

/-- The effective priority at a time of the scheduler (R272): one level for each full 4,096 cc since the ready cycle. -/
def Task.level (t : Task) (now : Nat) : Nat :=
  min 7 (t.prio + max t.age (match t.ready with | some r => (now - r) / 4096 | none => 0))

/-- TASK_AGING (R272): the levels that a task has gained are recorded. -/
def execTaskAging (vf n : Nat) (s : State) : Host.Outcome State Fault Refusal :=
  match s.task vf n with
  | some t =>
    (match t.ready with
     | some r => .next (if t.run.isNone && decide (4096 * (t.age + 1) + r ≤ (s.vf vf).clock) && decide (t.prio + t.age < 7) then
         s.modTask vf n (fun t => { t with age := t.age + 1 }) else s)
     | none => .next s)
  | none => .next s

/-- The ready order of two slotted tasks (R272). -/
def Task.before (now : Nat) (a b : Task) : Bool :=
  if a.level now ≠ b.level now then decide (b.level now < a.level now)
  else if a.ready ≠ b.ready then decide (a.ready.getD 0 < b.ready.getD 0)
  else decide (a.slot.getD 256 < b.slot.getD 256)

/-- The ready slotted tasks of a bulkhead that may start in this cycle, in ready order (R269, R272). -/
def State.readyTasks (s : State) (vf bh : Nat) : List (Nat × Task) :=
  let now := (s.vf vf).clock
  sortBy (fun (a b : Nat × Task) => a.2.before now b.2) ((s.vf vf).tasks.filter (fun e =>
    e.2.bh == bh && e.2.slot.isSome && e.2.run.isNone && (match e.2.ready with | some r => decide (r < now) | none => false)))

/-- A side can run a task of a VF (R273): in TASK mode, free, and not claimed. -/
def State.sideFree (s : State) (vf c side : Nat) : Bool :=
  let x := s.cell c
  x.vf == some vf && x.runs && !x.strandMode side && (tfind side x.sideTask).isNone && decide (tget 0 x.freeSince side ≤ x.time) &&
    !s.claimed c side

/-- The group, as a cell and side (2: both), that can run a task among some cells: the lowest-numbered (R273). -/
def State.groupFor (s : State) (vf : Nat) (t : Task) (cells : List Nat) : Option (Nat × Nat) :=
  let cells := cells.filter (fun c => t.ties.all (fun b => b == bhOf c))
  if t.kind = 1 then (cells.find? (fun c => s.sideFree vf c 0 && s.sideFree vf c 1)).map (fun c => (c, 2))
  else (cells.flatMap (fun c => [(c, 0), (c, 1)])).find? (fun g => s.sideFree vf g.1 g.2)

/-- A run that has just begun. A chain opens at once; the first chunk of other kinds follows a cycle later (R434). -/
def newRun (kind c side t : Nat) : TaskRun :=
  { cell := c, side := side, start := t, free := if kind = 1 then t else t + 1, last := t,
    accs := [0, 0, 0, 0], los := [0, 0, 0, 0], bounds := [0, 0, 0, 0] }

/-- A task starts on a group. -/
def State.startTask (s : State) (vf n c side : Nat) : State :=
  let s := s.modTask vf n (fun t => { t with run := some (newRun t.kind c side (s.cell c).time), flags := 0 })
  s.modCell c (fun x => (if side = 2 then [0, 1] else [side]).foldl (fun (x : Cell) k => { x with sideTask := tput k (vf, n) x.sideTask }) x)

/-- The walk of a ready order (R273): first says whether a chain task that has not started stands first. -/
def State.walkReady (s : State) (vf bh : Nat) : Bool → List (Nat × Task) → State
  | _, [] => s
  | first, (n, t) :: r =>
    match s.groupFor vf t (if first then [2 * bh + 1] else [2 * bh, 2 * bh + 1]) with
    | some (c, side) => (s.startTask vf n c side).walkReady vf bh first r
    | none => s.walkReady vf bh first r

/-- TASK_START (R267, R273): listed tasks take the slots that are free, and a bulkhead's scheduler starts what it can in this cycle. -/
def execTaskStart (bh : Nat) (s : State) : Host.Outcome State Fault Refusal :=
  match (s.cell (2 * bh)).vf with
  | none => .next s
  | some vf =>
    let s := s.refreshSlots vf bh
    match s.readyTasks vf bh with
    | [] => .next s
    | (n, t) :: r =>
      match s.groupFor vf t [2 * bh, 2 * bh + 1] with
      | some (c, side) => .next ((s.startTask vf n c side).walkReady vf bh false r)
      | none => .next (s.walkReady vf bh (t.kind == 1) r)

/-- The bulkhead of a VF with the most ready slotted tasks; ties to the lowest number (R274). -/
def State.busiest (s : State) (vf : Nat) : Option Nat :=
  let bhs := (upto 64).filter (fun b => s.inShape vf (2 * b))
  let best := bhs.foldl (fun (m : Nat × Option Nat) b =>
    let n := (s.readyTasks vf b).length
    if m.1 < n then (n, some b) else m) (0, none)
  best.2

/-- A chain task stands first in the ready order of a cell's bulkhead, and the cell is kept for it (R273). -/
def State.keptForChain (s : State) (vf c : Nat) : Bool :=
  c % 2 == 0 && (match s.readyTasks vf (bhOf c) with | (_, t) :: _ => t.kind == 1 | [] => false)

/-- TASK_STEAL (R274): a side free for 64 cycles, without a task of its own bulkhead that it can run, takes the first that it can of the
busiest bulkhead. A single side never runs a chain task. -/
def execTaskSteal (c side : Nat) (s : State) : Host.Outcome State Fault Refusal :=
  let x := s.cell c
  match x.vf with
  | none => .next s
  | some vf =>
    let mine (e : Nat × Task) : Bool := e.2.kind != 1 && e.2.ties.all (fun b => b == bhOf c)
    if !s.sideFree vf c side || s.keptForChain vf c || x.time < tget 0 x.freeSince side + 64 || (s.readyTasks vf (bhOf c)).any mine then .next s
    else
      match s.busiest vf with
      | none => .next s
      | some b =>
        match (s.readyTasks vf b).find? (fun e => e.2.kind != 1 && e.2.ties.isEmpty) with
        | some (n, _) => .next (s.startTask vf n c side)
        | none => .next s

/-! ### Running tasks: operands (R263, R265, R266) -/

/-- The time of a cell's groups: cell time, beyond which running tasks go after a close that drains them (R50, R410). -/
def State.groupTime (s : State) (c : Nat) : Nat := (s.cell c).time + (s.cell c).ahead

/-- The values of 64 elements of a row, from its bytes and scale; elements from lim on are +0 (R78). -/
def blockVals (m : MemOp) (lim : Nat) (l : List Byte) (sc : Byte) : List FVal :=
  ((blockElems m.fmt m.planes l).zip (upto 64)).map (fun e =>
    if lim ≤ e.2 then FVal.zero else elemVal m.fmt m.planes (if m.scaled then some sc else none) e.1)

/-- Block j of rows lo to lo + n − 1: bytes and scale of each. -/
def State.opBlock (s : State) (vf die : Nat) (m : MemOp) (lo n j : Nat) : Except Code (List (List Byte × Byte)) :=
  (span lo n).mapM (fun r => do
    let l ← codeOf (s.readVa none vf die (m.va + r * m.row + j * m.block) m.block)
    let sc ← if m.scaled then codeOf (s.readVa none vf die (m.scales + r * m.nb + j) 1) else .ok [0]
    return (l, sc.headD 0))

/-- Block j of 128 rows as values. -/
def State.opVals (s : State) (vf die : Nat) (m : MemOp) (j lim : Nat) : Except Code (List (List FVal)) := do
  let l ← s.opBlock vf die m 0 128 j
  return l.map (fun e => blockVals m (lim - 64 * j) e.1 e.2)

/-- The members of a quad in order (R263). -/
def quad : List (Nat × Nat) := [(0, 0), (0, 1), (1, 0), (1, 1)]

/-- A chunk of kind 0 on a run's accumulators (R263). -/
def TaskRun.addChunk (r : TaskRun) (wide : Bool) (xs ys : List (List FVal)) : TaskRun × Flags :=
  let out := (quad.zip ((r.accs.zip r.los).zip r.bounds)).map (fun e =>
    let (h, l, fl) := chunkTile wide (accList e.2.1.1) (accList e.2.1.2) ((xs.drop (64 * e.1.1)).take 64) ((ys.drop (64 * e.1.2)).take 64)
    let b := chunkTerm wide h e.2.2
    (ofAccList h, if wide then ofAccList l else 0, b, fl ||| chunkOvf h e.2.2 0 0 b))
  ({ r with accs := out.map (·.1), los := out.map (·.2.1), bounds := out.map (·.2.2.1) }, orFlags (out.map (·.2.2.2)))

/-- By how many cycles the lines that a task reads next from memory are late: a choice of the environment (R419, R434). -/
def State.lateness (s : State) : Nat := s.env.late.headD 0

/-- That choice has been used. -/
def State.useLateness (s : State) : State := { s with env := { s.env with late := s.env.late.drop 1 } }

/-- The next chunk of a kind 0 task (R434): the chunk after it waits for its lines. -/
def State.chunk0 (s : State) (vf : Nat) (t : Task) (r : TaskRun) : Except Code (TaskRun × Flags) := do
  let die := dieOf r.cell
  let xs ← s.opVals vf die t.opA r.next t.k
  let ys ← s.opVals vf die t.opB r.next t.k
  let occ := max (occOf t.opA.fmt t.opA.planes) (occOf t.opB.fmt t.opB.planes)
  let (r, fl) := r.addChunk t.wide xs ys
  let now := (s.groupTime r.cell)
  return ({ r with next := r.next + 1, free := now + occ + s.lateness, last := now + occ + 20 }, fl)

/-- A query tile of a chain task: rows 64r to 64r + 63, block x. -/
def State.queryTile (s : State) (vf die : Nat) (m : MemOp) (r x : Nat) : Except Code Tile := do
  let l ← s.opBlock vf die m (64 * r) 64 x
  return fillTile { fmt := BitVec.ofNat 4 m.fmt, pl := BitVec.ofNat 3 (m.planes - 1), w := m.block, sc := m.scaled }
    (l.flatMap (·.1) ++ l.map (·.2))

/-- The source of a chain task's step in memory: nk rows from k0, already read (R265). -/
def State.memSource (s : State) (vf die : Nat) (m : MemOp) (k0 nk : Nat) : Except Code ChSrc := do
  let got ← (upto nk).foldlM (fun (g : Table Byte) j => do
    let l ← codeOf (s.readVa none vf die (m.va + (k0 + j) * m.row) m.row)
    let sc ← if m.scaled then codeOf (s.readVa none vf die (m.scales + (k0 + j) * m.nb) m.nb) else .ok []
    .ok (writeAll g (placed (j * m.row) l ++ placed (128 * m.row + j * m.nb) sc))) []
  return { fmt := BitVec.ofNat 4 m.fmt, pl := BitVec.ofNat 3 (m.planes - 1), sc := m.scaled, got := got }

/-- The source in a landing (R265): the handle is checked under R189, and its rows must hold the operand; its lines are still to be read. -/
def State.landSource (s : State) (c : Nat) (m : MemOp) (k0 nk : Nat) : Except Code ChSrc :=
  let h : Dword := BitVec.ofNat 64 m.va
  match s.landHandle c h, s.chHandle c h with
  | some l, some hd =>
    if tdFmt l.desc ≠ m.fmt ∨ (m.fmt = 5 ∧ tdPl l.desc + 1 ≠ m.planes) ∨ tdScaled l.desc ≠ m.scaled ∨ tdRows l.desc < k0 + nk ∨ tdRb l.desc < m.row then
      .error Code.handle
    else .ok (chSource hd k0 nk m.nb)
  | _, _ => .error Code.handle

/-- The O tiles of a chain task's run, row by row: with d = 64 the members in column 1 take no part. -/
def TaskRun.oTiles (r : TaskRun) (ch : Chain) : List OTile :=
  ((quad.zip ((r.accs.zip r.los).zip r.bounds)).filter (fun e => decide (e.1.2 < ch.blocks))).map (fun e =>
    ({ hi := accList e.2.1.1, lo := accList e.2.1.2, b := e.2.2 } : OTile))

/-- O tiles written back. -/
def TaskRun.setOTiles (r : TaskRun) (ch : Chain) (l : List OTile) : TaskRun :=
  let at' (i : Nat) : Option OTile := if ch.d128 then l[i]? else if i % 2 = 0 then l[i / 2]? else none
  { r with
    accs := (r.accs.zip (upto 4)).map (fun e => match at' e.2 with | some o => ofAccList o.hi | none => e.1)
    los := (r.los.zip (upto 4)).map (fun e => match at' e.2 with | some o => if ch.wide then ofAccList o.lo else 0 | none => e.1)
    bounds := (r.bounds.zip (upto 4)).map (fun e => match at' e.2 with | some o => o.b | none => e.1) }

/-- The keys of step i that some row sees. -/
def Task.stepKeys (t : Task) (i : Nat) : Nat :=
  let nk := min 128 (t.k - 128 * i)
  if t.causal then min nk (t.cdQpos + 128 - 128 * i) else nk

/-- A source of a chain task's steps lies in memory. -/
def Task.fromMem (t : Task) : Bool := !(t.keyLand && t.valLand)

/-- The next step of a chain task issues (R246, R265): its handles are checked, and keys in memory are read. When its lines from memory are
late each of its phases starts later by their delay (R419). -/
def State.chainTaskStep (s : State) (vf : Nat) (t : Task) (r : TaskRun) (ch : Chain) (i : Nat) : Except Code TaskRun := do
  let nk := t.stepKeys i
  let key ← if t.keyLand then s.landSource r.cell t.opB (128 * i) nk else s.memSource vf (dieOf r.cell) t.opB (128 * i) nk
  let val ← if t.valLand then s.landSource r.cell t.opV (128 * i) nk else .ok {}
  let ts := ch.blocks * max ch.qOcc (occOf t.opB.fmt t.opB.planes)
  let (ch, _) := ch.begin { op := i, nk := nk, causal := if t.causal then some (t.cdQpos, 128 * i) else none, key := key, val := val }
    (s.groupTime r.cell) ts (2 * occOf t.opV.fmt 8) (if t.fromMem then s.lateness else 0)
  return { r with chain := some ch, next := r.next + 1 }

/-- The lines of a chain task's steps that are read in this cycle: keys from the issue of a step, values from its value phase, 32 lines of
a landing in a cycle, or those of a source in memory at once (R246, R257). -/
def State.readSteps (s : State) (vf : Nat) (t : Task) (r : TaskRun) (ch : Chain) : Except Code Chain := do
  let steps ← ch.steps.mapM (fun (st : ChStep) => do
    let key := (s.readSource r.cell st.key).1
    if (s.groupTime r.cell) < st.vs then return { st with key := key }
    else if t.valLand then return { st with key := key, val := (s.readSource r.cell st.val).1, started := true }
    else if st.started then return { st with key := key }
    else
      let val ← s.memSource vf (dieOf r.cell) t.opV (128 * st.op) st.nk
      return { st with key := key, val := val, started := true })
  return { ch with steps := steps }

/-- The oldest step of a chain task completes (R246, R247): its consumers count, whether it is poisoned or not; its arithmetic is done, or a
poisoned word fails the task. -/
def State.endStep (s : State) (r : TaskRun) (ch : Chain) : Except Code (TaskRun × Chain × Flags) × State :=
  match ch.steps with
  | [] => (.ok (r, ch, 0), s)
  | st :: rest =>
    if (s.groupTime r.cell) < st.vs + st.tv + 20 then (.ok (r, ch, 0), s)
    else
      let s := ([st.key.land, st.val.land].filterMap (fun l => l)).eraseDups.foldl (fun s l => s.consume l.1 l.2) s
      if st.key.bad || st.val.bad then (.error Code.poison, s)
      else
        let (ch', os, fl) := ch.apply st (r.oTiles ch)
        (.ok (r.setOTiles ch os, { ch' with steps := rest }, fl), s)

/-- The close of a chain task's chain (R248, R251, R265): O divided, bounds set, (m, l) to be written. -/
def TaskRun.closeChain (r : TaskRun) (ch : Chain) (ml cyc : Nat) : TaskRun × Flags :=
  let out := ((r.oTiles ch).zip (upto ch.memberAccs.length)).map (fun e =>
    closeMember ch.wide ch.lam ((ch.l.drop (64 * (e.2 / ch.blocks))).take 64) e.1)
  ({ r.setOTiles ch (out.map (·.1)) with next := r.next + 1, last := cyc + 71, writes := if ml = 0 then [] else [(72, ml, ch.mlBytes)] },
   orFlags (out.map (·.2)))

/-- What a chain task does in a cycle (R246, R257, R419): it opens; or a step completes, it steps or closes, and lines are read, those of
keys from the cycle in which their step issues. -/
def State.chunk1 (s : State) (vf n : Nat) (t : Task) (r : TaskRun) : State :=
  let now := (s.groupTime r.cell)
  let set (s : State) (r : TaskRun) (fl : Flags) : State := s.modTask vf n (fun t => { t with run := some r, flags := t.flags ||| fl })
  match r.chain with
  | none =>
    let die := dieOf r.cell
    (match (([(0, 0), (1, 0)] ++ (if t.cdD = 128 then [(0, 1), (1, 1)] else [])).mapM (fun (e : Nat × Nat) => s.queryTile vf die t.opA e.1 e.2)) with
     | .error e => s.failTask vf n t e
     | .ok q =>
       set s { r with chain := some (Chain.opened (t.cdD == 128) (t.cdFlags / 8 % 2 == 1) t.wide t.cdC q now) } 0)
  | some ch =>
    match s.endStep r ch with
    | (.error e, s) => s.failTask vf n t e
    | (.ok (r, ch, fl), s) =>
      let steps := decide (r.next < t.steps) && decide (ch.busy ≤ now) && decide (ch.steps.length ≤ 2)
      let next : Except Code (TaskRun × Flags) := do
        let r := { r with chain := some ch }
        let r ← if steps then s.chainTaskStep vf t r ch r.next else .ok r
        let ch ← s.readSteps vf t r (r.chain.getD ch)
        if !steps && decide (t.steps ≤ r.next) && ch.steps.isEmpty then return r.closeChain ch t.cdMl now
        else return ({ r with chain := some ch }, 0)
      match next with
      | .error e => s.failTask vf n t e
      | .ok (r, f) => set (if steps && t.fromMem then s.useLateness else s) r (fl ||| f)

/-! ### Drains of tasks (R266, R277) -/

/-- A converted 64×64 position of the output: row block, column block, conversion, and whether its bound passes the threshold. -/
structure TaskOut where
  r : Nat
  c : Nat
  conv : Conv
  exc : Bool

/-- The conversion of one position (R227, R263, R266). -/
def Task.convert (t : Task) (r c : Nat) (hi : List (BitVec 32)) (lo : Option (List (BitVec 32))) (b : BitVec 32) (zero : Bool) : TaskOut :=
  let sp : ConvSpec := { out := t.out, rnd := ftRnd t.fmt, k := t.opl + 1, scaled := t.opC.scaled, key := t.srkey, row0 := 64 * r, col0 := 64 * c }
  let cv := (convTile sp hi lo b).getD {}
  let cv := if zero then { cv with bound := 0 } else cv
  { r := r, c := c, conv := cv, exc := t.mode != 0 && exceeds cv.bound t.thr }

/-- The writes of a task's output, each with its cycle after the drain check (R263, R266, R434): row i of every member with its scales at
8 + i, bounds with their marks at 72. -/
def Task.outWrites (t : Task) (ps : List TaskOut) : List (Nat × Nat × List Byte) :=
  let m := t.opC
  let row (q i : Nat) : List (Nat × Nat × List Byte) :=
    let l := ps.filter (fun p => p.r == q)
    (8 + i, t.vc + (64 * q + i) * m.row, l.flatMap (fun p => rowBytes t.out (t.opl + 1) (p.conv.rows.getD i []))) ::
      (if m.scaled then [(8 + i, m.scales + (64 * q + i) * m.nb, l.map (fun p => p.conv.scales.getD i 0))] else [])
  (upto 64).flatMap (fun i => row 0 i ++ row 1 i) ++
    (if t.bnd = 0 then [] else [(72, t.bnd * 4096, ps.flatMap (fun p => leBytes (storedBound p.conv.bound (p.exc && t.mode == 1)).toNat 4))])

/-- The flags of a task's drain: its conversions', and DKX under MARK. -/
def Task.outFlags (t : Task) (ps : List TaskOut) : Flags :=
  orFlags (ps.map (fun p => p.conv.ovf ||| orFlags p.conv.flags)) ||| (if t.mode = 1 && ps.any (·.exc) then Flags.dkx else 0)

/-- A partial tile of kind 2: 128×128 words, and four bounds with bit 31 cleared (R266). -/
def State.partTile (s : State) (vf die va : Nat) : Except Code (List (BitVec 32) × List (BitVec 32)) := do
  let l ← codeOf (s.readVa none vf die va Task.partBytes)
  let ws := (chunksOf 4 l (Task.partBytes / 4)).map (fun b => BitVec.ofNat 32 (ofBytes b))
  return (ws.take 16384, (ws.drop 16384).map (· &&& 0x7FFFFFFF))

/-- Position (r, c) of rows of n words. -/
def blockAt (ws : List (BitVec 32)) (n r c : Nat) : List (BitVec 32) :=
  (span (64 * r) 64).flatMap (fun i => (ws.drop (i * n + 64 * c)).take 64)

/-- The positions of a kind 2 task, with the flags of their sums. -/
def State.chunk2 (s : State) (vf die : Nat) (t : Task) : Except Code (List TaskOut × Flags) := do
  let (a, ba) ← s.partTile vf die t.va
  let other : Option (List (BitVec 32) × List (BitVec 32)) ←
    if t.vb = 0 then .ok none else do let x ← s.partTile vf die t.vb; .ok (some x)
  let out := (quad.zip (upto 4)).map (fun (e : (Nat × Nat) × Nat) =>
    let x : List (BitVec 32) := blockAt a 128 e.1.1 e.1.2
    let b := ba.getD e.2 0
    match other with
    | none => (t.convert e.1.1 e.1.2 x none b false, (0 : Flags))
    | some (y, by') =>
      let sums : List (BitVec 32 × Flags) := (x.zip (blockAt y 128 e.1.1 e.1.2)).map (fun (p : BitVec 32 × BitVec 32) => rne32 ((f32 p.1).add (f32 p.2)))
      let h : List (BitVec 32) := List.map Prod.fst sums
      let b' := if hasBad h then bInf else bAdd (bAdd b (f32 (by'.getD e.2 0))) (emaxTerm (topMag h) 24)
      (t.convert e.1.1 e.1.2 h none b' false, orFlags (chunkOvf h b (by'.getD e.2 0) 0 b' :: List.map Prod.snd sums)))
  return (out.map (·.1), orFlags (out.map (·.2)))

/-- The positions of a kind 3 task; elements from task.k on are +0. -/
def State.chunk3 (s : State) (vf die : Nat) (t : Task) : Except Code (List TaskOut) := do
  let nb := ceilDiv t.k 64
  (upto 2).foldlM (fun (l : List TaskOut) r => do
    let ps ← (upto nb).mapM (fun j => do
      let rows ← (span (64 * r) 64).mapM (fun i => codeOf (s.readVa none vf die (t.va + i * nb * 256 + j * 256) 256))
      let ws := rows.flatMap (fun l => ((chunksOf 4 l 64).zip (upto 64)).map (fun b => if t.k ≤ 64 * j + b.2 then 0 else BitVec.ofNat 32 (ofBytes b.1)))
      return t.convert r j ws none 0 false)
    .ok (l ++ ps)) []

/-- Kinds 2 and 3 read and convert their inputs (R434); next is 2 when TRAP or REISSUE finds a bound exceeded. -/
def State.chunk23 (s : State) (vf n : Nat) (t : Task) (r : TaskRun) : State :=
  let die := dieOf r.cell
  match (if t.kind = 2 then s.chunk2 vf die t else do let l ← s.chunk3 vf die t; return (l, (0 : Flags))) with
  | .error e => s.failTask vf n t e
  | .ok (ps, fl) =>
    let r := { r with next := if decide (2 ≤ t.mode) && ps.any (·.exc) then 2 else 1,
                      last := (s.groupTime r.cell) + s.lateness + 64 * ceilDiv ps.length 4, writes := t.outWrites ps }
    s.useLateness.modTask vf n (fun t => { t with run := some r, flags := t.flags ||| fl ||| t.outFlags ps })

/-- A running task's group works: its VF is resident on the cell, which is neither frozen nor closed but to drain (R48, R282, R410). -/
def State.groupRuns (s : State) (vf : Nat) (r : TaskRun) : Bool :=
  let x := s.cell r.cell
  x.vf == some vf && x.frozenOn.isEmpty && (!x.closed || x.choice == some .drain)

/-- A consumer completion of a handle: it counts on the landing that the handle names now, in the VF's shape (R189, R207). -/
def State.consumeHandle (s : State) (vf : Nat) (h : Dword) : State :=
  if s.inShape vf (hdCell h) && (s.landHandle (hdCell h) h).isSome then s.consume (bhOf (hdCell h)) (hdIdx h) else s

/-- The steps of a chain task that have completed. -/
def Task.stepsDone (t : Task) : Nat :=
  match t.run with
  | some r => r.next - (match r.chain with | some ch => ch.steps.length | none => 0)
  | none => 0

/-- Consumers of the landings of a chain task, for the steps that it will not run (R279). -/
def State.dropSteps (s : State) (vf : Nat) (t : Task) : State :=
  (upto (t.steps - t.stepsDone)).foldl (fun s _ => t.lands.foldl (fun s h => s.consumeHandle vf h) s) s

/-- A cancelled task has stopped (R279): its status, and nothing is decremented or signalled. -/
def State.endCancelled (s : State) (vf n : Nat) (t : Task) : State :=
  let s := if t.kind = 1 then s.dropSteps vf t else s
  let s := (s.taskStatus vf (bhDie t.bh) n 2).dropTask vf n
  s.modVf vf (fun v => { v with cancelledTasks := insertBy (fun a b => decide (a < b)) n v.cancelledTasks })

/-- A cancelled task is at a boundary of its chunks or steps (R279). -/
def TaskRun.atBoundary (r : TaskRun) (now : Nat) : Bool :=
  decide (r.free ≤ now) && (match r.chain with | some ch => decide (ch.busy ≤ now) | none => true)

/-- TASK_CHUNK_ISSUE (R263, R265, R266, R279, R434): the next chunk or step of a running task; a cancelled one stops there. -/
def execTaskChunkIssue (vf n : Nat) (s : State) : Host.Outcome State Fault Refusal :=
  match s.task vf n with
  | none => .next s
  | some t =>
    match t.run with
    | none => .next s
    | some r =>
      if (s.groupTime r.cell) < r.free || r.checked.isSome || !s.groupRuns vf r then .next s
      else if t.dead then .next (if r.atBoundary (s.groupTime r.cell) then s.endCancelled vf n t else s)
      else
        match t.kind with
        | 0 =>
          if t.blocks ≤ r.next then .next s
          else
            (match s.chunk0 vf t r with
             | .error e => .next (s.failTask vf n t e)
             | .ok (r, fl) => .next (s.useLateness.modTask vf n (fun t => { t with run := some r, flags := t.flags ||| fl })))
        | 1 => if t.steps < r.next then .next s else .next (s.chunk1 vf n t r)
        | _ => if r.next ≠ 0 then .next s else .next (s.chunk23 vf n t r)

/-- Every chunk or step of a task has issued. -/
def Task.issued (t : Task) (r : TaskRun) : Bool :=
  match t.kind with
  | 0 => decide (t.blocks ≤ r.next)
  | 1 => decide (t.steps < r.next)
  | _ => r.next != 0

/-- The drain of kinds 0 and 1. -/
def Task.drain (t : Task) (r : TaskRun) : List TaskOut :=
  (quad.zip ((r.accs.zip r.los).zip r.bounds)).map (fun e =>
    t.convert e.1.1 e.1.2 (accList e.2.1.1) (if t.wide then some (accList e.2.1.2) else none) e.2.2 (t.kind == 1 && t.cdD == 64 && e.1.2 == 1))

/-- TASK_DRAIN_CHECK (R277, R434): in the cycle after the last result; TRAP fails the task, REISSUE runs it again, wide, once. -/
def execTaskDrainCheck (vf n : Nat) (s : State) : Host.Outcome State Fault Refusal :=
  match s.task vf n with
  | none => .next s
  | some t =>
    match t.run with
    | none => .next s
    | some r =>
      let now := (s.groupTime r.cell)
      if now ≤ r.last || r.checked.isSome || !t.issued r || t.dead || !s.groupRuns vf r then .next s
      else if 2 ≤ t.kind then
        if r.next = 2 then .next (s.failTask vf n t Code.deckle)
        else .next (s.modTask vf n (fun t => { t with run := some { r with checked := some now } }))
      else
        let ps := t.drain r
        if ps.any (·.exc) && decide (2 ≤ t.mode) then
          if t.mode = 3 ∧ t.rcnt = 0 then
            .next (s.modTask vf n (fun t => { t with rcnt := 1, flags := 0, run := some { newRun t.kind r.cell r.side now with free := now + 1 } }))
          else .next (s.failTask vf n t Code.deckle)
        else
          .next (s.modTask vf n (fun t => { t with flags := t.flags ||| t.outFlags ps,
                                                   run := some { r with checked := some now, writes := t.outWrites ps ++ r.writes } }))

/-- Writes of a task, in order, with their numbers; the first that fails stops them. -/
def State.taskWrites (s : State) (vf die : Nat) : List (Nat × Nat × List Byte) → List Nat → Except (Code × State) (List Nat × State)
  | [], l => .ok (l, s)
  | (_, a, b) :: r, l =>
    match s.writeVa none vf die a b with
    | .ok (i, s) => s.taskWrites vf die r (l ++ [i])
    | .error (e, _) => .error (e, s)

/-- The flags of a task are ORed into its poster's sr.stat, if that strand still runs the item (R72). -/
def State.posterFlags (s : State) (t : Task) : State :=
  let st := s.strand t.cell t.sc
  if st.st != .idle && !st.halted && st.launch == t.launch && st.launch.isSome && st.idx == t.idx then s.flagNow t.cell t.sc t.flags else s

/-- The outputs of a task are written and performed: its status, visible at pkg with them; successors in slot order, flags, and the signal
(R275, R421). -/
def State.completeTask (s : State) (vf n : Nat) (t : Task) (cell : Nat) : State :=
  let die := dieOf cell
  let s := (s.taskStatus vf die n (if t.rcnt = 0 then 1 else 3)).settle.dropTask vf n
  let s := ((upto 4).map t.succ).foldl (fun s m =>
    if m = 0xFFFF then s else s.decrement vf m (fun s => s.reportPoster t Code.depunder (s.recVa vf m))) s
  let s := s.posterFlags t
  if t.sem = 0xFFFF then s
  else
    match s.taskSignal vf cell die t.sem t.inc with
    | some s => s
    | none => s.reportPoster t Code.semmap (s.recVa vf n)

/-- TASK_COMPLETION (R275, R434): the output writes that are due are made; when the last has been acknowledged the task completes, or, if it
has been cancelled, only ends (R279). -/
def execTaskCompletion (vf n : Nat) (s : State) : Host.Outcome State Fault Refusal :=
  match s.task vf n with
  | none => .next s
  | some t =>
    match t.run with
    | none => .next s
    | some r =>
      match r.checked with
      | none => .next s
      | some k =>
        let now := (s.groupTime r.cell)
        if !s.groupRuns vf r then .next s
        else
          match s.taskWrites vf (dieOf r.cell) (r.writes.filter (fun w => decide (k + w.1 ≤ now))) r.cover with
          | .error (e, s) => .next (if t.dead then s.endCancelled vf n t else s.failTask vf n t e)
          | .ok (cover, s) =>
            let rest := r.writes.filter (fun w => !decide (k + w.1 ≤ now))
            if now < k + 72 || !rest.isEmpty || !s.performed cover then
              .next (s.modTask vf n (fun t => { t with run := some { r with writes := rest, cover := cover } }))
            else .next (if t.dead then s.endCancelled vf n t else s.completeTask vf n t r.cell)

/-! ### Cancellation of a branch (R279) -/

/-- A task is cancelled: at once unless it runs, when it stops at its next boundary, or ends with the drain that it has issued. -/
def State.cancelTask (s : State) (vf n : Nat) (t : Task) : State :=
  if t.run.isSome then s.modTask vf n (fun t => { t with dead := true }) else s.endCancelled vf n t

/-- A branch lies in the subtree of b. -/
def State.inSubtree (s : State) (vf die b i : Nat) : Bool :=
  match s.branchChain vf die 64 i with
  | .ok (some l) => l.any (fun e => e.1 == b)
  | _ => false

/-- A cancellation takes effect: br.dead is set, for every die at once; the tasks of the subtree are cancelled, and its KV sequences freed. The
tasks that still run are listed. -/
def State.applyCancel (s : State) (k : Cancel) : List (Nat × Nat) × State :=
  let die := dieOf k.cell
  let b := k.branch.toNat % 4096
  let va := (s.vf k.vf).cfg.branch + 8 * b
  match s.branchEntry k.vf die b with
  | .error (e, _) => ([], s.reportItem k.cell k.sc k.launch k.idx { eng := 7, code := e, taddr := BitVec.ofNat 64 va })
  | .ok none => ([], s)
  | .ok (some e) =>
    if e / 4096 % 256 ≠ k.branch.toNat / 4096 then ([], s)
    else
      let s := match s.writeVa none k.vf die va (leBytes (if e / 2 ^ 30 % 2 = 1 then e else e + 2 ^ 30) 8) with
        | .ok (_, s) => s.settle
        | .error _ => s
      let hit := (s.vf k.vf).tasks.filter (fun x => s.inSubtree k.vf die b (x.2.br % 4096))
      ((hit.filter (fun x => x.2.run.isSome)).map (fun x => (x.1, x.2.order)),
       (hit.foldl (fun s x => s.cancelTask k.vf x.1 x.2) s).kvFreeTagged k.vf (fun br => s.inSubtree k.vf die b (br % 4096)))

/-- BRANCH_CANCELLATION (R279, R281): cancellation i takes effect; when every cancelled task has stopped, its semaphore is signalled, as a
release at pkg of the writes of every die, the status writes among them (R261). -/
def execBranchCancellation (i : Nat) (s : State) : Host.Outcome State Fault Refusal :=
  match s.cancels[i]? with
  | none => .next s
  | some k =>
    if (s.cancels.take i).any (fun q => q.stopped.isNone && q.cell == k.cell && q.sc == k.sc) || (s.cell k.cell).vf != some k.vf then .next s
    else
      match k.stopped with
      | none =>
        let (l, s) := s.applyCancel k
        .next { s with cancels := modifyAt (fun k => { k with stopped := some l }) s.cancels i }
      | some l =>
        if l.any (fun x => match s.task k.vf x.1 with | some t => t.order == x.2 | none => false) then .next s
        else
          let s := { s with cancels := removeAt s.cancels i }
          match k.sem.bind (fun v => s.resolve k.vf (BitVec.ofNat 8 v.toNat)) with
          | some ps =>
            .next (s.signal { ps := ps, n := 1, cover := ([0, 1, 2, 3].flatMap (fun d => s.cover d 3)).eraseDups, cell := k.cell, sc := 5,
                              vf := k.vf, due := s.semDue k.cell ps })
          | none => .next s

end Sys2Proof.Machine
end

