-- ==== Sys2Proof/Machine/Launch.lean ====
section
/-! DEFINITION. Launches (R28 to R41, R52 to R54, R76, R139 to R141, R196, R373, R417): headers and their checks, placement, launch queues,
device-side launches, the taking and aging of items, flume streams' starts, completion, and the cancellation of items. -/

namespace Sys2Proof.Machine

open Sys2Proof

/-! ### Headers (R28, R29, R33 to R35) -/

/-- n bits of hdr.ctl from bit lo (R34). -/
def ctlField (ctl : Dword) (lo n : Nat) : Nat := ctl.toNat / 2 ^ lo % 2 ^ n

/-- hdr.w0 to hdr.w5. -/
def ctlWidths (ctl : Dword) : List Nat := (upto 6).map (fun k => ctlField ctl (6 * k) 6)

def ctlLc (ctl : Dword) : Nat := ctlField ctl 36 3
def ctlLb (ctl : Dword) : Nat := ctlField ctl 39 3
def ctlPrio (ctl : Dword) : Nat := ctlField ctl 42 3
def ctlCkpt (ctl : Dword) : Bool := ctl.getLsbD 45

/-- A launch from the 64 bytes of its header (R33). -/
def Launch.ofHeader (vf : Nat) (queue : Option Nat) (count : Nat) (l : List Byte) : Launch :=
  let w (o n : Nat) : Nat := recField l o n
  { vf := vf, queue := queue, entry := BitVec.ofNat 64 (w 0 8), fentry := BitVec.ofNat 64 (w 8 8), ctl := BitVec.ofNat 64 (w 16 8),
    ext := (upto 6).map (fun k => w (24 + 4 * k) 4), args := BitVec.ofNat 64 (w 48 8), csem := BitVec.ofNat 16 (w 56 2),
    ftb := BitVec.ofNat 6 (w 58 2), cwoff := BitVec.ofNat 64 (w 60 4), count := count }

/-- The completion semaphore is a virtual number. -/
def Launch.hasSem (l : Launch) : Bool := decide (l.csem.toNat ≤ 255)

/-- A completion word can be written for a refused launch. -/
def Launch.hasWord (l : Launch) : Bool := l.args != 0 && l.args.toNat % 8 == 0 && l.cwoff.toNat % 8 == 0

/-- The launch unit accepts a header (R35). -/
def State.headerOk (s : State) (l : Launch) (raw : List Byte) : Bool :=
  let ws := ctlWidths l.ctl
  decide (ws.foldl (· + ·) 0 ≤ 64) && (ws.zip l.ext).all (fun (e : Nat × Nat) => decide (e.2 ≤ 2 ^ e.1)) &&
    decide (ctlLc l.ctl ≤ ctlLb l.ctl) && decide (ctlLb l.ctl ≤ 6) && l.ctl.toNat / 2 ^ 46 == 0 &&
    l.entry != 0 && l.entry.toNat % 4 == 0 && l.fentry.toNat % 4 == 0 && l.hasWord && decide (recField raw 58 2 ≤ 63) &&
    (l.csem == 0xFFFF || (l.hasSem && (s.resolve l.vf (l.csem.truncate 8)).isSome))

/-! ### Placement (R29 to R31) -/

/-- e(a) · … · e(b − 1). -/
def Launch.prodE (l : Launch) (a b : Nat) : Nat := ((l.ext.take b).drop a).foldl (· * ·) 1

/-- The bulkhead sets of a shape, each the list of its cells. -/
def shapeSets (sh : BitVec 16) : List (List Nat) :=
  let off := (sh.extractLsb' 4 4).toNat
  let n := 2 ^ (sh.extractLsb' 0 3).toNat
  ((upto 4).filter (fun d => (sh.extractLsb' 8 4).getLsbD d)).map (fun d => span (2 * (16 * d + off)) (2 * n))

/-- The cells of a shape. -/
def shapeCells (sh : BitVec 16) : List Nat := (shapeSets sh).flatten

/-- Where a cell lies in a shape: its set, its place in the set, the cells of a set and the sets. -/
structure Seat where
  set : Nat
  pos : Nat
  ncells : Nat
  nsets : Nat

def seatOf (sh : BitVec 16) (c : Nat) : Option Seat :=
  let sets := shapeSets sh
  match findIdx (fun (x : List Nat) => x.contains c) sets 0 with
  | some (i, x) => some { set := i, pos := c - x.headD 0, ncells := x.length, nsets := sets.length }
  | none => none

/-- How many items a cell receives. -/
def Launch.share (l : Launch) (p : Seat) : Nat :=
  let (lc, lb) := (ctlLc l.ctl, ctlLb l.ctl)
  let groups := ceilDiv (l.prodE lb 6 - p.set) p.nsets * l.prodE lc lb
  ceilDiv (groups - p.pos) p.ncells * l.prodE 0 lc

/-- The linear index of the t-th item of a cell, in rising order: cell groups of rank pos, pos + ncells, … and in each the items of a
group. -/
def Launch.itemAt (l : Launch) (p : Seat) (t : Nat) : Nat :=
  let (lc, lb) := (ctlLc l.ctl, ctlLb l.ctl)
  let size := l.prodE 0 lc
  let g := l.prodE lc lb
  let rank := p.pos + p.ncells * (t / size)
  t % size + size * (rank % g + g * (rank / g * p.nsets + p.set))

/-- The work identifier of a linear index (R28, R29). -/
def Launch.widAt (l : Launch) (idx : Nat) : Nat :=
  let ws := ctlWidths l.ctl
  (upto 6).foldl (fun acc k =>
    acc + idx / l.prodE 0 k % l.ext.getD k 1 * 2 ^ (ws.take k).foldl (· + ·) 0) 0

/-- Two items belong to one group at a level (R30). -/
def Launch.sameGroup (l : Launch) (lvl a b : Nat) : Bool := a / l.prodE 0 lvl == b / l.prodE 0 lvl

/-! ### Shares -/

def State.launchAt (s : State) (id : Nat) : Option Launch := tfind id s.launches

def State.modLaunch (s : State) (id : Nat) (f : Launch → Launch) : State :=
  match s.launchAt id with
  | some l => { s with launches := tput id (f l) s.launches }
  | none => s

def State.modShare (s : State) (id c : Nat) (f : Share → Share) : State :=
  s.modLaunch id (fun l => match tfind c l.shares with | some h => { l with shares := tput c (f h) l.shares } | none => l)

/-- A cell loads the VF's format table (R76): each entry, or the fault that marks it, with the entry's VA. -/
def State.loadFormats (s : State) (c : Nat) : State :=
  let vf := s.vfOf c
  (upto 64).foldl (fun s i =>
    let va := ((s.vf vf).cfg.fmttab + 4 * i) % 2 ^ 64
    match s.readVa (some c) vf (dieOf c) va 4 with
    | .ok l => s.modCell c (fun x => { x with fmtCache := tset 0 x.fmtCache i (BitVec.ofNat 32 (ofBytes l)), fmtFault := tdel i x.fmtFault })
    | .error (e, _) => s.modCell c (fun x => { x with fmtFault := tput i (e, BitVec.ofNat 64 va) x.fmtFault })) s

/-- A launch starts on a cell on which its VF is resident (R32, R36, R76). -/
def State.startShare (s : State) (id c : Nat) : State :=
  match s.launchAt id with
  | none => s
  | some l =>
    match tfind c l.shares with
    | none => s
    | some h =>
      if h.started || (s.cell c).vf != some l.vf then s
      else
        let (order, s) := s.fresh
        (s.modShare id c (fun h => { h with started := true, order := order, startTime := (s.cell c).time })).loadFormats c

/-- The launches of a cell's VF that wait for its residency start on the cell. -/
def State.startShares (s : State) (c : Nat) : State := (s.launches.map (fun e => e.1)).foldl (fun s id => s.startShare id c) s

/-- An accepted launch starts: its items are placed. -/
def State.startLaunch (s : State) (l : Launch) : State :=
  let (id, s) := s.fresh
  let sh := (s.vf l.vf).cfg.shape
  let cells := shapeCells sh
  let shares : Table Share := cells.filterMap (fun c =>
    match seatOf sh c with
    | some p => if l.share p = 0 then none else some (c, { total := l.share p, stream := if l.fentry = 0 then .none else .pending })
    | none => none)
  cells.foldl (fun s c => s.startShare id c) { s with launches := tput id { l with shares := shares } s.launches }

/-! ### Completion words and signals (R35, R54) -/

/-- The completion word is written by a store of the launch unit; one that fails is dropped, with an event. -/
def State.completionWord (s : State) (l : Launch) (status : Nat) : State :=
  match s.writeVa none l.vf 0 (l.args + l.cwoff).toNat (leBytes (s.wall % 2 ^ 48 * 2 ^ 16 + status) 8) with
  | .ok (_, s) => s
  | .error _ => s.event 3 l.vf 0xFF []

/-- hdr.csem is signalled, after every write so far; none where it is not mapped. -/
def State.completionSignal (s : State) (l : Launch) : Option State :=
  match s.resolve l.vf (l.csem.truncate 8) with
  | some ps => some (s.signal { ps := ps, n := 1, cover := s.cover 0 4, cell := 0, sc := 5, vf := l.vf, due := s.wall3 })
  | none => none

/-- A refused launch (R35). -/
def State.refuseLaunch (s : State) (l : Launch) : State :=
  let s := s.modVf l.vf (fun v => { v with counters := { v.counters with refused := v.counters.refused + 1 } })
  let s := if l.hasWord then s.completionWord l 1 else s
  if l.hasSem then (s.completionSignal l).getD s else s

/-! ### Launch queues (R36, R37, R373) -/

def State.lq (s : State) (vf q : Nat) : Lq := (s.vf vf).lqs.getD q {}

def State.modLq (s : State) (vf q : Nat) (f : Lq → Lq) : State := s.modVf vf (fun v => { v with lqs := modifyAt f v.lqs q })

/-- A queue stops: LQOVERRUN or LQFAULT. -/
def State.stopQueue (s : State) (vf q code : Nat) (detail : List Byte) : State :=
  (s.modLq vf q (fun x => { x with stopped := true })).event code vf 0xFF (BitVec.ofNat 8 q :: detail)

/-- n records are copied in ring order, the head word after each; a failed access stops the queue. -/
def State.copyRecords (s : State) (vf q : Nat) : Nat → State
  | 0 => s
  | n + 1 =>
    let x := s.lq vf q
    let next := (x.count + 1) % 2 ^ 64
    match s.readVa none vf 0 (x.ring.toNat + 64 * (x.count % 2 ^ x.lsize)) 64 with
    | .error (e, _) => s.stopQueue vf q 9 [e.zeroExtend 8]
    | .ok raw =>
      match s.writeVa none vf 0 x.head.toNat (leBytes next 8) with
      | .error (e, _) => s.stopQueue vf q 9 [e.zeroExtend 8]
      | .ok (_, s) => (s.modLq vf q (fun x => { x with count := next, waiting := x.waiting ++ [(raw, next)] })).copyRecords vf q n

/-- One queue's tail word is read and its new records are copied. -/
def State.pollQueue (s : State) (vf q : Nat) : State :=
  let x := s.lq vf q
  if x.stopped || x.held || x.replay then s
  else
    match s.readVa none vf 0 x.tail.toNat 8 with
    | .error (e, _) => s.stopQueue vf q 9 [e.zeroExtend 8]
    | .ok l =>
      let ahead := (ofBytes l + 2 ^ 64 - x.count) % 2 ^ 64
      if 2 ^ x.lsize < ahead then s.stopQueue vf q 2 [] else s.copyRecords vf q ahead

/-- The VFs that exist. -/
def State.liveVfs (s : State) : List Nat := (s.vfs.filter (fun e => e.2.live)).map (fun e => e.1)

/-- LAUNCH_QUEUE_POLL (R36): once per µs, resident or not. -/
def execLaunchQueuePoll (s : State) : Host.Outcome State Fault Refusal :=
  if s.wall < s.nextPoll then .next s
  else
    .next (s.liveVfs.foldl (fun s vf => (upto (s.vf vf).lqs.length).foldl (fun s q => s.pollQueue vf q) s)
      { s with nextPoll := s.wall / 1000 * 1000 + 1000 })

/-- LAUNCH_START (R35, R37): the next record of a queue whose previous launch has completed; a bad header is refused. -/
def execLaunchStart (vf q : Nat) (s : State) : Host.Outcome State Fault Refusal :=
  let x := s.lq vf q
  match x.busy, x.waiting with
  | false, (raw, count) :: rest =>
    let l := Launch.ofHeader vf (some q) count raw
    let s := s.modLq vf q (fun x => { x with waiting := rest })
    .next (if s.headerOk l raw then (s.modLq vf q (fun x => { x with busy := true })).startLaunch l else s.refuseLaunch l)
  | _, _ => .next s

/-! ### Device-side launches (R139, R140, R431) -/

/-- BLaunch (R139): one request of the strand in flight. -/
def execBLaunch (g : Guard) (a : BitVec 6) (s : State) : Host.Outcome State Fault Refusal :=
  issueWord false g s (fun s =>
    needs (!s.here.ops.any (fun o => o.sc == s.cur.sc && (match o.body with | .launch .. => true | _ => false)))
      (withScalars [a] s (fun xs s => noPoison xs (
        let va := (opnd xs 0).val
        if va.toNat % 64 != 0 then .fault Code.align va
        else
          .done 1 (s.startOp 64 (.launch va (s.coverOf s.cur.cell s.cur.sc s.me.seq 3) false) (fun o => { o with ops := xs.map (·.val) })).2))))

/-- Device-side launches of a VF in progress. -/
def State.deviceLaunches (s : State) (vf : Nat) : Nat := (s.launches.filter (fun e => e.2.vf == vf && e.2.queue.isNone)).length

/-- The launch unit takes the header of a b.launch of a cell: it is refused, starts, or is listed. -/
def State.takeLaunch (s : State) (c : Nat) (va : Dword) : Except (Code × Dword) State := do
  let vf := s.vfOf c
  let raw ← s.readVa none vf (dieOf c) va.toNat 64
  let l := Launch.ofHeader vf none 0 raw
  let v := s.vf vf
  if !s.headerOk l raw then return s.refuseLaunch l
  else if v.overflow.isEmpty && decide (s.deviceLaunches vf < 64) then return s.startLaunch l
  else
    let list (s : State) : State := s.modVf vf (fun v => { v with overflow := v.overflow ++ [(raw, c)] })
    if v.overflow.length < listEntries * v.overFrames.length then return list s
    else
      match s.allocFrame vf (dieOf c) with
      | none => .error (Code.quota, va)
      | some (f, s) => return list (s.modVf vf (fun v => { v with overFrames := v.overFrames ++ [f] }))

/-- The overflow list gives back the frames that its entries no longer need. -/
def State.shrinkOverflow (s : State) (vf : Nat) : State :=
  let v := s.vf vf
  let need := ceilDiv v.overflow.length listEntries
  (v.overFrames.drop need).foldl (fun s f => s.dropFrame vf f) (s.modVf vf (fun v => { v with overFrames := v.overFrames.take need }))

/-- LAUNCH_ACKNOWLEDGEMENT (R139): the launch unit takes the request once the covered writes are performed; the acknowledgement, or its
fault, lands at issue + 64 or after a freeze. -/
def execLaunchAcknowledgement (c id : Nat) (s : State) : Host.Outcome State Fault Refusal :=
  match s.findOp c id with
  | none => .next s
  | some o =>
    match o.body with
    | .launch va cover false =>
      if s.performed cover then
        let took (s : State) (e : Option (Code × Dword)) : State := s.modOp c id (fun o => { o with body := .launch va [] true, err := e })
        match s.takeLaunch c va with
        | .ok s => .next (took s none)
        | .error e => .next (took s (some e))
      else if o.due ≤ (s.cell c).time then .next (s.freezeOn c id)
      else .next s
    | .launch _ _ true =>
      if (s.cell c).time < o.due then .next s
      else if s.env.slow.contains id && !(s.cell c).frozenOn.contains id then .next (s.freezeOn c id)
      else
        (match o.err with
         | some (e, a) => .next (s.lateFault c o e a)
         | none => .next (s.endOp c id))
    | _ => .next s

/-- OVERFLOW_LAUNCH_START (R140): the oldest listed launch starts when fewer than 64 are in progress. -/
def execOverflowLaunchStart (vf : Nat) (s : State) : Host.Outcome State Fault Refusal :=
  match (s.vf vf).overflow with
  | [] => .next s
  | (raw, _) :: rest =>
    if s.deviceLaunches vf < 64 then
      .next (((s.modVf vf (fun v => { v with overflow := rest })).shrinkOverflow vf).startLaunch (Launch.ofHeader vf none 0 raw))
    else .next s

/-! ### Items (R32, R39, R40, R52) -/

/-- An item of a linear index has been cancelled. -/
def Launch.dropped (l : Launch) (idx : Nat) : Bool := l.drops.any (fun d => l.sameGroup d.level d.idx idx)

/-- The cancelled items at the head of a share's untaken items are passed over; they count as completed (R141). -/
def Share.pass (l : Launch) (p : Seat) : Nat → Share → Share
  | 0, h => h
  | n + 1, h =>
    if decide (h.next < h.total) && l.dropped (l.itemAt p h.next) then
      Share.pass l p n { h with next := h.next + 1, finished := h.finished + 1 }
    else h

/-- The cancelled items of a launch at the head of its share on a cell are passed over. -/
def State.passDropped (s : State) (id c : Nat) : State :=
  match s.launchAt id with
  | none => s
  | some l =>
    if l.drops.isEmpty then s
    else
      match tfind c l.shares, seatOf (s.vf l.vf).cfg.shape c with
      | some h, some p =>
        let g := Share.pass l p (h.total - h.next) h
        if g.next = h.next then s else (s.modShare id c (fun _ => g)).modLaunch id (fun l => { l with cancelled := true })
      | _, _ => s

/-- The levels that a share's untaken items have gained by a cell time: one for each full 4,096 cc of waiting (R32). -/
def Share.waited (h : Share) (t : Nat) : Nat := max h.age ((t - h.startTime) / 4096)

/-- The launches with an untaken item on a cell, best first: effective priority, then order of start (R32). -/
def State.pendingItems (s : State) (c : Nat) : List (Nat × Launch × Share) :=
  let l : List (Nat × Launch × Share) := s.launches.filterMap (fun (e : Nat × Launch) =>
    if some e.2.vf != (s.cell c).vf then none
    else
      match tfind c e.2.shares with
      | some h => if h.started && decide (h.next < h.total) then some (e.1, e.2, h) else none
      | none => none)
  let eff (x : Nat × Launch × Share) : Nat := min 7 (ctlPrio x.2.1.ctl + x.2.2.waited (s.cell c).time)
  sortBy (fun (a b : Nat × Launch × Share) => decide (eff b < eff a) || (eff a == eff b && decide (a.2.2.order < b.2.2.order))) l

/-- A context with an item, at the start of its program (R40); a switch request that is pending in its cell is pending for it (R409). -/
def itemStrand (id idx : Nat) (l : Launch) (t : Nat) (req : Bool) : Strand :=
  let wid : Dword := BitVec.ofNat 64 (l.widAt idx)
  let st : Strand := { st := .running, swReq := req, launch := some id, wid := wid, idx := idx, pc := l.entry, ftb := l.ftb, fetchFrom := t, issueFrom := t }
  (st.writeS 1 { val := l.args }).writeS 2 { val := wid }

/-- ITEM_TAKE (R32, R40): the lowest idle context of a cell takes the best untaken item. -/
def execItemTake (c : Nat) (s : State) : Host.Outcome State Fault Refusal :=
  if !(s.cell c).runs then .next s
  else
    match (upto 4).find? (fun sc => (s.strand c sc).st == .idle) with
    | none => .next s
    | some sc =>
      let s := (s.launches.map (fun e => e.1)).foldl (fun s id => s.passDropped id c) s
      match s.pendingItems c with
      | [] => .next s
      | (id, l, h) :: _ =>
        match seatOf (s.vf l.vf).cfg.shape c with
        | none => .next s
        | some p =>
          .next ((s.modStrand c sc (fun _ => itemStrand id (l.itemAt p h.next) l (s.cell c).time ((s.cell c).dl != 0))).modShare id c
            (fun h => { h with next := h.next + 1 }))

/-- ITEM_AGING (R32): a level for each full 4,096 cc of waiting, up to 7. -/
def execItemAging (launch c : Nat) (s : State) : Host.Outcome State Fault Refusal :=
  .next (s.modShare launch c (fun h =>
    if h.started && decide (h.next < h.total) && decide (h.age < 7) && decide (h.startTime + 4096 * (h.age + 1) ≤ (s.cell c).time) then
      { h with age := h.age + 1 }
    else h))

/-- FLUME_STREAM_START (R38): the stream of the launch that started first on the cell, with f1 and f2 set. -/
def execFlumeStreamStart (c : Nat) (s : State) : Host.Outcome State Fault Refusal :=
  if !(s.cell c).runs || (s.cell c).flume.launch.isSome then .next s
  else
    let l : List (Nat × Launch × Share) := s.launches.filterMap (fun (e : Nat × Launch) =>
      match tfind c e.2.shares with
      | some h => if some e.2.vf == (s.cell c).vf && h.started && h.stream == .pending then some (e.1, e.2, h) else none
      | none => none)
    match sortBy (fun (a b : Nat × Launch × Share) => decide (a.2.2.order < b.2.2.order)) l with
    | [] => .next s
    | (id, l, h) :: _ =>
      let regs : Table Dword := tset 0 (tset 0 [] 1 l.args) 2 (BitVec.ofNat 64 h.total)
      .next ((s.modCell c (fun x => { x with flume := { launch := some id, pc := l.fentry, regs := regs } })).modShare id c
        (fun h => { h with stream := .running }))

/-- ITEM_COMPLETION (R52, R128): a halted or cancelled strand with nothing in flight becomes idle, and its item counts. -/
def execItemCompletion (c sc : Nat) (s : State) : Host.Outcome State Fault Refusal :=
  let st := s.strand c sc
  if st.halted && quiet (s.cell c) sc then
    let s := s.modStrand c sc (fun _ => {})
    match st.launch with
    | some id => .next (s.modShare id c (fun h => { h with finished := h.finished + 1 }))
    | none => .next s
  else .next s

/-! ### The end of a launch (R53, R54, R135, R196, R417) -/

/-- The handles given out by a launch's items are refused, to be freed when their accesses end; a saved context's are freed. -/
def State.reclaim (s : State) (id vf : Nat) : State :=
  let s : State := { s with
    cells := s.cells.map (fun (e : Nat × Cell) => if e.2.vf != some vf then e else
      (e.1, { e.2 with table := e.2.table.map (fun t => if t.2.used && t.2.launch == some id then (t.1, { t.2 with refused := true, freeAt := s.cyc + 1 }) else t) })),
    bhs := s.bhs.map (fun (e : Nat × Bh) => (e.1, { e.2 with landings := e.2.landings.map (fun t =>
      if t.2.used && t.2.launch == some id then (t.1, { t.2 with refused := true, freeAt := s.cyc + 1 }) else t) })) }
  s.modVf vf (fun v => { v with saved := v.saved.map (fun m => { m with
    cells := m.cells.map (fun (e : Nat × Cell) => (e.1, { e.2 with table := e.2.table.map (fun t =>
      if t.2.used && t.2.launch == some id then (t.1, { gen := t.2.gen + 1 }) else t) })),
    lands := m.lands.map (fun e => (e.1, e.2.map (fun t =>
      if t.2.used && t.2.launch == some id then
        (t.1, { t.2 with used := false, gen := t.2.gen + 1, desc := 0, cons := 0, refused := false, launch := none }) else t))) }) })

/-- A handle of a launch has not yet been freed. -/
def State.holdsHandles (s : State) (id vf : Nat) : Bool :=
  s.cells.any (fun e => e.2.vf == some vf && e.2.table.any (fun t => t.2.used && t.2.launch == some id)) ||
    s.bhs.any (fun e => e.2.landings.any (fun t => t.2.used && t.2.launch == some id))

/-- Every share of a launch has reported. -/
def Launch.reported (l : Launch) : Bool := l.shares.all (fun e => e.2.reported)

/-- The cell's state for a VF, on the cell or in its saved context. -/
def State.cellFor (s : State) (vf c : Nat) : Cell :=
  if (s.cell c).vf == some vf then s.cell c else tget {} ((s.vf vf).saved.getD {}).cells c

/-- That state changes. -/
def State.modCellFor (s : State) (vf c : Nat) (f : Cell → Cell) : State :=
  if (s.cell c).vf == some vf then s.modCell c f
  else s.modVf vf (fun v => { v with saved := v.saved.map (fun w => { w with cells := w.cells.map (fun e => if e.1 = c then (e.1, f e.2) else e) }) })

/-- The message landing that a VF has on a cell, resident or saved, is emptied when no context there runs or is dormant, and the messages are
counted (R135). -/
def State.dropMessages (s : State) (vf c : Nat) : State :=
  let x := s.cellFor vf c
  if (upto 4).all (fun sc => (x.strand sc).st == .idle) then
    (s.modCellFor vf c (fun x => { x with msgs := [] })).modVf vf
      (fun v => { v with counters := { v.counters with messages := v.counters.messages + x.msgs.length } })
  else s

/-- SHARE_COMPLETE (R53): a cell's share reports when its items and its stream have completed; with the last share of the device the
launch's handles are reclaimed. -/
def execShareComplete (launch c : Nat) (s : State) : Host.Outcome State Fault Refusal :=
  let s := s.passDropped launch c
  match s.launchAt launch with
  | none => .next s
  | some l =>
    match tfind c l.shares with
    | none => .next s
    | some h =>
      if h.started && !h.reported && h.next == h.total && h.finished == h.total && (h.stream == .none || h.stream == .done) then
        let s := (s.dropMessages l.vf c).modShare launch c (fun h => { h with reported := true })
        let s := s.modLaunch launch (fun l => { l with cover := (l.cover ++ s.mem.flight.map (fun w => w.id)).eraseDups })
        match s.launchAt launch with
        | some l => .next (if l.reported then s.reclaim launch l.vf else s)
        | none => .next s
      else .next s

/-- The checkpoint record of a queue (R415, R417). -/
def State.checkpoint (s : State) (l : Launch) : State :=
  match l.queue with
  | some q =>
    if ctlCkpt l.ctl then
      (s.enterWrite 0 (placed ((s.vf l.vf).saveBase + 0xFFF000 + 32 * q)
        (leBytes l.count 8 ++ leBytes (s.wall % 2 ^ 48) 8 ++ [1] ++ zeros 15))).2
    else s
  | none => s

/-- The completion signal of a launch; one whose number is not mapped any more is dropped and counted (R54). -/
def State.completeSignal (s : State) (l : Launch) : State :=
  if !l.hasSem then s
  else (s.completionSignal l).getD (s.modVf l.vf (fun v => { v with counters := { v.counters with signals := v.counters.signals + 1 } }))

/-- LAUNCH_COMPLETION (R54): once every share has reported, every handle is freed and the writes are performed at sys: the completion
word, the signal, the checkpoint record. -/
def execLaunchCompletion (launch : Nat) (s : State) : Host.Outcome State Fault Refusal :=
  match s.launchAt launch with
  | none => .next s
  | some l =>
    if l.reported && !s.holdsHandles launch l.vf && s.performed l.cover then
      let s := (s.reclaim launch l.vf).completionWord l (if l.cancelled then 2 else 0)
      let s := (s.completeSignal l).checkpoint l
      let s : State := { s with launches := tdel launch s.launches }
      .next (match l.queue with | some q => s.modLq l.vf q (fun x => { x with busy := false }) | none => s)
    else .next s

/-! ### The cancellation of items (R141, R379) -/

/-- BCancelL (R141). -/
def execBCancelL (g : Guard) (a b : BitVec 6) (s : State) : Host.Outcome State Fault Refusal :=
  issueWord false g s (fun s => withScalars [a, b] s (fun xs s => noPoison xs (
    let x := (opnd xs 0).val
    let v := (opnd xs 1).val.toNat
    let c := s.cur.cell
    if 6 < x.toNat then faultW s Code.illegal
    else if v ≠ 0xFFFF ∧ (255 < v ∨ (s.resolve (s.vfOf c) (BitVec.ofNat 8 v)).isNone) then faultW s Code.semmap
    else
      .done 1 { s with itemCancels := s.itemCancels ++ [{ vf := s.vfOf c, sem := if v = 0xFFFF then none else some (BitVec.ofNat 8 v),
                                                          cell := c, sc := s.cur.sc, launch := s.me.launch, idx := s.me.idx, lvl := x.toNat }] })))

/-- A stopped strand: nothing of it issues or is fetched, and what it holds is discarded. -/
def Strand.stopItem (st : Strand) : Strand :=
  { st.endLoops with st := .running, halted := true, queues := [], replay := [], q := [], y := [], pfx := none, fblk := true, trap := none,
                     lates := [], reports := [], handler := false, sleepEnd := none, armed := 0, swHalt := false }

/-- The rows of a drain or close into a result queue are discarded, so that it ends. -/
def Op.discardRows (o : Op) : Op :=
  match o.body with
  | .drainQ y _ mem => { o with body := .drainQ y [] mem }
  | .che (some y) _ out => { o with body := .che (some y) [] out }
  | _ => o

/-- The item of a context is stopped: its waits are withdrawn. -/
def State.stopItem (s : State) (c sc : Nat) : State :=
  ((s.withdraw c sc).modStrand c sc Strand.stopItem).modCell c (fun x =>
    { x with ops := x.ops.map (fun o => if o.sc == sc then o.discardRows else o) })

/-- A context holds an item of a group that a cancellation names. -/
def Strand.cancels (st : Strand) (id : Nat) (l : Launch) (lvl idx : Nat) (exempt : Bool) : Bool :=
  st.st != .idle && !st.halted && st.launch == some id && l.sameGroup lvl idx st.idx && !(exempt && st.idx == idx)

/-- The group of an item at a level is cancelled, in whole or without that item: untaken items are dropped, items in contexts stopped;
the contexts stopped. -/
def State.cancelItems (s : State) (id lvl idx : Nat) (exempt : Bool) : List (Nat × Nat) × State :=
  match s.launchAt id with
  | none => ([], s)
  | some l =>
    let hits : List (Nat × Nat) := s.cells.flatMap (fun (e : Nat × Cell) => if e.2.vf != some l.vf then [] else
      ((upto 4).filter (fun sc => (e.2.strand sc).cancels id l lvl idx exempt)).map (fun sc => (e.1, sc)))
    let saved : List (Nat × Nat) := match (s.vf l.vf).saved with
      | none => []
      | some m => m.cells.flatMap (fun (e : Nat × Cell) => ((upto 4).filter (fun sc => (e.2.strand sc).cancels id l lvl idx exempt)).map
          (fun sc => (e.1, sc)))
    let s := s.modLaunch id (fun l => { l with
      drops := l.drops ++ [{ level := lvl, idx := idx }], cancelled := l.cancelled || !hits.isEmpty || !saved.isEmpty })
    let s := hits.foldl (fun s h => s.stopItem h.1 h.2) s
    let s := saved.foldl (fun s h => (s.modVf l.vf (fun v => { v with saved := v.saved.map (fun m => { m with
      cells := tput h.1 ((tget {} m.cells h.1).modStrand h.2 (fun _ => {})) m.cells }) })).modShare id h.1
        (fun x => { x with finished := x.finished + 1 })) s
    (hits, s)

/-- The items that a cancellation has stopped are idle. -/
def State.cancelDone (s : State) (launch : Option Nat) (l : List (Nat × Nat)) : Bool :=
  l.all (fun h => let st := s.strand h.1 h.2; !(st.halted && st.launch == launch))

/-- ITEM_CANCELLATION (R141): cancellation i takes effect; when every stopped item is idle its semaphore is signalled. -/
def execItemCancellation (i : Nat) (s : State) : Host.Outcome State Fault Refusal :=
  match s.itemCancels[i]? with
  | none => .next s
  | some x =>
    match x.stopped with
    | none =>
      let (hits, s) := match x.launch with | some id => s.cancelItems id x.lvl x.idx true | none => ([], s)
      .next { s with itemCancels := modifyAt (fun x => { x with stopped := some hits }) s.itemCancels i }
    | some hits =>
      if s.cancelDone x.launch hits then
        let s : State := { s with itemCancels := removeAt s.itemCancels i }
        match x.sem with
        | some v => .next ((s.taskSignal x.vf x.cell (dieOf x.cell) v.toNat 1).getD s)
        | none => .next s
      else .next s

end Sys2Proof.Machine
end

