-- ==== Sys2Proof/Machine/FlumeOps.lean ====
section
/-! DEFINITION. The data operations of a flume stream (R340, R341, R349 to R354): endpoints, descriptors, pieces and their accounting, and
the steps that write a piece and end an operation. -/

namespace Sys2Proof.Machine

open Sys2Proof

/-! ### Endpoints (R349) -/

/-- A source or destination: a VA (space 0) or a handle (space 1), with the handles that the operation was accepted with. -/
structure End where
  space : Nat
  base : Dword
  held : List HUse := []

/-- The handle of an endpoint that is one: a landing's of a cell's bulkhead, or an entry's of the cell. -/
def End.use (e : End) (c : Nat) : HUse := if hdLvl e.base = 1 then .landing (bhOf c) (hdIdx e.base) else .scratch c (hdIdx e.base)

/-- The landing of an endpoint: one that waits to be freed still serves the operations accepted before (R200). -/
def State.endLanding (s : State) (c : Nat) (e : End) : Option Landing :=
  let l := s.landing (bhOf c) (hdIdx e.base)
  if s.liveLanding c e.base && (!l.refused || e.held.contains (e.use c)) then some l else none

/-- The entry of an endpoint. -/
def State.endEntry (s : State) (c : Nat) (e : End) : Option TEntry :=
  let t := (s.cell c).entry (hdIdx e.base)
  if (hdLvl e.base == 0 || hdLvl e.base == 2) && (s.cell c).liveEntry c e.base && (!t.refused || e.held.contains (e.use c)) then some t
  else none

/-- The handle that an operation uses from now on for an endpoint, if it passes its check (R189, R200). -/
def State.endUse (s : State) (c : Nat) (e : End) : List HUse :=
  if e.space = 0 then []
  else if (if hdLvl e.base = 1 then (s.endLanding c e).isSome else (s.endEntry c e).isSome) then [e.use c] else []

/-- A place within an addressable size. -/
def fits (off : Int) (n size : Nat) : Bool := decide (0 ≤ off) && decide (off + n ≤ size)

/-- A VA and an offset. -/
def vaAt (base : Dword) (off : Int) : Nat := (((base.toNat : Int) + off) % 2 ^ 64).toNat

/-- The flume engine of a cell reads n bytes of an endpoint. -/
def State.endRead (s : State) (c : Nat) (e : End) (off : Int) (n : Nat) : Except Code (List Byte) :=
  if e.space = 0 then codeOf (s.readVa (some c) (s.vfOf c) (dieOf c) (vaAt e.base off) n)
  else if hdLvl e.base = 1 then
    match s.endLanding c e with
    | none => .error Code.handle
    | some l =>
      if !fits off n (tdSize l.desc) then .error Code.bounds
      else
        let ps := partsOf l.desc 0 off.toNat n
        if ps.any (partPoisoned l.poison) then .error Code.poison else .ok (bytesAt (gather l.bytes ps []) 0 n)
  else
    match s.endEntry c e with
    | none => .error Code.handle
    | some t =>
      if !fits off n (tdSize t.desc) then .error Code.bounds
      else if tdLvl t.desc = 0 then
        if (s.cell c).entryPoisoned t off.toNat n then .error Code.poison else .ok ((s.cell c).entryBytes t off.toNat n)
      else if !s.windowOk t.peer .load then .error Code.window
      else
        match s.ownerEntry t.peer off.toNat n with
        | .error e => .error e
        | .ok w =>
          let x := s.cell (hdCell t.peer.target)
          if x.entryPoisoned w off.toNat n then .error Code.poison else .ok (x.entryBytes w off.toNat n)

/-- The flume engine of a cell writes bytes to an endpoint, through the fill port for a handle (R185); the global writes that this makes. -/
def State.endWrite (s : State) (c : Nat) (e : End) (off : Int) (l : List Byte) : Except Code (List Nat × State) :=
  let n := l.length
  if e.space = 0 then do
    let r ← codeOf (s.writeVa (some c) (s.vfOf c) (dieOf c) (vaAt e.base off) l)
    return ([r.1], r.2)
  else if hdLvl e.base = 1 then
    match s.endLanding c e with
    | none => .error Code.handle
    | some d =>
      if !fits off n (tdSize d.desc) then .error Code.bounds
      else
        .ok ([], s.modLanding (bhOf c) (hdIdx e.base) (fun x =>
          (partsOf d.desc 0 off.toNat n).foldl (fun y p => y.writeBytes p.addr ((l.drop p.pos).take p.len)) x))
  else
    match s.endEntry c e with
    | none => .error Code.handle
    | some t =>
      if !fits off n (tdSize t.desc) then .error Code.bounds
      else if tdLvl t.desc = 0 then .ok ([], s.modCell c (fun x => x.entryWrite t off.toNat l))
      else if !s.windowOk t.peer .store then .error Code.window
      else
        match s.ownerEntry t.peer off.toNat n with
        | .error e => .error e
        | .ok w => .ok ([], s.modCell (hdCell t.peer.target) (fun x => x.entryWrite w off.toNat l))

/-- The lines of an endpoint's access, by the handle whose storage they are in: a landing's, or an entry's of a cell. -/
def State.endLines (s : State) (c : Nat) (e : End) (off : Int) (n : Nat) : List (HUse × List Part) :=
  if e.space = 0 || decide (off < 0) then []
  else if hdLvl e.base = 1 then
    match s.endLanding c e with
    | some l => [(e.use c, partsOf l.desc 0 off.toNat n)]
    | none => []
  else
    match s.endEntry c e with
    | some t =>
      if tdLvl t.desc = 0 then [(e.use c, partsOf t.desc t.base off.toNat n)]
      else
        let w := hdCell t.peer.target
        (s.scratchHandle w t.peer.target).toList.map (fun x => (.scratch w (hdIdx t.peer.target), partsOf x.desc x.base off.toNat n))
    | none => []

/-- The fill ports of lines are free (R185). -/
def State.fillOk (s : State) (l : List (HUse × List Part)) : Bool :=
  l.all (fun e => match e.1 with
    | .scratch c _ => fillFree (s.cell c).fill s.cyc e.2
    | .landing b n => fillFree (s.landing b n).fill s.cyc e.2)

/-- The fill ports move lines. -/
def State.fillPass (s : State) (l : List (HUse × List Part)) : State :=
  l.foldl (fun s e => match e.1 with
    | .scratch c _ => s.modCell c (fun x => { x with fill := fillTake x.fill s.cyc e.2 })
    | .landing b n => s.modLanding b n (fun x => { x with fill := fillTake x.fill s.cyc e.2 })) s

/-- The line of the barrier object at a handle of a cell. -/
def State.objectLines (s : State) (c : Nat) (h : Dword) (off : Int) : List (HUse × List Part) := s.endLines c { space := 1, base := h } off 16

/-- update(da, db) on the barrier object at a SCRATCH or PEER handle of a cell, through its fill port (R302 to R304, R307). -/
def State.barrierAt (s : State) (c : Nat) (h : Dword) (off : Int) (da : Nat) (db : Int) : Except Code State :=
  match s.cellHandle c h with
  | none => .error Code.handle
  | some t =>
    if off % 16 != 0 then .error Code.align
    else if !fits off 16 (tdSize t.desc) then .error Code.bounds
    else if tdLvl t.desc = 0 then do
      let r ← s.updateBarrier c t off.toNat da db
      return r.2.fillPass (s.objectLines c h off)
    else if !s.windowOk t.peer .barrier then .error Code.window
    else do
      let w ← s.ownerEntry t.peer off.toNat 16
      let r ← s.updateBarrier (hdCell t.peer.target) w off.toNat da db
      return r.2.fillPass (s.objectLines c h off)

/-! ### Descriptors (R352 to R354) -/

/-- A 4-byte field as a signed number. -/
def signed32 (n : Nat) : Int := (BitVec.ofNat 32 n).toInt

namespace FState

/-- n bytes of the descriptor at byte o. -/
def w (f : FState) (o n : Nat) : Nat := recField f.desc o n

/-- The operation ends with a status code. -/
def finish (f : FState) (code : BitVec 8) : FState := { f with code := some code }

def fail (f : FState) (e : Code) : FState := f.finish (e.zeroExtend 8)

/-- A VA or handle at byte o, in a space. -/
def endpoint (f : FState) (o space : Nat) : End := { space := space, base := BitVec.ofNat 64 (f.w o 8), held := f.held }

/-- The account bit: of the flags of a copy, list, gather or scatter. -/
def accounts (f : FState) : Bool :=
  match f.kind with
  | .copy => f.w 24 1 / 32 % 2 == 1
  | .xlist => f.w 12 1 / 32 % 2 == 1
  | .gath | .scat => f.w 48 1 / 32 % 2 == 1
  | _ => false

/-- The barrier object that pieces are accounted to. -/
def barrier (f : FState) : Dword × Int :=
  match f.kind with
  | .xlist => (BitVec.ofNat 64 (f.w 16 4), (f.w 20 4 : Int))
  | _ => (BitVec.ofNat 64 (f.w 56 4), (f.w 60 4 : Int))

/-- cp.n1 and cp.n2, 1 when unused. -/
def n1 (f : FState) : Nat := if f.w 25 1 = 1 then 1 else f.w 32 4
def n2 (f : FState) : Nat := if f.w 25 1 < 3 then 1 else f.w 36 4

/-- The element size of a transpose. -/
def elem (f : FState) : Nat := 2 ^ (f.w 24 1 / 64)

/-- A copy transposes. -/
def transposes (f : FState) : Bool := f.w 24 1 / 16 % 2 == 1

/-- The static checks of an f.copy descriptor (R352). -/
def checkCopy (f : FState) : Option Code :=
  let flags := f.w 24 1
  let dims := f.w 25 1
  let e := f.elem
  if decide (1 < flags % 4) || decide (1 < flags / 4 % 4) || dims == 0 || decide (3 < dims) || f.w 26 2 != 0 ||
      f.w 28 4 == 0 || decide (65536 < f.w 28 4) || f.n1 == 0 || f.n2 == 0 ||
      (flags % 4 == 0 && f.w 16 4 != 0) || (flags / 4 % 4 == 0 && f.w 20 4 != 0) || decide (2 ^ 32 < f.w 28 4 * f.n1 * f.n2) ||
      (f.transposes && dims != 2) then some Code.illegal
  else if f.transposes && ([16, 20, 28, 40, 44, 48, 52].any (fun o => f.w o 4 % e != 0) ||
      (flags % 4 == 0 && f.w 0 8 % e != 0) || (flags / 4 % 4 == 0 && f.w 8 8 % e != 0)) then some Code.align
  else none

/-- The static checks of an f.xlist descriptor (R353). -/
def checkXlist (f : FState) : Option Code :=
  if f.w 8 4 == 0 || decide (2 ^ 20 < f.w 8 4) || f.w 12 1 &&& 0xDF != 0 || f.w 13 3 != 0 || f.w 24 40 != 0 then some Code.illegal
  else if f.w 0 8 % 32 != 0 then some Code.align
  else none

/-- The static checks of an f.gath or f.scat descriptor (R354). -/
def checkGs (f : FState) : Option Code :=
  let flags := f.w 48 1
  if f.w 32 4 == 0 || decide (2 ^ 20 < f.w 32 4) || f.w 36 4 == 0 || decide (2048 < f.w 36 4) || decide (1 < flags % 4) ||
      decide (1 < flags / 4 % 4) || flags &&& 0xD0 != 0 || f.w 49 7 != 0 then some Code.illegal
  else if f.w 16 8 % 4 != 0 then some Code.align
  else none

end FState

/-! ### Pieces (R350, R352 to R354) -/

/-- What the next piece of an operation comes to: an error and the state that it leaves, a number of bytes moved with the global writes made, or the end. -/
inductive Piece where
  | fail (code : Code) (s : State)
  | moved (n : Nat) (cover : List Nat) (s : State) (f : FState)
  | finished
  | waits

/-- Bytes move from one endpoint to another. -/
def State.moveBytes (s : State) (c : Nat) (src : End) (so : Int) (dst : End) (d : Int) (n : Nat) : Except Code (List Nat × State) := do
  let l ← s.endRead c src so n
  s.endWrite c dst d l

/-- The bytes of a piece, each as it can be read alone. -/
def State.pieceBytes (s : State) (c : Nat) (src : End) (so : Int) (n : Nat) : List (Except Code Byte) :=
  (upto n).map (fun (k : Nat) => (s.endRead c src (so + k) 1).map (fun l => l.headD 0))

/-- What a failed piece leaves: each of its bytes holds its old value or its new one (R350). Which is a free value (log entry 13); a byte that
cannot be read or written stays. -/
def State.failedPiece (s : State) (c : Nat) (data : List (Except Code Byte)) (dst : End) (d : Int) : State :=
  (data.zip (upto data.length)).foldl (fun x e =>
    match e.1 with
    | .error _ => x
    | .ok b =>
      if Config.newByte (s.freeCtr + e.2) then (match x.endWrite c dst (d + e.2) [b] with | .ok r => r.2 | .error _ => x) else x)
    { s with freeCtr := s.freeCtr + data.length }

/-- What a failed move leaves. -/
def State.failedMove (s : State) (c : Nat) (src : End) (so : Int) (dst : End) (d : Int) (n : Nat) : State :=
  s.failedPiece c (s.pieceBytes c src so n) dst d

/-- The piece of a move, with the operation after it, and what the piece leaves if it fails. It waits for the fill ports of its lines. -/
def pieceOf (s : State) (lines : List (HUse × List Part)) (n : Nat) (f : FState) (r : Except Code (List Nat × State)) (bad : State) : Piece :=
  if !s.fillOk lines then .waits
  else
    match r with
    | .error e => .fail e bad
    | .ok (cover, s) => .moved n cover (s.fillPass lines) f

/-- The piece that moves n bytes from one endpoint to another. -/
def movePiece (s : State) (c : Nat) (src : End) (so : Int) (dst : End) (d : Int) (n : Nat) (f : FState) : Piece :=
  pieceOf s (s.endLines c src so n ++ s.endLines c dst d n) n f (s.moveBytes c src so dst d n) (s.failedMove c src so dst d n)

/-- The next piece of an f.copy (R352). -/
def copyPiece (s : State) (c : Nat) (f : FState) : Piece :=
  let flags := f.w 24 1
  let src := f.endpoint 0 (flags % 4)
  let dst := f.endpoint 8 (flags / 4 % 4)
  let next : FState := { f with piece := f.piece + 1 }
  if f.transposes then
    let e := f.elem
    let bytes := f.n1 * e
    let cuts := ceilDiv bytes 2048
    let i := f.piece / cuts
    let b0 := 2048 * (f.piece % cuts)
    let n := min 2048 (bytes - b0)
    if f.w 28 4 / e ≤ i then .finished
    else
      let so (j : Nat) : Int := (f.w 16 4 : Int) + j * signed32 (f.w 40 4) + (i * e : Nat)
      let d : Int := (f.w 20 4 : Int) + i * signed32 (f.w 48 4) + b0
      pieceOf s ((span (b0 / e) (n / e)).flatMap (fun (j : Nat) => s.endLines c src (so j) e) ++ s.endLines c dst d n) n next (do
        let rows ← (span (b0 / e) (n / e)).mapM (fun (j : Nat) => s.endRead c src (so j) e)
        s.endWrite c dst d rows.flatten)
        (s.failedPiece c ((span (b0 / e) (n / e)).flatMap (fun (j : Nat) => s.pieceBytes c src (so j) e)) dst d)
  else
    let cuts := ceilDiv (f.w 28 4) 2048
    let row := f.piece / cuts
    let (j, k) := (row % f.n1, row / f.n1)
    let b0 := 2048 * (f.piece % cuts)
    let n := min 2048 (f.w 28 4 - b0)
    if f.n2 ≤ k then .finished
    else
      let so : Int := (f.w 16 4 : Int) + j * signed32 (f.w 40 4) + k * signed32 (f.w 44 4) + b0
      let d : Int := (f.w 20 4 : Int) + j * signed32 (f.w 48 4) + k * signed32 (f.w 52 4) + b0
      movePiece s c src so dst d n next

/-- The next piece of an f.xlist: a segment is read before its first piece (R353). -/
def xlistPiece (s : State) (c : Nat) (f : FState) : Piece :=
  if f.w 8 4 ≤ f.piece then .finished
  else
    let seg := if f.sub = 0 then codeOf (s.readVa (some c) (s.vfOf c) (dieOf c) ((f.w 0 8 + 32 * f.piece) % 2 ^ 64) 32) else .ok f.seg
    match seg with
    | .error e => .fail e s
    | .ok l =>
      let w (o n : Nat) : Nat := recField l o n
      let len := w 24 4
      let sp := w 28 1
      if len == 0 || sp / 16 != 0 || decide (1 < sp % 4) || decide (1 < sp / 4) || w 29 3 != 0 ||
          (sp % 4 == 0 && w 16 4 != 0) || (sp / 4 == 0 && w 20 4 != 0) then .fail Code.illegal s
      else
        let b0 := 2048 * f.sub
        let n := min 2048 (len - b0)
        let src : End := { space := sp % 4, base := BitVec.ofNat 64 (w 0 8), held := f.held }
        let dst : End := { space := sp / 4, base := BitVec.ofNat 64 (w 8 8), held := f.held }
        let next : FState := if len ≤ b0 + n then { f with piece := f.piece + 1, sub := 0, seg := [], held := [] }
          else { f with sub := f.sub + 1, seg := l, held := if f.sub = 0 then s.endUse c src ++ s.endUse c dst else f.held }
        let so : Int := ((w 16 4 + b0 : Nat) : Int)
        let d : Int := ((w 20 4 + b0 : Nat) : Int)
        movePiece s c src so dst d n next

/-- The next piece of an f.gath or f.scat: row i through its index (R354). -/
def gsPiece (s : State) (c : Nat) (f : FState) : Piece :=
  let i := f.piece
  if f.w 32 4 ≤ i then .finished
  else
    match codeOf (s.readVa (some c) (s.vfOf c) (dieOf c) ((f.w 16 8 + 4 * i) % 2 ^ 64) 4) with
    | .error e => .fail e s
    | .ok l =>
      let x := ofBytes l
      if f.w 44 4 ≤ x then .fail Code.bounds s
      else
        let rb := f.w 36 4
        let flags := f.w 48 1
        let tab := f.endpoint 0 (flags % 4)
        let vec := f.endpoint 8 (flags / 4 % 4)
        let t : Int := ((f.w 24 4 + x * f.w 40 4 : Nat) : Int)
        let v : Int := ((f.w 28 4 + i * rb : Nat) : Int)
        if f.kind = .gath then movePiece s c tab t vec v rb { f with piece := i + 1 }
        else movePiece s c vec v tab t rb { f with piece := i + 1 }

/-- The state of an operation's data, and the handles that it uses. -/
def State.setFlume (s : State) (c id : Nat) (f : FState) : State := s.modOp c id (fun o => { o with body := .flume f, uses := f.held })

def Op.flume? (o : Op) : Option FState :=
  match o.body with
  | .flume f => some f
  | _ => none

/-- A piece's outcome is entered: a failed one ends the operation; an accounted one waits for its writes. -/
def State.takePiece (s : State) (c id : Nat) (f : FState) (p : Piece) : State :=
  match p with
  | .fail e s => s.setFlume c id (f.fail e)
  | .finished => s.setFlume c id (f.finish 0)
  | .waits => s
  | .moved n cover s g =>
    if f.accounts then s.setFlume c id { g with due := some (n, cover) } else s.setFlume c id { g with count := g.count + n }

/-- A piece that has been written is accounted to its barrier object, once its writes are performed and the object's fill port is free (R185,
R307, R350). -/
def State.accountPiece (s : State) (c id : Nat) (f : FState) (n : Nat) (cover : List Nat) : State :=
  if s.performed cover && s.fillOk (s.objectLines c f.barrier.1 f.barrier.2) then
    match s.barrierAt c f.barrier.1 f.barrier.2 0 (-(n : Int)) with
    | .error e => s.setFlume c id ({ f with due := none }.fail e)
    | .ok s => s.setFlume c id { f with due := none, count := f.count + n }
  else s

/-! ### The end (R340, R341, R207) -/

/-- The status word (R341). -/
def FState.status (f : FState) : Dword := BitVec.ofNat 64 (f.count % 2 ^ 48 * 2 ^ 16 + f.aux % 256 * 256) ||| ((f.code.getD 0).zeroExtend 64)

/-- FLUME_OPERATION_END (R340): the status word is written, and an f.ring counts as a consumer of its landing (R362). -/
def execFlumeOperationEnd (c id : Nat) (s : State) : Host.Outcome State Fault Refusal :=
  match s.findOp c id with
  | none => .next s
  | some o =>
    match o.flume? with
    | none => .next s
    | some f =>
      if f.code.isNone then .next s
      else
        let s := s.endOp c id
        let s := match f.land with | some n => s.consume (bhOf c) n | none => s
        let s := s.modCell c (fun x => { x with flume := { x.flume with regs := tset 0 x.flume.regs f.d.toNat f.status } })
        .next (s.closeStream c)

end Sys2Proof.Machine
end

