-- ==== Sys2Proof/Machine/KvTier.lean ====
section
/-! DEFINITION. The KV operations of the flume (R336, R355) and the second tier's encryption (R337, R338): copy, flatten, demote and promote,
and the step by which the KV unit serves one request of them. -/

namespace Sys2Proof.Machine

open Sys2Proof

namespace FState

def kcOp (f : FState) : Nat := f.w 0 1
def kcSlots (f : FState) : Nat := f.w 2 1 + 1
def kcDst (f : FState) : Nat := f.w 12 4
def kcSeq (f : FState) : Nat := f.w 16 4

/-- The requests of an f.kvcp. -/
def kcCount (f : FState) : Nat := if f.kcOp = 1 then 1 else f.kcSlots * f.w 8 4

/-- The slot and page of request k: ascending by slot, then page. -/
def kcSlot (f : FState) (k : Nat) : Nat := f.w 1 1 + k / f.w 8 4
def kcPage (f : FState) (k : Nat) : Nat := f.w 4 4 + k % f.w 8 4

/-- The static checks of an f.kvcp descriptor (R355). -/
def checkKv (f : FState) : Option Code :=
  let npg := f.w 8 4
  if decide (3 < f.kcOp) || decide (63 < f.w 1 1 + f.w 2 1) || f.w 3 1 != 0 || (if f.kcOp = 1 then npg != 0 else npg == 0 || decide (2 ^ 26 < npg)) ||
      (if f.kcOp = 0 then decide (2 ^ 24 ≤ f.kcDst) else f.kcDst != 0) || f.w 20 44 != 0 then some Code.illegal
  else none

end FState

/-! ### The second tier (R337, R338) -/

/-- VF number and serial, the first 8 bytes of every counter block. -/
def tierIv (vf serial : Nat) : List Byte := beBytes (vf % 128 * 2 ^ 57 + serial % 2 ^ 57) 8

/-- The label of a page. -/
def tierLabel (vf seq slot page : Nat) : List Byte := leBytes vf 4 ++ leBytes seq 4 ++ leBytes slot 4 ++ leBytes page 4

/-- The round keys of a VF's key slot. -/
def Vf.tierKeys (v : Vf) : List (List Byte) := aesKeys (beBytes v.key.toNat 32)

/-- A page's bytes under counter mode, either way. -/
def tierCipher (keys : List (List Byte)) (vf serial : Nat) (l : List Byte) : List Byte := aesCtr keys (tierIv vf serial ++ zeros 4) l

/-- A page's tag. -/
def tierTag (keys : List (List Byte)) (vf serial : Nat) (label cipher : List Byte) : BitVec 128 :=
  gmac keys (tierIv vf serial ++ [0x80, 0, 0, 0]) (label ++ cipher)

/-- The leaf of a demoted page (R330). -/
def demotedLeaf (n : Nat) : Dword := (1 <<< 57) ||| BitVec.ofNat 64 (n % 2 ^ 28 * 2 ^ 16)

/-! ### One request (R336, R355) -/

/-- A request for a slot and page of a sequence beyond its slots, or for a page number of more than 26 bits, has no place. -/
def SeqE.lacks (e : SeqE) (slot page : Nat) : Bool := decide (e.nslot < slot) || decide (2 ^ 26 ≤ page)

/-- One page of a copy: the destination's new frame with the rows that the source resolves to; its old page is given up. -/
def State.kvCopyPage (s : State) (vf src dst slot page : Nat) : Except Code State := do
  let e ← s.seqLive vf src
  let d ← s.seqLive vf dst
  if e.kfmt ≠ d.kfmt ∨ e.kpl ≠ d.kpl ∨ e.ksc ≠ d.ksc ∨ e.vfmt ≠ d.vfmt ∨ e.d ≠ d.d ∨ e.nslot ≠ d.nslot then .error Code.handle
  else if e.lacks slot page then .error Code.bounds
  else if 64 * page < d.frz then .error Code.prot
  else
    let p0 := 64 * page
    let from' ← s.kvResolve vf slot p0 5 src (2 ^ 32)
    match s.allocFrame vf (s.kvDie vf) with
    | none => .error Code.quota
    | some (f, s) =>
      let s ← (match from' with
        | some (.frame pa, lim) => s.copyRows vf e pa (f * frameBytes) (min 64 (min lim e.len - p0))
        | some (.demoted _, _) => .error Code.page
        | none => .ok s)
      let old ← s.kvLeafAt vf d.root (kvKey slot page)
      let w ← (match old with | some a => s.kvWord vf a | none => .ok 0)
      let leaf ← kvLeaf (s.vf vf).cfg w
      let s := match leaf with | some x => s.dropLeaf vf x | none => s
      let (d, s) ← s.kvMap vf d (kvKey slot page) (frameLeaf f)
      s.seqWrite vf dst { d with own := if w.getLsbD 63 then d.own else d.own + 1 }

/-- The length of the destination after a copy. -/
def State.kvCopyEnd (s : State) (vf : Nat) (f : FState) : Except Code State := do
  let e ← s.seqLive vf f.kcSeq
  let d ← s.seqLive vf f.kcDst
  s.seqWrite vf f.kcDst { d with len := max d.len (min e.len (64 * (f.w 4 4 + f.w 8 4))) }

/-- The keys that a sequence's ancestors map, from cur up: a hop for each unit of fuel. -/
def State.ancestorKeys (s : State) (vf : Nat) : Nat → SeqE → Except Code (List Nat)
  | 0, _ => .ok []
  | n + 1, e =>
    if e.depth = 0 then .ok []
    else do
      let p ← s.seqRaw vf e.par
      let r ← s.ancestorKeys vf n p
      let o ← s.overlay vf p.root
      return o.2.map (fun x => x.1) ++ r

/-- A flatten of a sequence, as one step; the number of pages copied. -/
def State.kvFlatten (s : State) (vf id : Nat) : Except Code (Nat × State) := do
  let e ← s.seqLive vf id
  if e.nchild ≠ 0 then .error Code.prot
  else
    let s := s.settle
    let o ← s.overlay vf e.root
    let own := o.2.map (fun x => x.1)
    let keys ← s.ancestorKeys vf 5 e
    let keys := (sortBy (fun (a b : Nat) => decide (a < b)) keys.eraseDups).filter
      (fun k => !own.contains k && decide (64 * (k % 2 ^ 26) < e.fork))
    let r ← keys.foldlM (fun (r : Nat × SeqE × State) k => do
      match ← r.2.2.kvResolve vf (k / 2 ^ 26) (64 * (k % 2 ^ 26)) 5 id (2 ^ 32) with
      | some _ => do
        let x ← r.2.2.kvNewPage vf r.2.1 (k / 2 ^ 26) (k % 2 ^ 26)
        return (r.1 + 1, x.1, x.2.2)
      | none => return r) (0, e, s)
    let s ← r.2.2.seqWrite vf id { r.2.1 with depth := 0, par := id, fork := 0 }
    if e.depth = 0 then return (r.1, s)
    else
      let p ← s.seqRaw vf e.par
      let p := { p with nchild := p.nchild - 1 }
      let s ← s.seqWrite vf e.par p
      let s ← if p.dead && p.nchild == 0 then s.kvRelease vf 6 e.par else .ok s
      return (r.1, s)

/-- A demotion of one page: one that is not owned, or is demoted, is passed over. DESIGN CHOICE (log entry 74): the VF's own quota alone refuses a
demotion; where the quotas of all VFs together exceed the package's second tier (R18) the spec names no outcome. -/
def State.kvDemote (s : State) (vf id slot page : Nat) : Except Code State := do
  let e ← s.seqLive vf id
  if e.lacks slot page then .error Code.bounds
  else
    match ← s.kvFind vf e.root (kvKey slot page) with
    | some (.frame pa) =>
      let v := s.vf vf
      if v.cfg.tier2 ≤ v.tier.length then .error Code.quota
      else
        let s := s.settle
        let l ← s.paBytes (s.kvDie vf) pa frameBytes
        let n := (lowestFree v.cfg.tier2 (fun i => (tfind i v.tier).isSome)).getD 0
        let cipher := tierCipher v.tierKeys vf v.serial l
        let label := tierLabel vf id slot page
        let t : TierPage := { cipher := cipher, tag := tierTag v.tierKeys vf v.serial label cipher, serial := v.serial }
        let s := s.modVf vf (fun v => { v with serial := v.serial + 1, tier := tput n t v.tier })
        let (e, s) ← s.kvMap vf e (kvKey slot page) (demotedLeaf n)
        (s.dropFrame vf (pa / frameBytes)).seqWrite vf id { e with own := e.own - 1 }
    | _ => return s

/-- Every word of a page is poisoned. -/
def State.poisonPage (s : State) (pa : Nat) : State :=
  { s with mem := { s.mem with poison := (span (pa / 8) (frameBytes / 8)).foldl (fun t w => tput w true t) s.mem.poison } }

/-- A promotion of one page: true when its tag failed, and it is then mapped and poisoned (R338). -/
def State.kvPromote (s : State) (vf id slot page : Nat) : Except Code (Bool × State) := do
  let e ← s.seqLive vf id
  if e.lacks slot page then .error Code.bounds
  else
    match ← s.kvFind vf e.root (kvKey slot page) with
    | some (.demoted n) =>
      (match s.allocFrame vf (s.kvDie vf) with
       | none => .error Code.quota
       | some (f, s) => do
         let v := s.vf vf
         let t := tget {} v.tier n
         let bad := tierTag v.tierKeys vf t.serial (tierLabel vf id slot page) t.cipher != t.tag
         let pa := f * frameBytes
         let s := if bad then s.poisonPage pa else s.kvPlace (placed pa (tierCipher v.tierKeys vf t.serial t.cipher))
         let s := s.modVf vf (fun v => { v with tier := tdel n v.tier })
         let (e, s) ← s.kvMap vf e (kvKey slot page) (frameLeaf f)
         let s ← s.seqWrite vf id { e with own := e.own + 1 }
         return (bad, s))
    | _ => return (false, s)

/-- The next request of an f.kvcp (R355). -/
def kvPiece (s : State) (c : Nat) (f : FState) : Piece :=
  let vf := s.vfOf c
  let k := f.piece
  let next : FState := { f with piece := k + 1 }
  let of (r : Except Code State) : Piece := pieceOf s [] 1 next (r.map (fun s => (([] : List Nat), s))) s
  if f.kcCount ≤ k then
    if f.kcOp = 0 then (match s.kvCopyEnd vf f with | .ok s => .moved 0 [] s (f.finish 0) | .error e => .fail e s) else .finished
  else
    match f.kcOp with
    | 0 =>
      -- no page moves when the range reaches below the destination's freeze point
      (match s.seqLive vf f.kcDst with
       | .error e => .fail e s
       | .ok d => if k = 0 ∧ 64 * f.w 4 4 < d.frz then .fail Code.prot s else of (s.kvCopyPage vf f.kcSeq f.kcDst (f.kcSlot k) (f.kcPage k)))
    | 1 => (match s.kvFlatten vf f.kcSeq with | .ok (n, s) => .moved n [] s next | .error e => .fail e s)
    | 2 => of (s.kvDemote vf f.kcSeq (f.kcSlot k) (f.kcPage k))
    | _ =>
      (match s.kvPromote vf f.kcSeq (f.kcSlot k) (f.kcPage k) with
       | .error e => .fail e s
       | .ok (false, s) => .moved 1 [] s next
       | .ok (true, s) => .moved 0 [] s (f.fail Code.kvinteg))

/-- KV_PAGE_OPERATION (R336): the KV unit serves the next request of an f.kvcp; that of a cell closed for a switch stops (R411). -/
def execKvPageOperation (c id : Nat) (s : State) : Host.Outcome State Fault Refusal :=
  match (s.findOp c id).bind Op.flume? with
  | some f => if f.kind = .kvcp ∧ f.code.isNone ∧ !(s.cell c).closed then .next (s.takePiece c id f (kvPiece s c f)) else .next s
  | none => .next s

end Sys2Proof.Machine
end

