-- ==== Sys2Proof/Machine/Svm.lean ====
section
/-! DEFINITION. The stack multipliers (R20, R27, R356, R357): the checks of f.svm, the product, and the step that serves a stack's requests. -/

namespace Sys2Proof.Machine

open Sys2Proof

namespace FState

def svK (f : FState) : Nat := f.w 32 4
def svM (f : FState) : Nat := f.w 36 4
def svFmt (f : FState) : Nat := f.w 40 1 % 16
def svPl (f : FState) : Nat := f.w 40 1 / 16 % 8 + 1
def svScaled (f : FState) : Bool := f.w 40 1 / 128 == 1
def svBlocks (f : FState) : Nat := ceilDiv f.svK 64
/-- Bytes of a block, of W and of its scale array. -/
def svBlock (f : FState) : Nat := blockBytes f.svFmt f.svPl
def svBytes (f : FState) : Nat := f.svM * f.svBlocks * f.svBlock
def svScales (f : FState) : Nat := if f.svScaled then f.svM * f.svBlocks else 0

/-- The static checks of an f.svm descriptor. -/
def checkSvm (f : FState) : Option Code :=
  let fmt := f.svFmt
  if f.svK == 0 || decide (16384 < f.svK) || f.svM == 0 || decide (16383 < f.svM) || !(fmt == 1 || fmt == 3 || fmt == 4 || fmt == 5) ||
      (if fmt = 5 then f.svPl == 1 || !f.svScaled else f.svPl != 1) || (fmt == 1 && f.svScaled) || decide (1 < f.w 41 1) || f.w 42 22 != 0 ||
      (!f.svScaled && f.w 16 8 != 0) then some Code.illegal
  else if f.w 8 8 % 64 != 0 || f.w 28 4 % 64 != 0 then some Code.align
  else none

end FState

/-- The stacks that the frames of a range lie in (R311). -/
def State.stacksOf (s : State) (c va n : Nat) : Except Code (List Nat) := do
  if n = 0 then return []
  let pg ← codeOf (s.pages (some c) (s.vfOf c) (dieOf c) va n .rd)
  return pg.filterMap (fun e => match e.2 with | .frame pa => some (pa / (16 * sliceFrames * frameBytes)) | .zero .. => none)

/-- The checks of an f.svm that need the machine: its landing, and the one stack that holds W. -/
def State.svmStack (s : State) (c : Nat) (f : FState) : Except Code Nat :=
  match s.landHandle c (BitVec.ofNat 64 (f.w 24 4)) with
  | none => .error Code.handle
  | some l =>
    if tdSize l.desc < f.w 28 4 + 4 * f.svM + 4 then .error Code.bounds
    else do
      let a ← s.stacksOf c (f.w 0 8) f.svBytes
      let b ← s.stacksOf c (f.w 16 8) f.svScales
      let k := (a ++ b).headD 0
      if (a ++ b).all (fun x => x == k) then return k else .error Code.prot

/-- A weight's value: its code, times its block's scale (R62, R63, R78). -/
def weight (fmt planes : Nat) (scale : Option Byte) (raw : Nat) : FVal :=
  let x := if fmt = 5 then FVal.ofInt (2 * sextNat planes raw + 1) (-(planes : Int)) else
    match Target.ofCode fmt 0 with
    | some t => t.value raw
    | none => .nan
  match scale with
  | some e => applyScale e x
  | none => x

/-- The products of row i and chunk j with x. -/
def FState.products (f : FState) (wb sc : List Byte) (xs : List FVal) (i j : Nat) : List FVal :=
  let b := i * f.svBlocks + j
  let raw := blockElems f.svFmt f.svPl ((wb.drop (b * f.svBlock)).take f.svBlock)
  let scale := if f.svScaled then sc[b]? else none
  let n := min 64 (f.svK - 64 * j)
  (((raw.map (weight f.svFmt f.svPl scale)).zip (xs.drop (64 * j))).take n).map (fun e => e.1.mul e.2)

/-- y, its bound and the flags (R357). -/
def FState.svmResult (f : FState) (wb sc : List Byte) (xs : List FVal) : List (BitVec 32) × BitVec 32 × Flags :=
  (upto f.svBlocks).foldl (fun (r : List (BitVec 32) × BitVec 32 × Flags) j =>
    let step := (r.1.zip (upto f.svM)).map (fun e => addChunk e.1 (f.products wb sc xs e.2 j))
    let ys := step.map (fun e => e.1)
    let b := if r.2.1 = bInf then bInf else chunkTerm false ys r.2.1
    (ys, b, r.2.2 ||| chunkOvf ys r.2.1 0 0 b ||| orFlags (step.map (fun e => e.2))))
    ((upto f.svM).map (fun _ => 0), 0, 0)

/-- The vector x of a descriptor. -/
def FState.svmX (f : FState) (l : List Byte) : List FVal :=
  if f.w 41 1 = 0 then (upto f.svK).map (fun i => f32 (BitVec.ofNat 32 (recField l (4 * i) 4)))
  else (upto f.svK).map (fun i => FloatFmt.bf16.decode (recField l (2 * i) 2))

/-- One f.svm request is served: its result is written to the landing as one piece. -/
def State.svmServe (s : State) (c : Nat) (f : FState) : Piece :=
  let rd (va n : Nat) : Except Code (List Byte) := if n = 0 then .ok [] else codeOf (s.readVa (some c) (s.vfOf c) (dieOf c) va n)
  let r : Except Code (List Byte × Flags) := do
    let wb ← rd (f.w 0 8) f.svBytes
    let sc ← rd (f.w 16 8) f.svScales
    let x ← rd (f.w 8 8) (if f.w 41 1 = 0 then 4 * f.svK else 2 * f.svK)
    let (ys, b, fl) := f.svmResult wb sc (f.svmX x)
    return ((ys ++ [storedBound b false]).flatMap (fun y => le4 y), fl)
  match r with
  | .error e => .fail e s
  | .ok (out, fl) =>
    let dst : End := { space := 1, base := BitVec.ofNat 64 (f.w 24 4), held := f.held }
    if !s.fillOk (s.endLines c dst (f.w 28 4) out.length) then .waits else
    match s.endWrite c dst (f.w 28 4) out with
    | .error e => .fail e (s.failedPiece c (out.map .ok) dst (f.w 28 4))
    | .ok (_, t) => .moved f.svM [] (t.fillPass (s.endLines c dst (f.w 28 4) out.length)) { f with aux := fl.toNat }

/-- The next request of a stack: round-robin by VF from the one after the last served (R27, R357). DESIGN CHOICE (log entry 73): the search for a
stack's first grant after reset starts at VF0. -/
def State.svmNext (s : State) (stack : Nat) : Option (Nat × Nat) :=
  let last := tget 127 s.svmLast stack
  let far (x : Nat × Nat) : Nat := (s.vfOf x.1 + 256 - (last + 1)) % 128
  (sortBy (fun (a b : Nat × Nat) => decide (far a < far b)) (tget [] s.svmq stack)).head?

/-- SVM_RUN (R357): a result waits for the fill ports of its landing (R185). -/
def execSvmRun (stack : Nat) (s : State) : Host.Outcome State Fault Refusal :=
  match s.svmNext stack with
  | none => .next s
  | some (c, id) =>
    let was := s
    let s : State := { s with svmq := tset [] s.svmq stack ((tget [] s.svmq stack).filter (fun x => x != (c, id))),
                              svmLast := tput stack (s.vfOf c) s.svmLast }
    match (s.findOp c id).bind Op.flume? with
    | none => .next s
    | some f =>
      match s.svmServe c f with
      | .waits => .next was
      | .moved n _ s g => .next (s.setFlume c id ({ g with count := n }.finish 0))
      | p => .next (s.takePiece c id f p)

end Sys2Proof.Machine
end

