-- ==== Sys2Proof/Machine/Torus.lean ====
section
/-! DEFINITION. The torus (R358 to R367): targets, the peer table, routes, f.ring, and the collectives with their gone and abort notices. -/

namespace Sys2Proof.Machine

open Sys2Proof

/-! ### Places and routes (R359 to R361) -/

/-- The (vf, z, y, x) of a place. -/
def placeBits (p : Place) : BitVec 19 := p.vf ++ p.z ++ p.y ++ p.x

/-- The (z, y, x) of a place. -/
def packageBits (p : Place) : BitVec 12 := p.z ++ p.y ++ p.x

/-- The place that a target names. -/
def placeOfTarget (t : Dword) : Place :=
  { x := t.extractLsb' 0 4, y := t.extractLsb' 4 4, z := t.extractLsb' 8 4, vf := t.extractLsb' 12 7, cell := t.extractLsb' 19 7 }

/-- The place of a cell of this package for a VF, once POD has set the coordinates. -/
def State.ownPlace (s : State) (vf c : Nat) : Option Place :=
  s.pod.map (fun q => { x := BitVec.ofNat 4 q.1, y := BitVec.ofNat 4 q.2.1, z := BitVec.ofNat 4 q.2.2.1, vf := BitVec.ofNat 7 vf,
                        cell := BitVec.ofNat 7 c })

/-- A place is in this package. -/
def State.isOwn (s : State) (p : Place) : Bool :=
  match s.ownPlace 0 0 with
  | some o => packageBits o == packageBits p
  | none => false

/-- A target's checks: its form, and its coordinates within the extents. Until POD every transfer ends with ILLEGAL (R395). -/
def State.targetPlace (s : State) (t : Dword) : Except Code Place :=
  match s.pod with
  | none => .error Code.illegal
  | some (_, _, _, nx, ny, nz) =>
    let p := placeOfTarget t
    if t.getLsbD 63 && t.extractLsb' 26 37 == 0 && decide (p.x.toNat < nx) && decide (p.y.toNat < ny) && decide (p.z.toNat < nz) then .ok p
    else .error Code.illegal

/-- A VF's peer table holds a valid entry for a (vf, z, y, x) (R360). -/
def State.hasPeer (s : State) (vf : Nat) (b : BitVec 19) : Bool :=
  (s.vf vf).peers.any (fun e => e.2.getLsbD 31 && e.2.extractLsb' 0 19 == b)

/-- What the sender's side of R360 finds; within the package it finds the receiver's side as well. -/
def State.mayReach (s : State) (o p : Place) : Bool :=
  if s.isOwn p then o.vf == p.vf || (s.hasPeer o.vf.toNat (placeBits p) && s.hasPeer p.vf.toNat (placeBits o))
  else s.hasPeer o.vf.toNat (placeBits p)

/-- The shorter way round a ring of n from a to b is the − direction (R361). -/
def goesDown (a b n : Nat) : Bool := decide (n < 2 * ((b + n - a) % n))

/-- The hops round a ring of n from a to b: dimension, the − direction, virtual channel. A packet is on channel 0 until it has crossed the
dateline between n − 1 and 0, and on channel 1 from then to the end of the dimension (R361). -/
def ringHops (dim b n : Nat) : Nat → Nat → Nat → List (Nat × Bool × Nat)
  | 0, _, _ => []
  | f + 1, a, ch =>
    if a = b then []
    else
      let down := goesDown a b n
      (dim, down, ch) :: ringHops dim b n f (if down then (a + n - 1) % n else (a + 1) % n)
        (if a = (if down then 0 else n - 1) then 1 else ch)

/-- The route of a packet that leaves this package: in dimension order, on channel 0 again after each turn (R361). -/
def State.route (s : State) (p : Packet) : List (Nat × Bool × Nat) :=
  match s.pod with
  | none => []
  | some (x, y, z, nx, ny, nz) =>
    ringHops 0 p.dst.x.toNat nx nx x 0 ++ ringHops 1 p.dst.y.toNat ny ny y 0 ++ ringHops 2 p.dst.z.toNat nz nz z 0

/-- The link that a packet leaves by: its dimension and direction, and the index of its issuing cell's die, which it keeps at every hop (R21,
R361). -/
def State.firstLink (s : State) (p : Packet) : Option Nat :=
  (s.route p).head?.map (fun h => (if dieOf p.src.cell.toNat < 2 then 0 else 6) + h.1 + (if h.2.1 then 3 else 0))

/-- The link that a packet needs here is in service. -/
def State.linkUp (s : State) (p : Packet) : Bool :=
  match s.firstLink p with
  | some l => !tget false s.linksDown l
  | none => true

/-- A packet goes out on its link. -/
def State.emit (s : State) (p : Packet) : State := { s with out := s.out ++ [.packet p] }

/-- The answer to a packet, on its way back: to the sender's operation in this package, or over the torus. -/
def State.answer (s : State) (p : Packet) (code : Option (BitVec 8)) : State :=
  let a : Packet := { src := p.dst, dst := p.src, id := p.id, body := .answer code }
  if s.isOwn p.src then { s with torus := s.torus ++ [a] } else s.emit a

/-- The answer that has come back for an operation: none yet, or its code. -/
def State.answerFor (s : State) (id : Nat) : Option (Option (BitVec 8)) :=
  s.torus.findSome? (fun p => match p.body with | .answer code => if p.id = id then some code else none | _ => none)

/-- An answer that has come back for an operation refuses a packet of it. -/
def State.refusalFor (s : State) (id : Nat) : Option (BitVec 8) :=
  s.torus.findSome? (fun p => match p.body with | .answer (some e) => if p.id = id then some e else none | _ => none)

/-- The answers that have come back for an operation. -/
def State.answersFor (s : State) (id : Nat) : Nat :=
  (s.torus.filter (fun p => match p.body with | .answer _ => p.id == id | _ => false)).length

/-- The answers for an operation leave. -/
def State.dropAnswers (s : State) (id : Nat) : State :=
  { s with torus := s.torus.filter (fun p => match p.body with | .answer _ => p.id != id | _ => true) }

/-- A place's bulkhead is in reset, or its VF does not exist: it answers with a NAK (R362, R385). -/
def State.answersNak (s : State) (p : Place) : Bool :=
  !(s.vf p.vf.toNat).live || (s.bh (bhOf p.cell.toNat)).gateClosed

/-! ### f.ring (R362) -/

namespace FState

/-- The static checks of an f.ring descriptor. -/
def checkRing (f : FState) : Option Code :=
  if f.w 24 4 == 0 || decide (65536 < f.w 24 4) || decide (1 < f.w 28 1) || f.w 29 3 != 0 || f.w 40 24 != 0 then some Code.illegal else none

def rgSrc (f : FState) : End := { space := 1, base := BitVec.ofNat 64 (f.w 0 4), held := f.held }

end FState

/-- The start of an f.ring: the landing it sends from, which it counts for, and the checks of its range and target. -/
def State.ringStart (s : State) (c : Nat) (f : FState) : FState :=
  match s.landHandle c f.rgSrc.base with
  | none => f.fail Code.handle
  | some l =>
    let f : FState := { f with land := some (hdIdx f.rgSrc.base) }
    if tdSize l.desc < f.w 4 4 + f.w 24 4 then f.fail Code.bounds
    else
      match s.targetPlace (BitVec.ofNat 64 (f.w 8 8)) with
      | .error e => f.fail e
      | .ok p =>
        match s.ownPlace (s.vfOf c) c with
        | none => f.fail Code.illegal
        | some o => if s.mayReach o p then f else f.fail Code.window

/-- The next step of an f.ring: the answer to the piece sent, or the next piece. One piece is under way at a time, since no later piece is
started once one has failed (R350). -/
def State.ringPiece (s : State) (c id : Nat) (f : FState) : State :=
  let len := f.w 24 4
  let off := 2048 * f.piece
  let n := min 2048 (len - off)
  if f.acked < f.sent then
    match s.answerFor id with
    | none => s
    | some none =>
      let f : FState := { f with acked := f.acked + 1, piece := f.piece + 1, count := f.count + n }
      (s.dropAnswers id).setFlume c id (if len ≤ off + n then f.finish 0 else f)
    | some (some e) => (s.dropAnswers id).setFlume c id (f.finish e)
  else if !s.fillOk (s.endLines c f.rgSrc ((f.w 4 4 + off : Nat) : Int) n) then s
  else
    match s.endRead c f.rgSrc ((f.w 4 4 + off : Nat) : Int) n, s.ownPlace (s.vfOf c) c with
    | .error e, _ => s.setFlume c id (f.fail e)
    | _, none => s.setFlume c id (f.fail Code.illegal)
    | .ok l, some o =>
      let p : Packet :=
        { src := o, dst := placeOfTarget (BitVec.ofNat 64 (f.w 8 8)), id := id,
          body := .ring (BitVec.ofNat 32 (f.w 16 4)) (f.w 20 4 + off) l
            (if f.w 28 1 = 1 then some (BitVec.ofNat 32 (f.w 32 4), f.w 36 4) else none) }
      let s := (s.setFlume c id { f with sent := f.sent + 1 }).fillPass (s.endLines c f.rgSrc ((f.w 4 4 + off : Nat) : Int) n)
      if s.isOwn p.dst then { s with rings := s.rings ++ [p] }
      else if s.linkUp p then s.emit p
      else s.setFlume c id (f.fail Code.fabric)

/-- A ring piece's data at its target: the answer's code, and the state after it. -/
def State.ringWrite (s : State) (p : Packet) (land : BitVec 32) (off : Nat) (l : List Byte) (acc : Option (BitVec 32 × Nat)) :
    Option Code × State :=
  let c := p.dst.cell.toNat
  let dst : End := { space := 1, base := land.zeroExtend 64 }
  match s.endWrite c dst (off : Int) l with
  | .error e => (some e, s.failedPiece c (l.map .ok) dst (off : Int))
  | .ok (_, t) =>
    let t := t.fillPass (s.endLines c dst (off : Int) l.length)
    match acc with
    | none => (none, t)
    | some (h, o) =>
      if (t.scratchHandle c (h.zeroExtend 64)).isNone then (some Code.handle, t)
      else
        match t.barrierAt c (h.zeroExtend 64) (o : Int) 0 (-(l.length : Int)) with
        | .error e => (some e, t)
        | .ok t => (none, t)

/-- RING_PIECE_AT_TARGET (R362): a piece waits for the pieces before it from its engine, and while its VF is not resident. -/
def execRingPieceAtTarget (i : Nat) (s : State) : Host.Outcome State Fault Refusal :=
  match s.rings[i]? with
  | none => .next s
  | some p =>
    let c := p.dst.cell.toNat
    if (s.rings.take i).any (fun q => q.src == p.src && q.dst == p.dst) then .next s
    else
      let t : State := { s with rings := removeAt s.rings i }
      if s.answersNak p.dst then .next (t.answer p (some (Code.fabric.zeroExtend 8)))
      else
        match p.body with
        | .ring land off l acc =>
          if (s.cell c).vf == some p.dst.vf.toNat then
            if hdLvl (land.zeroExtend 64) ≠ 1 then .next (t.answer p (some (Code.handle.zeroExtend 8)))
            else if !s.fillOk (s.endLines c { space := 1, base := land.zeroExtend 64 } (off : Int) l.length ++
                (match acc with | some (h, o) => s.objectLines c (h.zeroExtend 64) (o : Int) | none => [])) then .next s
            else
              let r := t.ringWrite p land off l acc
              .next (r.2.answer p (r.1.map (fun e => e.zeroExtend 8)))
          else if (s.vf p.dst.vf.toNat).cfg.shape = 0 ∨ !(shapeCells (s.vf p.dst.vf.toNat).cfg.shape).contains c then
            .next (t.answer p (some (Code.handle.zeroExtend 8)))
          else .next s
        | _ => .next t

/-! ### Collectives: the arithmetic (R86 to R89, R364) -/

namespace FState

def clOp (f : FState) : Nat := f.w 0 1
def clRed (f : FState) : Nat := f.w 1 1
def clFmt (f : FState) : Nat := f.w 2 1 % 16
def clScaled (f : FState) : Bool := f.w 2 1 / 128 == 1
def clN (f : FState) : Nat := f.w 4 4
def clP (f : FState) : Nat := f.w 40 4
def clRoot (f : FState) : Nat := f.w 44 4
def clTag (f : FState) : BitVec 32 := BitVec.ofNat 32 (f.w 48 4)

/-- Bytes of an input element, of a rank's data and of its scales. -/
def clElem (f : FState) : Nat :=
  match f.clFmt with
  | 0 | 8 => 4
  | 1 | 2 => 2
  | _ => 1
def clBytes (f : FState) : Nat := f.clN * f.clElem
def clScales (f : FState) : Nat := if f.clScaled then ceilDiv f.clN 64 else 0

/-- A sum of floating-point elements, which .exact makes in 320-bit words. -/
def clWide (f : FState) (mode : Nat) : Bool := mode == 2 && f.clRed == 0 && f.clFmt != 8 && decide (f.clOp ≤ 1)

/-- The static checks of an f.coll descriptor (R363). -/
def checkColl (f : FState) : Option Code :=
  let fmt := f.clFmt
  if decide (3 < f.clOp) || (decide (f.clOp ≤ 1) && decide (2 < f.clRed)) || !(decide (fmt ≤ 4) || fmt == 8) || f.w 2 1 / 16 % 8 != 0 ||
      (f.clScaled && !(fmt == 3 || fmt == 4)) || f.w 3 1 != 0 || f.clN == 0 || decide (2 ^ 26 < f.clN) || f.clP == 0 ||
      decide (65536 < f.clP) || decide (f.clP ≤ f.clRoot) || f.w 52 12 != 0 then some Code.illegal
  else if f.w 8 8 % 64 != 0 || f.w 16 8 % 64 != 0 then some Code.align
  else none

/-- What every packet's header says of the sender's descriptor. -/
def clHdr (f : FState) (mode : Nat) : List Nat := [f.clOp, f.clRed, f.w 2 1, f.clN, f.clP, f.clRoot, mode]

end FState

/-- The 320-bit word of an FP32 value (R89). -/
def toExact (b : Nat) : Nat :=
  match f32 (BitVec.ofNat 32 b) with
  | .nan => 3 * 2 ^ 318
  | .inf false => 2 ^ 318
  | .inf true => 2 * 2 ^ 318
  | x => (x.intAt (-149) % (2 ^ 318 : Int)).toNat

/-- The exact sum of two 320-bit words. -/
def addExact (a b : Nat) : Nat :=
  let (ca, cb) := (a / 2 ^ 318, b / 2 ^ 318)
  if ca = 0 ∧ cb = 0 then (a + b) % 2 ^ 318
  else if ca = 0 then cb * 2 ^ 318
  else if cb = 0 ∨ ca = cb then ca * 2 ^ 318
  else 3 * 2 ^ 318

/-- A 320-bit word rounded to FP32, with OVF when that overflows (R89). -/
def ofExact (a : Nat) : Nat × Flags :=
  match a / 2 ^ 318 with
  | 0 =>
    let x : Int := if a < 2 ^ 317 then (a : Int) else (a : Int) - 2 ^ 318
    let r := rne32 (FVal.ofInt x (-149))
    (r.1.toNat, r.2 &&& Flags.ovf)
  | 1 => (0x7F800000, 0)
  | 2 => (0xFF800000, 0)
  | _ => (0x7FC00000, 0)

/-- An input element widened to FP32, with OVF beyond its range, or an I32 as it is (R86). -/
def FState.widen (f : FState) (raw : Nat) (scale : Option Byte) : Nat × Flags :=
  if f.clFmt = 0 ∨ f.clFmt = 8 then (raw, 0)
  else
    let x := match Target.ofCode f.clFmt 0 with | some t => t.value raw | none => .nan
    let r := rne32 (match scale with | some e => applyScale e x | none => x)
    (r.1.toNat, r.2 &&& Flags.ovf)

/-- Two partial results combined, with OVF when a rounded sum overflows (R8, R70, R86). -/
def FState.comb (f : FState) (mode a b : Nat) : Nat × Flags :=
  if f.clFmt = 8 then
    let (x, y) := ((BitVec.ofNat 32 a).toInt, (BitVec.ofNat 32 b).toInt)
    match f.clRed with
    | 0 => ((a + b) % 2 ^ 32, 0)
    | 1 => (if x < y then b else a, 0)
    | _ => (if y < x then b else a, 0)
  else if f.clRed = 0 then
    if f.clWide mode then (addExact a b, 0)
    else
      let r := rne32 ((f32 (BitVec.ofNat 32 a)).add (f32 (BitVec.ofNat 32 b)))
      (r.1.toNat, r.2 &&& Flags.ovf)
  else ((fminmax (f.clRed == 1) (BitVec.ofNat 32 a) (BitVec.ofNat 32 b)).1.toNat, 0)

/-- Two lists of partial results combined, element by element. -/
def FState.combAll (f : FState) (mode : Nat) (a b : List Nat) : List Nat × Flags :=
  let l := (a.zip b).map (fun e => f.comb mode e.1 e.2)
  (l.map (fun e => e.1), orFlags (l.map (fun e => e.2)))

/-- The partial results of .fast combined pairwise as the device chooses (R87). -/
def FState.mergeAll (f : FState) : Nat → List (Nat × Nat) → List (List Nat) → List Nat × Flags
  | 0, _, l => (l.headD [], 0)
  | n + 1, ch, l =>
    if l.length ≤ 1 then (l.headD [], 0)
    else
      let (i, j) := ch.headD (0, 1)
      let i := i % l.length
      let j := if j % l.length = i then (i + 1) % l.length else j % l.length
      let m := f.combAll 0 (l.getD i []) (l.getD j [])
      let r := f.mergeAll n ch.tail (m.1 :: removeAt (removeAt l (max i j)) (min i j))
      (r.1, m.2 ||| r.2)

/-! ### Collectives: the schedule (R364) -/

/-- What a rank does in a step: it sends to ranks, and it takes the data of ranks. -/
structure Turn where
  dst : List Nat := []
  src : List Nat := []

/-- The least L with P ≤ 2^L, at most n more than k. -/
def log2Up (p : Nat) : Nat → Nat → Nat
  | 0, k => k
  | n + 1, k => if p ≤ 2 ^ k then k else log2Up p n (k + 1)

def FState.clL (f : FState) : Nat := log2Up f.clP 20 0

/-- The last step of a collective. -/
def FState.clLast (f : FState) (mode : Nat) : Nat :=
  if f.clP = 1 then 0
  else
    match f.clOp, mode with
    | 0, 0 => 2
    | 1, 0 => if f.clRoot = 0 then 1 else 2
    | 0, _ => 2 * f.clL
    | 1, _ => if f.clRoot = 0 then f.clL else f.clL + 1
    | 2, _ => f.clL + 1
    | _, _ => f.clP - 1

/-- The step after which rank 0 holds the result of a reduction. -/
def FState.clTop (f : FState) (mode : Nat) : Nat := if mode = 0 then min 1 (f.clP - 1) else f.clL

/-- Step j of the way down the tree. -/
def FState.down (f : FState) (r j : Nat) : Turn :=
  let d := 2 ^ (f.clL - j)
  if r % (2 * d) = 0 then (if r + d < f.clP then { dst := [r + d] } else {})
  else if r % (2 * d) = d then { src := [r - d] } else {}

/-- Rank a sends its result to rank b. -/
def pass (r a b : Nat) : Turn := if a = b then {} else if r = a then { dst := [b] } else if r = b then { src := [a] } else {}

/-- What rank r does in step k. -/
def FState.turn (f : FState) (mode r k : Nat) : Turn :=
  let p := f.clP
  let l := f.clL
  if k = 0 then {}
  else if f.clOp = 3 then { dst := [(r + p - k) % p], src := [(r + k) % p] }
  else if f.clOp = 2 then (if k = 1 then pass r f.clRoot 0 else f.down r (k - 1))
  else if mode = 0 then
    if k = 1 then (if r = 0 then { src := span 1 (p - 1) } else { dst := [0] })
    else if f.clOp = 1 then pass r 0 f.clRoot
    else (if r = 0 then { dst := span 1 (p - 1) } else { src := [0] })
  else if k ≤ l then
    let d := 2 ^ (k - 1)
    if r % (2 * d) = 0 then (if r + d < p then { src := [r + d] } else {})
    else if r % (2 * d) = d then { dst := [r - d] } else {}
  else if f.clOp = 1 then pass r 0 f.clRoot
  else f.down r (k - l)

/-! ### Collectives: the machine's part -/

/-- The group of a descriptor, as read. -/
def State.readGroup (s : State) (c : Nat) (f : FState) : Except Code (List Dword) := do
  let l ← codeOf (s.readVa (some c) (s.vfOf c) (dieOf c) (f.w 32 8) (8 * f.clP))
  return (upto f.clP).map (fun i => BitVec.ofNat 64 (recField l (8 * i) 8))

/-- Abort notices to every other rank of a group (R367). -/
def State.sendAborts (s : State) (o : Place) (group : List Dword) (tag : BitVec 32) : State :=
  group.foldl (fun s t =>
    match s.targetPlace t with
    | .error _ => s
    | .ok p =>
      if p == o then s
      else if s.isOwn p then { s with aborts := s.aborts ++ [(p, tag)] }
      else { s with out := s.out ++ [.abort p tag] }) s

/-- A packet of a collective as it waits for its rank. -/
structure CollPkt where
  src : Place
  hdr : List Nat
  step : Nat
  rank : Nat
  piece : Nat
  data : List Nat

/-- The packets of a collective that wait for a rank. -/
def State.collPackets (s : State) (o : Place) (tag : BitVec 32) : List CollPkt :=
  s.torus.filterMap (fun p => match p.body with
    | .coll hdr t k src i l => if p.dst == o ∧ t = tag then some { src := p.src, hdr := hdr, step := k, rank := src, piece := i, data := l } else none
    | _ => none)

/-- The packets of a collective for a rank that satisfy a condition on their step leave. -/
def State.dropColl (s : State) (o : Place) (tag : BitVec 32) (gone : Nat → Bool) : State :=
  { s with torus := s.torus.filter (fun p => match p.body with
      | .coll _ t k _ _ _ => !(p.dst == o && t == tag && gone k)
      | _ => true) }

/-- An operation of a VF's cell, resident or saved, changes. -/
def State.setFlumeOf (s : State) (vf c id : Nat) (f : FState) : State :=
  if (s.cell c).vf == some vf then s.setFlume c id f
  else s.modCellFor vf c (fun x => { x with ops := x.ops.map (fun o => if o.id = id then { o with body := .flume f } else o) })

/-- A collective ends with an error: on PEERGONE and ILLEGAL the other ranks hear of it (R367). -/
def State.failColl (s : State) (vf c id : Nat) (f : FState) (code : BitVec 8) : State :=
  let s := s.setFlumeOf vf c id (f.finish code)
  match s.ownPlace vf c with
  | none => s
  | some o =>
    let s := (s.dropColl o f.clTag (fun _ => true)).dropAnswers id
    if code = 0x40 ∨ code = Code.illegal.zeroExtend 8 then s.sendAborts o (match f.coll with | some co => co.group | none => []) f.clTag else s

/-- What a function finds in the cells of every VF, resident or saved. -/
def State.opsOfVfs {α : Type} (s : State) (of : Nat → Nat → Cell → List α) : List α :=
  (s.cells.flatMap (fun e => match e.2.vf with | some vf => of vf e.1 e.2 | none => [])) ++
    (s.vfs.flatMap (fun v => match v.2.saved with | some w => w.cells.flatMap (fun e => of v.1 e.1 e.2) | none => []))

/-- The collectives in progress on this package, resident or saved: VF, cell, operation and data. -/
def State.colls (s : State) : List (Nat × Nat × Nat × FState) :=
  s.opsOfVfs (fun vf c x =>
    x.ops.filterMap (fun o => (o.flume?).bind (fun f => if f.kind = .coll ∧ f.code.isNone then some (vf, c, o.id, f) else none)))

/-- Collectives that satisfy a condition end with PEERGONE. -/
def State.endColls (s : State) (hit : Nat → Nat → FState → Bool) : State :=
  (s.colls.filter (fun e => hit e.1 e.2.1 e.2.2.2)).foldl (fun s e => s.failColl e.1 e.2.1 e.2.2.1 e.2.2.2 0x40) s

/-- A packet's header disagrees with a rank's descriptor: its fields, the place of its sender, or the step in which that rank sends here
(R363). -/
def FState.disagrees (f : FState) (co : Coll) (q : CollPkt) : Bool :=
  q.hdr != f.clHdr co.mode || decide (f.clLast co.mode < q.step) || !(f.turn co.mode co.rank q.step).src.contains q.rank || placeOfTarget (co.group.getD q.rank 0) != q.src

/-- A rank has taken the data of a packet of an earlier step, whose header agrees with its descriptor (R363, R411). -/
def Op.tookPacket (o : Op) (tag : BitVec 32) (q : CollPkt) : Bool :=
  match o.flume? with
  | some f => f.clTag == tag && f.code.isNone && (match f.coll with | some co => decide (q.step < co.step) && !f.disagrees co q | none => false)
  | none => false

/-- A packet of a collective at its target's package: refused by a NAK, dropped as a duplicate, or kept for its rank, which sees a header
that disagrees (R360, R363, R364, R411). -/
def State.acceptColl (s : State) (p : Packet) : Option (BitVec 8) × State :=
  match p.body with
  | .coll hdr tag k src i l =>
    if s.answersNak p.dst then (some 0x40, s)
    else
      let x := s.cellFor p.dst.vf.toNat p.dst.cell.toNat
      let held := (s.collPackets p.dst tag).any (fun q => q.hdr == hdr && q.src == p.src && q.step == k && q.rank == src && q.piece == i) ||
        x.ops.any (fun o => o.tookPacket tag { src := p.src, hdr := hdr, step := k, rank := src, piece := i, data := l })
      if held then (none, s) else (none, { s with torus := s.torus ++ [p] })
  | _ => (none, s)

/-- Elements of a rank's data in a packet of at most 32 data flits (R358): bytes; or partial results of 4 bytes each, 40 under .exact
(R89, R365). -/
def FState.clPer (f : FState) (mode : Nat) : Nat := if 1 < f.clOp then 2048 else if mode = 2 then 51 else 512

/-- Elements of a rank's whole data of a step. -/
def FState.clLen (f : FState) : Nat := if 1 < f.clOp then f.clBytes + f.clScales else f.clN

/-- A packet of a collective goes to its rank. -/
def State.sendPacket (s : State) (p : Packet) : Except (BitVec 8) State :=
  if s.isOwn p.dst then
    match s.acceptColl p with
    | (some e, _) => .error e
    | (none, s) => .ok s
  else if s.linkUp p then .ok (s.emit p)
  else .error (Code.fabric.zeroExtend 8)

/-- A rank sends its data of a step to another, piece by piece. -/
def State.sendColl (s : State) (c id : Nat) (f : FState) (co : Coll) (data : List Nat) (q : Nat) : Except (BitVec 8) State :=
  match s.targetPlace (co.group.getD q 0), s.ownPlace (s.vfOf c) c with
  | .ok d, some o =>
    let per := f.clPer co.mode
    if !s.mayReach o d then .error (Code.window.zeroExtend 8)
    else (upto (ceilDiv data.length per)).foldlM (fun s i => s.sendPacket
      { src := o, dst := d, id := id, body := .coll (f.clHdr co.mode) f.clTag co.step co.rank i ((data.drop (i * per)).take per) }) s
  | _, _ => .error (Code.illegal.zeroExtend 8)

/-- The data of a step that has come from a rank, once every piece has. -/
def FState.arrived (f : FState) (l : List CollPkt) (step r : Nat) : Option (Nat × List Nat) :=
  let mine := sortBy (fun (a b : CollPkt) => decide (a.piece < b.piece)) (l.filter (fun q => q.step == step && q.rank == r))
  let data := mine.flatMap (fun q => q.data)
  if data.length = f.clLen then some (r, data) else none

/-- Free bytes: what the work buffer holds where the spec leaves it open (R364). -/
def State.freeBytes (s : State) (n : Nat) : List Byte × State :=
  ((upto n).map (fun i => Config.freeByte (s.freeCtr + i)), { s with freeCtr := s.freeCtr + n })

/-- What writes of the flume engine come to: the bytes written in full before an error, the error, and the state. -/
structure Written where
  n : Nat := 0
  err : Option Code := none
  s : State

/-- Bytes are written from a VA in pieces of at most 2,048 bytes; a failed piece leaves each of its bytes old or new (R350). -/
def writePieces (c : Nat) : Nat → Nat → List Byte → Written → Written
  | 0, _, _, r => r
  | k + 1, va, l, r =>
    if r.err.isSome || l.isEmpty then r
    else
      let b := l.take 2048
      match codeOf (r.s.writeVa (some c) (r.s.vfOf c) (dieOf c) (va % 2 ^ 64) b) with
      | .ok (_, t) => writePieces c k (va + b.length) (l.drop 2048) { r with n := r.n + b.length, s := t }
      | .error e => { r with err := some e, s := r.s.failedPiece c (b.map .ok) { space := 0, base := BitVec.ofNat 64 va } 0 }

/-- A write of the flume engine of a cell to a VA, after others. -/
def Written.put (r : Written) (c va : Nat) (l : List Byte) : Written := writePieces c (l.length / 2048 + 1) va l r

/-- The work buffer after a step (R364): the partial result; under .fast, and for I32 in 320-bit places, whatever the device leaves. -/
def State.collWork (s : State) (c : Nat) (f : FState) (co : Coll) : Written :=
  let work (s : State) (l : List Byte) : Written := ({ s := s } : Written).put c (f.w 24 8) l
  let size := if co.mode = 2 then 40 else 4
  if co.mode = 0 then
    let (l, s) := s.freeBytes (4 * f.clN)
    let r := work s l
    if f.clOp ≤ 1 then r else { r with err := none }
  else if 1 < f.clOp then { s := s }
  else if co.mode = 2 ∧ f.clFmt = 8 then
    let (l, s) := s.freeBytes (40 * f.clN)
    work s l
  else work s (co.x.flatMap (fun v => leBytes (if co.mode = 2 && !f.clWide 2 then toExact v else v) size))

/-- The input: a rank's bytes, and its scales after them. -/
def State.collInput (s : State) (c : Nat) (f : FState) : Except Code (List Nat) := do
  let a ← codeOf (s.readVa (some c) (s.vfOf c) (dieOf c) (f.w 8 8) f.clBytes)
  let b ← if f.clScales = 0 then .ok [] else
    codeOf (s.readVa (some c) (s.vfOf c) (dieOf c) ((f.w 8 8 + up64 f.clBytes) % 2 ^ 64) f.clScales)
  return (a ++ b).map (fun x => x.toNat)

/-- The widened input, with its flags. -/
def FState.widenAll (f : FState) (mode : Nat) (l : List Nat) : List (Nat × Flags) :=
  let bytes := l.map (fun x => BitVec.ofNat 8 x)
  (upto f.clN).map (fun i =>
    let v := f.widen (recField bytes (i * f.clElem) f.clElem) (if f.clScaled then bytes[f.clBytes + i / 64]? else none)
    (if f.clWide mode then toExact v.1 else v.1, v.2))

/-- A rank's result written to cl.out in pieces: data, then scales; a rank of a reduce that is not its root has none. The blocks of an
allgather go in ascending order of rank. The bytes of data written in full are counted. -/
def State.putResult (s : State) (c : Nat) (f : FState) (co : Coll) : Written :=
  let bytes (l : List Nat) : List Byte := l.map (fun x => BitVec.ofNat 8 x)
  let blocks (l : List (Nat × List Nat)) (scaleAt : Nat) : Written :=
    let r := l.foldl (fun (r : Written) e => r.put c (f.w 16 8 + e.1 * f.clBytes) (bytes (e.2.take f.clBytes))) { s := s }
    let q := l.foldl (fun (r : Written) e => r.put c (f.w 16 8 + scaleAt + e.1 * f.clScales) (bytes (e.2.drop f.clBytes))) r
    { q with n := r.n }
  match f.clOp with
  | 3 => blocks (sortBy (fun (a b : Nat × List Nat) => decide (a.1 < b.1)) co.got) (up64 (f.clP * f.clBytes))
  | 2 => blocks [(0, co.res.getD [])] (up64 f.clBytes)
  | op =>
    if op = 1 ∧ co.rank ≠ f.clRoot then { s := s }
    else ({ s := s } : Written).put c (f.w 16 8) ((co.res.getD []).flatMap (fun v => leBytes v 4))

/-- The data of a step taken in: a partial result, the result, or a block. -/
def FState.absorb (f : FState) (co : Coll) (ds : List (Nat × List Nat)) (merges : List (Nat × Nat)) : Coll :=
  match f.clOp with
  | 3 => { co with got := co.got ++ ds }
  | 2 => { co with res := match co.res, ds with | none, d :: _ => some d.2 | r, _ => r }
  | _ =>
    if co.step ≤ f.clTop co.mode then
      let r : List Nat × Flags :=
        if co.mode = 0 then f.mergeAll ds.length merges (co.x :: ds.map (fun d => d.2))
        else ds.foldl (fun (x : List Nat × Flags) d => let m := f.combAll co.mode x.1 d.2; (m.1, x.2 ||| m.2)) (co.x, 0)
      { co with x := r.1, flags := co.flags ||| r.2 }
    else { co with res := match ds with | d :: _ => some d.2 | [] => co.res }

/-- Rank 0 holds the result of a reduction after its last combination. DESIGN CHOICE (log entry 72): a collective with one participant hands an
FP32 NaN of its input through as it is; the spec does not say whether that result is a produced NaN (R57). -/
def FState.settleTop (f : FState) (co : Coll) : Coll :=
  if decide (f.clOp ≤ 1) && co.rank == 0 && co.step == f.clTop co.mode then
    let l := co.x.map ofExact
    if f.clWide co.mode then { co with res := some (l.map (fun v => v.1)), flags := co.flags ||| orFlags (l.map (fun v => v.2)) }
    else { co with res := some co.x }
  else co

/-- The rank obtains its result in a step (R364): an allgather's is every block. Under .fast cl.out is written in the last step alone. -/
def FState.obtains (f : FState) (was co : Coll) : Bool :=
  let ended := decide (f.clLast co.mode ≤ co.step)
  if f.clOp = 3 || co.mode = 0 then ended else was.res.isNone && co.res.isSome

/-- The end of a step: the work buffer, the result where it has been obtained, and the count of steps. -/
def State.collAdvance (s : State) (c id : Nat) (f : FState) (was co : Coll) : State :=
  let last := f.clLast co.mode
  let f : FState := { f with coll := some co }
  let r := s.collWork c f co
  match r.err with
  | some e => r.s.failColl (s.vfOf c) c id f (e.zeroExtend 8)
  | none =>
    let q := if f.obtains was co then r.s.putResult c f co else { s := r.s }
    match q.err with
    | some e => q.s.failColl (s.vfOf c) c id { f with count := q.n / (if f.clOp ≤ 1 then 4 else f.clElem) } (e.zeroExtend 8)
    | none =>
      let has := f.obtains was co && (f.clOp == 3 || (co.res.isSome && (f.clOp != 1 || co.rank == f.clRoot)))
      let f : FState := { f with sub := 0, aux := min 255 (f.aux + 1), coll := some { co with step := co.step + 1 },
                                 count := if has then f.clN else f.count }
      q.s.setFlume c id (if last ≤ co.step then { f with count := f.clN }.finish 0 else f)

/-- The packets of a rank's data that go to ranks of other packages, each of which is answered from there (R358, R360, R367). -/
def State.packetsOut (s : State) (f : FState) (co : Coll) (data : List Nat) (dst : List Nat) : Nat :=
  (dst.filter (fun q => match s.targetPlace (co.group.getD q 0) with | .ok p => !s.isOwn p | .error _ => false)).length *
    ceilDiv data.length (f.clPer co.mode)

/-- A rank's step (R364): it sends its data once, and ends the step when its packets have been accepted, and the data that it awaits have
come. -/
def State.collStep (s : State) (c id : Nat) (f : FState) (co : Coll) (o : Place) : State :=
  let vf := s.vfOf c
  if co.step = 0 then
    match s.collInput c f with
    | .error e => s.failColl vf c id f (e.zeroExtend 8)
    | .ok l =>
      let new : Coll :=
        match f.clOp with
        | 3 => { co with x := l, got := [(co.rank, l)] }
        | 2 => { co with res := if co.rank = f.clRoot then some l else none }
        | _ =>
          let w := f.widenAll co.mode l
          { co with x := w.map (fun v => v.1), flags := co.flags ||| orFlags (w.map (fun v => v.2)) }
      s.collAdvance c id f co (f.settleTop new)
  else
    let t := f.turn co.mode co.rank co.step
    let data := if f.clOp = 3 then co.x else if f.clOp = 2 ∨ f.clTop co.mode < co.step then co.res.getD [] else co.x
    let sent : Except (BitVec 8) State := if f.sub = 0 then t.dst.foldlM (fun s q => s.sendColl c id f co data q) s else .ok s
    match sent with
    | .error e => s.failColl vf c id f e
    | .ok s =>
      let f : FState := { f with sub := 1, sent := f.sent + (if f.sub = 0 then s.packetsOut f co data t.dst else 0), acked := f.acked + s.answersFor id }
      let s := (s.dropAnswers id).setFlume c id f
      let ds := t.src.filterMap (fun r => f.arrived (s.collPackets o f.clTag) co.step r)
      if ds.length < t.src.length || f.acked < f.sent then s
      else
        let ch := if f.clOp ≤ 1 ∧ co.mode = 0 ∧ !ds.isEmpty then s.env.merges.take (ds.length) else []
        let s : State := { s.dropColl o f.clTag (fun k => k == co.step) with env := { s.env with merges := s.env.merges.drop ch.length } }
        s.collAdvance c id f co (f.settleTop (f.absorb co ds ch))

/-- COLLECTIVE_STEP (R364): a NAK that has come back, or a packet whose header disagrees with the rank's descriptor, ends the collective. That of
a cell closed for a switch stands still (R411). -/
def execCollectiveStep (c id : Nat) (s : State) : Host.Outcome State Fault Refusal :=
  match (s.findOp c id).bind Op.flume? with
  | none => .next s
  | some f =>
    match f.coll, s.ownPlace (s.vfOf c) c with
    | some co, some o =>
      if f.code.isSome || (s.cell c).closed then .next s
      else
        match s.refusalFor id with
        | some e => .next (s.failColl (s.vfOf c) c id f e)
        | none =>
          if (s.collPackets o f.clTag).any (f.disagrees co) then
            .next (s.failColl (s.vfOf c) c id f (Code.illegal.zeroExtend 8))
          else .next (s.collStep c id f co o)
    | _, _ => .next s

/-- The start of a collective: its group is read, and its rank is the one entry that names its place (R363). -/
def State.collStart (s : State) (c id : Nat) (f : FState) (mode : Nat) : State :=
  match s.readGroup c f with
  | .error e => s.setFlume c id (f.fail e)
  | .ok g =>
    let f : FState := { f with coll := some { mode := mode, group := g } }
    match s.ownPlace (s.vfOf c) c with
    | none => s.setFlume c id (f.fail Code.illegal)
    | some o =>
      let mine := (upto g.length).filter (fun i => match s.targetPlace (g.getD i 0) with | .ok p => p == o | .error _ => false)
      if g.any (fun t => match s.targetPlace t with | .ok _ => false | .error _ => true) || mine.length != 1 then
        s.failColl (s.vfOf c) c id f (Code.illegal.zeroExtend 8)
      else s.setFlume c id { f with coll := some { mode := mode, rank := mine.headD 0, group := g } }

/-- An ILLEGAL descriptor of a collective: the ranks that its group names, if it can be read, hear of it (R367). -/
def State.collIllegal (s : State) (c id : Nat) (f : FState) : State :=
  let g := if decide (1 ≤ f.clP) && decide (f.clP ≤ 65536) then (match s.readGroup c f with | .ok g => g | .error _ => []) else []
  s.failColl (s.vfOf c) c id { f with coll := some { group := g } } (Code.illegal.zeroExtend 8)

/-! ### Arrivals and notices (R358, R360, R366, R367) -/

/-- TORUS_PACKET_ARRIVAL (R360): a packet in transit goes on; one for this package is checked against the target VF's peer table. -/
def execTorusPacketArrival (p : Packet) (s : State) : Host.Outcome State Fault Refusal :=
  if s.pod.isNone then .next s
  else if !s.isOwn p.dst then
    match p.body with
    | .answer _ => .next (if s.linkUp p then s.emit p else s)
    | _ => .next (if s.linkUp p then s.emit p else s.answer p (some (Code.fabric.zeroExtend 8)))
  else
    match p.body with
    | .answer _ => .next { s with torus := s.torus ++ [p] }
    | .ring .. =>
      if s.answersNak p.dst then .next (s.answer p (some (Code.fabric.zeroExtend 8)))
      else if !s.hasPeer p.dst.vf.toNat (placeBits p.src) then .next (s.answer p (some (Code.window.zeroExtend 8)))
      else .next { s with rings := s.rings ++ [p] }
    | .coll .. =>
      if s.answersNak p.dst then .next (s.answer p (some 0x40))
      else if !s.hasPeer p.dst.vf.toNat (placeBits p.src) then .next (s.answer p (some (Code.window.zeroExtend 8)))
      else
        let r := s.acceptColl p
        .next (r.2.answer p r.1)

/-- A collective's group names a (vf, z, y, x). -/
def FState.names (f : FState) (b : BitVec 19) : Bool :=
  match f.coll with
  | some co => co.group.any (fun t => t.getLsbD 63 && t.extractLsb' 0 19 == b)
  | none => false

/-- GONE_NOTICE (R366): every rank here whose group names the peer ends with PEERGONE (R367). -/
def execGoneNotice (b : BitVec 19) (s : State) : Host.Outcome State Fault Refusal :=
  let s : State := { s with gones := s.gones.erase b }
  .next (s.endColls (fun _ _ f => f.names b))

/-- ABORT_NOTICE (R367): the rank at a place ends its collective with the tag. -/
def execAbortNotice (p : Place) (tag : BitVec 32) (s : State) : Host.Outcome State Fault Refusal :=
  if s.isOwn p then
    let s : State := { s with aborts := s.aborts.erase (p, tag) }
    .next (s.endColls (fun vf c f => vf == p.vf.toNat && c == p.cell.toNat && f.clTag == tag))
  else .next { s with out := s.out ++ [.abort p tag] }

/-- The targets whose answers a transfer awaits: that of a ring, or those to which a collective sends in its step. -/
def FState.awaited (f : FState) : List Dword :=
  match f.coll with
  | some co => (f.turn co.mode co.rank co.step).dst.map (fun q => co.group.getD q 0)
  | none => [BitVec.ofNat 64 (f.w 8 8)]

/-- LINKDOWN (R358): the link leaves service and VF0 learns of it (R380); a transfer that waits on it ends with FABRIC. -/
def execLinkdown (link : Nat) (s : State) : Host.Outcome State Fault Refusal :=
  if 12 ≤ link then .next s
  else
    let s := { s with linksDown := tput link true s.linksDown }.event 7 255 255 [BitVec.ofNat 8 link]
    let of (vf c : Nat) (x : Cell) : List (Nat × Nat × Nat × FState) := x.ops.filterMap (fun o => (o.flume?).bind (fun f =>
      if f.code.isNone ∧ f.acked < f.sent then
        (s.ownPlace vf c).bind (fun a =>
          if f.awaited.any (fun t => s.firstLink { src := a, dst := placeOfTarget t, id := o.id, body := .answer none } == some link) then
            some (vf, c, o.id, f)
          else none)
      else none))
    .next (((s.opsOfVfs of)).foldl (fun s e =>
      if e.2.2.2.kind = .coll then s.failColl e.1 e.2.1 e.2.2.1 e.2.2.2 (Code.fabric.zeroExtend 8)
      else s.setFlumeOf e.1 e.2.1 e.2.2.1 (e.2.2.2.fail Code.fabric)) s)

/-- The packages of the pod. -/
def State.packages (s : State) : List (BitVec 12) :=
  match s.pod with
  | none => []
  | some (_, _, _, nx, ny, nz) => (upto nz).flatMap (fun z => (upto ny).flatMap (fun y => (upto nx).map (fun x =>
      BitVec.ofNat 4 z ++ BitVec.ofNat 4 y ++ BitVec.ofNat 4 x)))

/-- PACKAGE_RESET_OR_LOSS (R366): gone notices for every VF of a neighbour go to this package and through the torus. -/
def execPackageResetOrLoss (place : BitVec 12) (s : State) : Host.Outcome State Fault Refusal :=
  match s.ownPlace 0 0 with
  | none => .next s
  | some o =>
    let vfs : List (BitVec 19) := (upto 128).map (fun v => BitVec.ofNat 7 v ++ place)
    let dst := s.packages.filter (fun b => b != place && b != packageBits o)
    .next { s with gones := s.gones ++ vfs, out := s.out ++ vfs.flatMap (fun v => dst.map (fun b => Out.gone b v)) }

end Sys2Proof.Machine
end

