-- ==== Sys2Proof/Machine/Flume.lean ====
section
/-! DEFINITION. The flume engines (R339 to R348): the words of a stream, the fetch of the next one, and the pieces of its operations. -/

namespace Sys2Proof.Machine

open Sys2Proof

/-! ### Issuing a word of a stream (R339, R340) -/

/-- What a word of a stream comes to: it stays, it stays after a first part, it raises a stream fault, or it has taken effect. -/
inductive FIssue where
  | hold
  | wait (s : State)
  | fault (code : Code)
  | done (s : State)

def State.flume (s : State) (c : Nat) : Flume := (s.cell c).flume

def State.modFlume (s : State) (c : Nat) (f : Flume → Flume) : State := s.modCell c (fun x => { x with flume := f x.flume })

/-- f0 to f15 of the stream that issues. -/
def State.freg (s : State) (r : BitVec 4) : Dword := tget 0 (s.flume s.cur.cell).regs r.toNat

def State.setFreg (s : State) (r : BitVec 4) (v : Dword) : State :=
  s.modFlume s.cur.cell (fun f => { f with regs := tset 0 f.regs r.toNat v })

/-- A register waits for the status of an operation (R340). -/
def State.fpending (s : State) (r : BitVec 4) : Bool :=
  (s.ops s.cur.cell).any (fun o => match o.flume? with | some f => o.sc == 4 && f.d == r | none => false)

/-- The data operations of the stream in flight. -/
def State.fops (s : State) (c : Nat) : Nat := ((s.streamOps c).filter (fun o => o.flume?.isSome)).length

/-- The outcome of a stream's word. -/
def FIssue.outcome (s : State) : FIssue → Host.Outcome State Fault Refusal
  | .hold => .next s
  | .wait t => .next t
  | .fault code => .next (s.streamFault s.cur.cell code s.cur.ent.addr)
  | .done t => .next (t.modFlume s.cur.cell (fun f => { f with word := none }))

/-- The issue of a word of a stream: its prefix, then the registers that it reads or writes, then its body. -/
def flumeWord (pfxOk : Bool) (regs : List (BitVec 4)) (s : State) (body : State → FIssue) : Host.Outcome State Fault Refusal :=
  if s.cur.ent.pfx.isSome && !pfxOk then (FIssue.fault Code.prefixFault).outcome s
  else if regs.any (fun r => s.fpending r) then .next s
  else (body s).outcome s

/-! ### Control words (R343 to R345) -/

/-- FLi. -/
def execFLi (d : BitVec 4) (i : BitVec 12) (s : State) : Host.Outcome State Fault Refusal :=
  flumeWord true [d] s (fun s => .done (s.setFreg d (immRI12 s.cur.ent i)))

/-- FAdd. -/
def execFAdd (d a b : BitVec 4) (s : State) : Host.Outcome State Fault Refusal :=
  flumeWord false [d, a, b] s (fun s => .done (s.setFreg d (s.freg a + s.freg b)))

/-- A loop's body holds an address. -/
def FLoop.covers (l : FLoop) (a : Dword) : Bool := l.start.ule a && a.ule l.last

/-- FJmp: loops whose body does not hold the target end. -/
def execFJmp (i : BitVec 18) (s : State) : Host.Outcome State Fault Refusal :=
  flumeWord true [] s (fun s =>
    let t := target s.cur.ent (immI18 s.cur.ent i)
    .done (s.modFlume s.cur.cell (fun f => { f with pc := t, loops := f.loops.filter (fun l => l.covers t) })))

/-- FLoop (R344). -/
def execFLoop (t : BitVec 4) (i : BitVec 6) (s : State) : Host.Outcome State Fault Refusal :=
  flumeWord true [t] s (fun s =>
    let off := immRI s.cur.ent i
    let last := target s.cur.ent off
    let f := s.flume s.cur.cell
    if decide (off.toInt < 1) || decide (4 ≤ f.loops.length) || (match f.loops with | l :: _ => l.last.ult last | [] => false) then .fault Code.illegal
    else
      let n := (s.freg t).toNat % 2 ^ 32
      .done (s.modFlume s.cur.cell (fun f =>
        if n = 0 then { f with pc := last + 4 }
        else { f with loops := { start := s.cur.ent.addr + 4, last := last, left := n - 1 } :: f.loops })))

/-- FEnd (R345): held until every operation of the stream has ended; the stream ends. -/
def execFEnd (s : State) : Host.Outcome State Fault Refusal :=
  flumeWord false [] s (fun s =>
    if (s.streamOps s.cur.cell).isEmpty then .wait ((s.endStream s.cur.cell).modFlume s.cur.cell (fun _ => {})) else .hold)

/-! ### Synchronisation words (R346 to R348) -/

/-- FWait: it joins the FIFO as the cell's flume entry. -/
def execFWait (d : BitVec 4) (v : BitVec 8) (s : State) : Host.Outcome State Fault Refusal :=
  flumeWord false [d] s (fun s =>
    let c := s.cur.cell
    match s.resolve (s.vfOf c) v with
    | none => .fault Code.semmap
    | some ps =>
      let n := (s.freg d).toNat % 2 ^ 32
      let (id, s) := s.startOp 0 (.semWait v n false) (fun o => o)
      .done { s with waits := s.waits ++ [{ ps := ps, due := s.semDue c ps,
                                            w := { cell := c, unit := 4, op := id, vf := s.vfOf c, v := v, n := n } }] })

/-- FSig: after every operation before it, a release at pkg that covers their writes, then the signal. -/
def execFSig (d : BitVec 4) (v : BitVec 8) (s : State) : Host.Outcome State Fault Refusal :=
  flumeWord false [d] s (fun s =>
    let c := s.cur.cell
    if !(s.streamOps c).isEmpty then .hold
    else
      match s.resolve (s.vfOf c) v with
      | none => .fault Code.semmap
      | some ps =>
        .done (s.signal { ps := ps, n := (s.freg d).toNat % 2 ^ 32, cover := s.cover (dieOf c) 3, cell := c, sc := 4, vf := s.vfOf c,
                          due := s.semDue c ps }))

/-- FBar (R347): after every operation before it, a release at the object's scope; then an arrival, or f_V bytes expected. -/
def execFBar (v h o : BitVec 4) (s : State) : Host.Outcome State Fault Refusal :=
  flumeWord false [v, h, o] s (fun s =>
    let c := s.cur.cell
    if !(s.streamOps c).isEmpty then .hold
    else
      match s.cellHandle c (s.freg h) with
      | none => .fault Code.handle
      | some e =>
        let cover := match (s.flume c).cover with | some l => l | none => s.cover (dieOf c) (objectScope c e)
        if s.performed cover && s.fillOk (s.objectLines c (s.freg h) ((s.freg o).toNat : Int)) then
          match s.barrierAt c (s.freg h) ((s.freg o).toNat : Int) (if s.freg v = 0 then 1 else 0) (s.freg v).toInt with
          | .error e => .fault e
          | .ok s => .done (s.modFlume c (fun f => { f with cover := none }))
        else .wait (s.modFlume c (fun f => { f with cover := some cover })))

/-- FFence (R348): after every operation before it; kind 0 acq, 1 rel, 2 ar. No later word issues before it retires. -/
def execFFence (k : BitVec 2) (sc : BitVec 3) (s : State) : Host.Outcome State Fault Refusal :=
  flumeWord false [] s (fun s =>
    let c := s.cur.cell
    if k = 3 ∨ 5 ≤ sc.toNat then .fault Code.illegal
    else if !(s.streamOps c).isEmpty then .hold
    else
      .done (s.startOp (if k = 0 then 1 else scopeTf sc.toNat) (.fence (if k = 0 then [] else s.cover (dieOf c) sc.toNat) none) (fun o => o)).2)

/-! ### Data words (R340, R349, R352 to R363) -/

/-- What an operation's descriptor makes of it at its start. -/
def State.beginFlume (s : State) (c id : Nat) (mode : Nat) (f : FState) : State :=
  let plain (e : Option Code) : State := s.setFlume c id (match e with | some e => f.fail e | none => f)
  let held (ends : List End) : FState := { f with held := ends.flatMap (s.endUse c) }
  let moves (e : Option Code) (ends : List End) : State := s.setFlume c id (match e with | some e => f.fail e | none => held ends)
  match f.kind with
  | .copy => moves f.checkCopy [f.endpoint 0 (f.w 24 1 % 4), f.endpoint 8 (f.w 24 1 / 4 % 4)]
  | .xlist => plain f.checkXlist
  | .gath | .scat => moves f.checkGs [f.endpoint 0 (f.w 48 1 % 4), f.endpoint 8 (f.w 48 1 / 4 % 4)]
  | .kvcp => plain f.checkKv
  | .svm =>
    (match f.checkSvm with
     | some e => plain (some e)
     | none =>
       match s.svmStack c f with
       | .error e => plain (some e)
       | .ok k =>
         let t := s.setFlume c id (held [{ space := 1, base := BitVec.ofNat 64 (f.w 24 4) }])
         { t with svmq := tset [] t.svmq k (tget [] t.svmq k ++ [(c, id)]) })
  | .ring =>
    (match f.checkRing with
     | some e => plain (some e)
     | none =>
       let f := s.ringStart c f
       s.setFlume c id { f with held := match f.land with | some n => [.landing (bhOf c) n] | none => [] })
  | .coll =>
    match f.checkColl with
    | some e => if e = Code.illegal then s.collIllegal c id f else plain (some e)
    | none => s.collStart c id f mode

/-- A VF has four requests at the stack that holds W, as its descriptor at a VA names it: F holds the fifth (R27, R383). -/
def State.svmFull (s : State) (c : Nat) (va : Dword) : Bool :=
  match codeOf (s.readVa (some c) (s.vfOf c) (dieOf c) va.toNat 64) with
  | .error _ => false
  | .ok l =>
    let f : FState := { kind := .svm, desc := l }
    match s.svmStack c f with
    | .ok k => f.checkSvm.isNone && decide (4 ≤ ((tget [] s.svmq k).filter (fun x => s.vfOf x.1 == s.vfOf c)).length)
    | .error _ => false

/-- A data word: its descriptor is read and copied at issue, and the operation starts. F holds the seventeenth. -/
def flumeData (kind : FKind) (mode : Nat) (d a : BitVec 4) (s : State) : Host.Outcome State Fault Refusal :=
  flumeWord false [d, a] s (fun s =>
    let c := s.cur.cell
    let va := s.freg a
    if 16 ≤ s.fops c || (kind == .svm && s.svmFull c va) then .hold
    else
      let f : FState := { kind := kind, d := d }
      let (id, s) := s.startOp 1 (.flume f) (fun o => o)
      if va.toNat % 64 ≠ 0 then .done (s.setFlume c id (f.fail Code.align))
      else
        match codeOf (s.readVa (some c) (s.vfOf c) (dieOf c) va.toNat 64) with
        | .error e => .done (s.setFlume c id (f.fail e))
        | .ok l => .done (s.beginFlume c id mode { f with desc := l }))

/-- FCopy (R352). -/
def execFCopy (d a : BitVec 4) (s : State) : Host.Outcome State Fault Refusal := flumeData .copy 0 d a s

/-- FXlist (R353). -/
def execFXlist (d a : BitVec 4) (s : State) : Host.Outcome State Fault Refusal := flumeData .xlist 0 d a s

/-- FGath (R354). -/
def execFGath (d a : BitVec 4) (s : State) : Host.Outcome State Fault Refusal := flumeData .gath 0 d a s

/-- FScat (R354). -/
def execFScat (d a : BitVec 4) (s : State) : Host.Outcome State Fault Refusal := flumeData .scat 0 d a s

/-- FKvcp (R355). -/
def execFKvcp (d a : BitVec 4) (s : State) : Host.Outcome State Fault Refusal := flumeData .kvcp 0 d a s

/-- FSvm (R356). -/
def execFSvm (d a : BitVec 4) (s : State) : Host.Outcome State Fault Refusal := flumeData .svm 0 d a s

/-- FRing (R362). -/
def execFRing (d a : BitVec 4) (s : State) : Host.Outcome State Fault Refusal := flumeData .ring 0 d a s

/-- FColl (R363): mode 0 .fast, 1 .det, 2 .exact; mode 3 is a decoding fault. -/
def execFColl (d a : BitVec 4) (m : BitVec 2) (s : State) : Host.Outcome State Fault Refusal :=
  if m = 3 then (FIssue.fault Code.illegal).outcome s else flumeData .coll m.toNat d a s

/-! ### The stream's fetch (R339, R342, R344) -/

/-- Where the fetch goes after an address, with the loops that end there, innermost first. -/
def loopBack (next : Dword) (a : Dword) : List FLoop → List FLoop × Dword
  | [] => ([], next)
  | l :: r =>
    if l.last = a then
      if l.left = 0 then loopBack next a r else ({ l with left := l.left - 1 } :: r, l.start)
    else (l :: r, next)

/-- A fetched word or prefix, or the marker of a failure. -/
def Flume.take (f : Flume) (w : Except Code Word) : Flume :=
  let a := f.pc
  match w with
  | .error e => { f with pfx := none, word := some { addr := a, marker := some e } }
  | .ok w =>
    let (loops, next) := loopBack (a + 4) a f.loops
    let f : Flume := { f with pc := next, loops := loops }
    if w.extractLsb' 29 3 = 7 then
      if f.pfx.isSome then { f with pfx := none, word := some { word := w, addr := a, marker := some Code.prefixFault } }
      else { f with pfx := some (w.extractLsb' 0 29) }
    else { f with pfx := none, word := some { word := w, pfx := f.pfx, addr := a } }

/-- FLUME_FETCH (R339): one word of the cell's stream. -/
def execFlumeFetch (c : Nat) (s : State) : Host.Outcome State Fault Refusal :=
  let f := s.flume c
  if (s.cell c).runs && f.launch.isSome && !f.stopped && f.word.isNone then
    .next ((s.cacheLeaf c (s.vfOf c) (dieOf c) f.pc.toNat).modFlume c (fun f => f.take (s.fetchWord c f.pc)))
  else .next s

/-- The word of a cell's stream that may issue: none while the cell does not run, or a wait or fence of the stream is outstanding. -/
def State.flumeReady (s : State) (c : Nat) : Option Entry :=
  let f := s.flume c
  if (s.cell c).runs && !f.stopped && !(s.streamOps c).any (fun o => match o.body with | .semWait .. | .fence .. => true | _ => false) then f.word
  else none

/-- The issue of a stream's word: a marker or a word that is no F word is a stream fault (R106, R107, R342). -/
def flumeAct (ex : Instr → State → Host.Outcome State Fault Refusal) (s : State) (c : Nat) : Host.Outcome State Fault Refusal :=
  match s.flumeReady c with
  | none => .next s
  | some e =>
    let s : State := { s with cur := { cell := c, sc := 4, eng := engF, ent := e } }
    match e.marker with
    | some code => .next (s.streamFault c code e.addr)
    | none =>
      match decodeWord e.word with
      | .error _ => .next (s.streamFault c (if e.word.extractLsb' 29 3 = 6 then Code.illegal else Code.flume) e.addr)
      | .ok i => if e.word.extractLsb' 29 3 = 6 then ex i s else .next (s.streamFault c Code.flume e.addr)

/-! ### Pieces (R350) -/

/-- FLUME_PIECE (R350): the next piece of a copy, list, gather, scatter or ring, or the accounting that it waits for; a cell closed for a
switch starts none (R411). -/
def execFlumePiece (c id : Nat) (s : State) : Host.Outcome State Fault Refusal :=
  match (s.findOp c id).bind Op.flume? with
  | none => .next s
  | some f =>
    if f.code.isSome || (s.cell c).closed then .next s
    else
      match f.due with
      | some (n, cover) => .next (s.accountPiece c id f n cover)
      | none =>
        match f.kind with
        | .copy => .next (s.takePiece c id f (copyPiece s c f))
        | .xlist => .next (s.takePiece c id f (xlistPiece s c f))
        | .gath | .scat => .next (s.takePiece c id f (gsPiece s c f))
        | .ring => .next (s.ringPiece c id f)
        | _ => .next s

end Sys2Proof.Machine
end

