-- ==== Sys2Proof/Machine/Resets.lean ====
section
/-! DEFINITION. Resets (R301, R384 to R386, R416, R417): the reset of a bulkhead with its NAKs and scrub, the reset of a virtual function, the
partition reset and the replay of launch queues. -/

namespace Sys2Proof.Machine

open Sys2Proof

/-! ### Shapes (R368, R370) -/

/-- The bulkheads of a shape, in ascending order. -/
def shapeBhs (sh : BitVec 16) : List Nat := ((shapeCells sh).filter (fun c => c % 2 == 0)).map bhOf

/-- A VF runs on its cells. -/
def State.isResident (s : State) (vf : Nat) : Bool := (shapeCells (s.vf vf).cfg.shape).any (fun c => (s.cell c).vf == some vf)

/-- The VF that runs on a bulkhead's cells, or 0xFF. -/
def State.bhVf (s : State) (b : Nat) : Nat := (s.cell (2 * b)).vf.getD 0xFF

/-- A VF is in reset: it is resident and a bulkhead of its shape is in reset. -/
def State.inReset (s : State) (vf : Nat) : Bool :=
  s.isResident vf && (shapeBhs (s.vf vf).cfg.shape).any (fun b => (s.bh b).resetEnd.isSome || (s.bh b).held)

/-! ### Groups and commands that wait for a switch (R371, R376, R429) -/

/-- The residency group of a shape. -/
def State.group (s : State) (sh : Nat) : Group := tget {} s.groups sh

def State.modGroup (s : State) (sh : Nat) (f : Group → Group) : State := { s with groups := tput sh (f (s.group sh)) s.groups }

/-- The end of the management command that runs: results at offsets of its slot, then the state word, then VF0's semaphore (R376). -/
def State.endCommand (s : State) (status : Nat) (results : List (Nat × List Byte)) : State :=
  match s.mgmt.run with
  | none => s
  | some n =>
    let s := results.foldl (fun s r => s.mgmtWrite (128 * n + r.1) r.2) s
    let s := s.mgmtWrite (128 * n) (leBytes (2 + 256 * status) 8)
    let sem := recField s.mgmt.slot 12 2
    let s : State := { s with mgmt := { nextPoll := s.mgmt.nextPoll } }
    if 255 < sem then s
    else
      match s.resolve 0 (BitVec.ofNat 8 sem) with
      | some ps => s.signal { ps := ps, n := 1, cover := s.cover 0 4, sc := 5, due := s.semDue 0 ps }
      | none => s

/-- A group's switch has ended, with its outcome: 1 when the incoming VF's restore has begun; a SCHED op 1 that waits for it ends (R429). -/
def State.endSwitch (s : State) (sh outcome : Nat) : State :=
  if s.mgmt.waitGroup = some sh then s.endCommand 0 [(32, leBytes outcome 8)] else s

/-- A switch of a VF's group, out of that VF, is called off by its reset. -/
def State.dropSwitch (s : State) (vf : Nat) : State :=
  let sh := (s.vf vf).cfg.shape.toNat
  match (s.group sh).switch with
  | some w => if w.out = vf then s.modGroup sh (fun g => { g with switch := none }) else s
  | none => s

/-- A SCHED op 1 whose switch a reset has called off ends after that reset (R378). -/
def State.endDropped (s : State) (sh : Nat) : State :=
  if (s.group sh).switch.isNone && (s.group sh).incoming.isNone then s.endSwitch sh 0 else s

/-! ### The NAKs (R301, R384, R385) -/

/-- The cell that serves a request. -/
def Req.target : Req → Option Nat
  | .moving w .. => some w
  | .peerRead p _ _ => some (hdCell p.target)
  | .peerWrite p _ _ => some (hdCell p.target)
  | .ratom p _ _ _ _ => some (hdCell p.target)
  | .bar p _ _ _ => some (hdCell p.target)
  | .peerDrain c _ _ _ => some c
  | _ => none

/-- An operation of another bulkhead waits for an answer from bulkhead b: a request on its way or a peer addition under way there. -/
def State.awaits (s : State) (b : Nat) (o : Op) : Bool :=
  (match o.req.bind Req.target with | some c => bhOf c == b | none => false) ||
    [2 * b, 2 * b + 1].any (fun c => (s.ops c).any (fun q => match q.body with | .peerAdd _ _ _ _ id => id == o.id | _ => false))

/-- Every agent outside bulkhead b that waits for it gets a NAK: requests, waiters of its semaphores and of its barrier objects. -/
def State.nakAll (s : State) (b : Nat) : State :=
  let outside (c : Nat) : Bool := bhOf c != b
  let s : State :=
    { s with cells := s.cells.map (fun (e : Nat × Cell) => if outside e.1 then
        (e.1, { e.2 with ops := e.2.ops.map (fun o => if s.awaits b o then { o with req := none, err := some (Code.fabric, o.ent.addr) } else o) })
      else e) }
  let bars : List (Nat × Op) := s.cells.flatMap (fun (e : Nat × Cell) => if outside e.1 then
      (e.2.ops.filter (fun o => match o.body with | .barWait c _ _ _ _ true _ _ => bhOf c == b | _ => false)).map (fun o => (e.1, o)) else [])
  let s := bars.foldl (fun s e => s.waitFault e.1 e.2 Code.fabric) s
  let ws : List Waiter := ((span (64 * b) 64).flatMap (fun ps => (s.sem ps).fifo)).filter (fun w => outside w.cell)
  ws.foldl (fun s w => match s.findOp w.cell w.op with | some o => s.waitFault w.cell o Code.fabric | none => s) s

/-! ### The scrub (R189, R384) -/

/-- A table of handles with every entry freed and its generation advanced. -/
def scrubEntries (gen : Nat → BitVec 8) (n : Nat) : List (Nat × BitVec 8) :=
  ((upto n).map (fun i => (i, gen i + 1))).filter (fun e => e.2 != 0)

/-- A cell after the scrub; it is closed until the reset ends. Its cell time goes on from where it stood. -/
def Cell.scrub (x : Cell) : Cell :=
  { vf := x.vf, time := x.time, closed := true,
    table := (scrubEntries (fun i => (x.entry i).gen) 512).map (fun e => (e.1, { gen := e.2 })) }

/-- A bulkhead's part of the scrub; window entries stay. -/
def Bh.scrub (x : Bh) (ends : Nat) : Bh :=
  { x with gateClosed := true, resetEnd := some ends,
           landings := (scrubEntries (fun i => (tget ({} : Landing) x.landings i).gen) 32).map (fun e => (e.1, { gen := e.2 })) }

/-- Signals bound for a bulkhead are dropped and counted for their VF (R301). -/
def State.dropSignals (s : State) (b : Nat) : State :=
  let gone := s.sigs.filter (fun x => x.ps / 64 == b)
  gone.foldl (fun s x => s.modVf x.vf (fun v => { v with counters := { v.counters with signals := v.counters.signals + 1 } }))
    { s with sigs := s.sigs.filter (fun x => x.ps / 64 != b) }

/-- Packets of collectives that have been accepted for places that satisfy a condition go (R384, R386). -/
def State.dropPackets (s : State) (gone : Place → Bool) : State :=
  { s with torus := s.torus.filter (fun p => match p.body with | .coll .. => !gone p.dst | _ => true) }

/-- What is on its way from a bulkhead's cells, or in the hands of its strands elsewhere, goes, and what its cells have received with it. -/
def State.dropTraffic (s : State) (b : Nat) : State :=
  let mine (c : Nat) : Bool := bhOf c == b
  let s := s.dropPackets (fun p => bhOf p.cell.toNat == b && (s.cell p.cell.toNat).vf == some p.vf.toNat)
  { s with msgs := s.msgs.filter (fun m => !mine m.cell), waits := s.waits.filter (fun w => !mine w.w.cell),
           sems := s.sems.map (fun e => (e.1, { e.2 with fifo := e.2.fifo.filter (fun w => !mine w.cell) })),
           svmq := s.svmq.map (fun e => (e.1, e.2.filter (fun x => !mine x.1))) }

/-- Steps 1 to 4 of a bulkhead reset (R384); the semaphores that satisfy a condition are set to 0 and stay mapped. The reset ends within
60 µs. -/
def State.resetBh (s : State) (b : Nat) (zeroed : Nat → Bool) : State :=
  let s := ((s.nakAll b).dropSignals b).dropTraffic b
  let s := [2 * b, 2 * b + 1].foldl (fun s c => s.modCell c Cell.scrub) s
  let s := s.modBh b (fun x => x.scrub (s.wall + 60000))
  { s with sems := s.sems.map (fun e => if e.1 / 64 = b ∧ zeroed e.1 then (e.1, { e.2 with val := 0, fifo := [] }) else e) }

/-! ### The work of a virtual function -/

/-- Launches, tasks, posts and cancellations of a VF are gone; its launch queues are to replay (R282, R416). -/
def State.dropWork (s : State) (vf : Nat) : State :=
  let s : State :=
    { s with launches := s.launches.filter (fun e => e.2.vf != vf), posts := s.posts.filter (fun p => p.vf != vf),
             tdecs := s.tdecs.filter (fun p => p.vf != vf), cancels := s.cancels.filter (fun k => k.vf != vf),
             itemCancels := s.itemCancels.filter (fun k => k.vf != vf) }
  s.modVf vf (fun v => { v with
    returning := v.returning ++ v.overFrames ++ v.listFrames.flatMap (fun e => e.2),
    tasks := [], slotFree := [], cancelledTasks := [], overflow := [], overFrames := [], listFrames := [], presetDue := false,
    lqs := v.lqs.map (fun q => { q with waiting := [], busy := false, replay := true }) })

/-- Gone notices to every package in a VF's peer table (R366). -/
def State.sendGone (s : State) (vf : Nat) : State :=
  match s.ownPlace vf 0 with
  | none => s
  | some o =>
    (((s.vf vf).peers.filter (fun e => e.2.getLsbD 31)).map (fun e => (e.2.extractLsb' 0 12 : BitVec 12))).eraseDups.foldl (fun s b =>
      if b = packageBits o then { s with gones := s.gones ++ [placeBits o] } else { s with out := s.out ++ [Out.gone b (placeBits o)] }) s

/-- A request to memory, a page walker, the page allocator or the KV unit (R418): it goes through no handle. -/
def Op.toMemory (o : Op) : Bool :=
  match o.body with
  | .timedS .. | .timedV .. | .timedT .. | .store | .stk _ | .kfork .. => o.uses.isEmpty
  | _ => false

/-- The responses to the requests that a VF's cells still wait for come too late for it: they are dropped and counted (R380, R418). -/
def State.countStale (s : State) (vf : Nat) : State :=
  let n := ((s.cells.filter (fun e => e.2.vf == some vf)).map (fun e => (e.2.ops.filter Op.toMemory).length)).foldl (· + ·) 0
  s.modVf vf (fun v => { v with counters := { v.counters with stale := v.counters.stale + n } })

/-- The bulkheads of a VF's shape are reset when it is resident; its saved context, with the packets that it has received, is discarded
(R386, R411). -/
def State.resetShape (s : State) (vf : Nat) (zeroed : Nat → Bool) : State :=
  let s := s.countStale vf
  let s := if s.isResident vf then (shapeBhs (s.vf vf).cfg.shape).foldl (fun s b => s.resetBh b zeroed) (s.dropSwitch vf) else s
  (s.dropPackets (fun p => p.vf.toNat == vf)).modVf vf (fun v => { v with saved := none, valid := {}, gen := v.gen + 1 })

/-! ### Partition reset and replay (R416, R417) -/

/-- A partition reset: device memory, the allocator, the semaphore map, windows, key and peer table stay. -/
def State.partitionReset (s : State) (vf : Nat) : State :=
  ((s.resetShape vf (fun ps => (s.vf vf).mapsSem ps)).dropWork vf).sendGone vf

/-- PARTITION_RESET (R416): a partition reset of a VF that is due. -/
def execPartitionReset (vf : Nat) (s : State) : Host.Outcome State Fault Refusal :=
  if (s.vf vf).presetDue then .next (s.partitionReset vf) else .next s

/-- The count from which a queue replays: that of its checkpoint record, or 0 (R417). -/
def State.replayCount (s : State) (vf q : Nat) : Nat :=
  let a := (s.vf vf).saveBase + 0xFFF000 + 32 * q
  if leRead (s.mem.view 0) (a + 16) 1 % 2 = 1 then leRead (s.mem.view 0) a 8 else 0

/-- A queue's head word is set back and its records are consumed from there. -/
def State.replayQueue (s : State) (vf q : Nat) : State :=
  let k := s.replayCount vf q
  match s.writeVa none vf 0 (s.lq vf q).head.toNat (leBytes k 8) with
  | .error (e, _) => (s.modLq vf q (fun x => { x with replay := false })).stopQueue vf q 9 [e.zeroExtend 8]
  | .ok (_, s) => s.modLq vf q (fun x => { x with count := k, replay := false })

/-- The queues of a VF that has become resident again replay; those that VF0 holds wait for SCHED (R416). -/
def State.replayQueues (s : State) (vf : Nat) : State :=
  (upto (s.vf vf).lqs.length).foldl (fun s q => if (s.lq vf q).replay && !(s.lq vf q).held then s.replayQueue vf q else s) s

/-! ### VF reset (R301, R386) -/

/-- The frames of a VF's slices, as runs in ascending order, without the first k of them. -/
def VfCfg.frameRuns (c : VfCfg) (k : Nat) : List (Nat × Nat) :=
  (((upto 128).filter c.hasSlice).zip (upto 128)).filterMap (fun (e : Nat × Nat) =>
    let skip := min sliceFrames (k - e.2 * sliceFrames)
    if skip = sliceFrames then none else some (e.1 * sliceFrames + skip, sliceFrames - skip))

/-- A list of runs of frames without a run (R318). -/
def cutRuns (l : List (Nat × Nat)) (r : Nat × Nat) : List (Nat × Nat) :=
  l.flatMap (fun e =>
    let lo := max e.1 r.1
    let hi := min (e.1 + e.2) (r.1 + r.2)
    if hi ≤ lo then [e] else [(e.1, lo - e.1), (hi, e.1 + e.2 - hi)].filter (fun x => x.2 != 0))

/-- Frames zeroed. -/
def State.zeroRuns (s : State) (l : List (Nat × Nat)) : State := l.foldl (fun s e => s.zeroMem (e.1 * frameBytes) (e.2 * frameBytes)) s

/-- The semaphores that a VF maps are free, with value 0, what is on its way to them is gone, and its map is invalid (R301). -/
def State.freeSems (s : State) (vf : Nat) : State :=
  let v := s.vf vf
  let s : State := { s with sems := s.sems.filter (fun e => !v.mapsSem e.1), sigs := s.sigs.filter (fun x => !v.mapsSem x.ps),
                            waits := s.waits.filter (fun x => !v.mapsSem x.ps) }
  s.modVf vf (fun v => { v with semMap := [] })

/-- Window entries that name a VF are cleared, with one event when there were any (R386). -/
def State.revokeWindows (s : State) (vf : Nat) : State :=
  let hit (w : Dword) : Bool := wnValid w && wnVf w == vf
  let n := (s.bhs.map (fun e => (e.2.windows.filter (fun w => hit w.2)).length)).foldl (· + ·) 0
  if n = 0 then s
  else
    let s : State := { s with bhs := s.bhs.map (fun e => (e.1, { e.2 with windows := e.2.windows.filter (fun w => !hit w.2) })) }
    s.event 8 vf 0xFF (leBytes n 2)

/-- A VF reset: its bulkheads or its saved context, its map, queues, frames and windows. The frames that it held join the tail of the free list,
in ascending order (R318, R319). -/
def State.vfReset (s : State) (vf : Nat) : State :=
  let c := (s.vf vf).cfg
  let s := (s.resetShape vf (fun _ => true)).freeSems vf
  let s := (s.dropWork vf).zeroRuns (c.frameRuns c.resv)
  let s := s.modVf vf (fun v => { v with
    free := v.free ++ v.free.foldl cutRuns (c.frameRuns c.resv), held := 0, returning := [], kvUnits := [], tier := [], keyLoaded := false,
    lqs := v.lqs.map (fun q => { q with held := true }) })
  (s.revokeWindows vf).sendGone vf

/-! ### The end of a reset (R384) -/

/-- A cell of a bulkhead whose reset has ended runs its VF again. -/
def State.reopen (s : State) (b : Nat) : State :=
  [2 * b, 2 * b + 1].foldl (fun s c => s.modCell c (fun x => { x with closed := false })) s

/-- BULKHEAD_RESET_COMPLETE (R384): the gate opens and RESETDONE is written; once the whole shape is back its VF's queues replay. -/
def execBulkheadResetComplete (b : Nat) (s : State) : Host.Outcome State Fault Refusal :=
  let x := s.bh b
  if x.resetEnd.isNone || x.held then .next s
  else
    let s := (s.modBh b (fun x => { x with gateClosed := false, resetEnd := none, lastDone := some s.wall })).reopen b
    let s := s.event 6 (s.bhVf b) b []
    match (s.cell (2 * b)).vf with
    | none => .next s
    | some vf => .next (if s.inReset vf then s else (s.replayQueues vf).endDropped (s.vf vf).cfg.shape.toNat)

end Sys2Proof.Machine
end

