-- ==== Sys2Proof/Machine/Switch.lean ====
section
/-! DEFINITION. Switching the resident VF of a group (R127, R130, R407 to R415, R428): the tick, the clean and the forced stop of strands, the
close of a cell, the save of a die, the deadline, and the restore. -/

namespace Sys2Proof

/-- The bytes of a core image, whose layout is private to the device (R412): by what it holds of the cell and of its bulkhead's landing table. -/
opaque Config.coreByte : Machine.Cell → Table Machine.Landing → Nat → Byte

/-- What the bytes of a core image that others have overwritten decode to (R413). -/
opaque Config.coreDecode : List Byte → Option (Machine.Cell × Table Machine.Landing)

end Sys2Proof

namespace Sys2Proof.Machine

open Sys2Proof

/-! ### The request (R407, R408) -/

/-- The VF after the resident one in the rotation. -/
def Group.following (g : Group) : Nat :=
  let i := (g.rotation.findIdx? (fun v => v == g.resident)).getD 0
  g.rotation.getD ((i + 1) % g.rotation.length) g.resident

/-- The cells of a group. -/
def groupCells (sh : Nat) : List Nat := shapeCells (BitVec.ofNat 16 sh)

/-- A bulkhead of the group is in reset, or a restore waits for one. -/
def State.groupBusy (s : State) (sh : Nat) : Bool :=
  (s.group sh).incoming.isSome || (shapeBhs (BitVec.ofNat 16 sh)).any (fun b => (s.bh b).resetEnd.isSome || (s.bh b).held)

/-- A switch to the next VF of the rotation begins: requests to every strand, and sr.dl in every cell (R408). -/
def State.startSwitch (s : State) (sh : Nat) : State :=
  let g := s.group sh
  let dl := s.wall + 1000 * g.dl
  let s := (groupCells sh).foldl (fun s c => s.modCell c (fun x => { x with
    dl := BitVec.ofNat 48 dl, strands := x.strands.map (fun e => if e.2.st = .idle then e else (e.1, { e.2 with swReq := true })) })) s
  s.modGroup sh (fun g => { g with switch := some { out := g.resident, inn := g.following, start := s.wall, deadline := dl } })

/-- A switch of a group may begin now. -/
def State.maySwitch (s : State) (sh : Nat) : Bool :=
  let g := s.group sh
  decide (2 ≤ g.rotation.length) && g.switch.isNone && !s.groupBusy sh

/-- SWITCH_TICK (R408): a schedule that SCHED has set takes effect, and the switch begins. -/
def execSwitchTick (sh : Nat) (s : State) : Host.Outcome State Fault Refusal :=
  let g := s.group sh
  if g.rotation.isEmpty || decide (s.wall < g.nextTick) then .next s
  else
    let s := s.modGroup sh (fun g => match g.next with
      | some (r, t, d) => { g with rotation := r, tick := t, dl := d, next := none }
      | none => g)
    let s := s.modGroup sh (fun g => { g with nextTick := s.wall + 1000 * g.tick })
    .next (if s.maySwitch sh then s.startSwitch sh else s)

/-! ### Stopping (R127, R130, R131, R409) -/

/-- A strand has nothing fetched and not completed. -/
def State.drained (s : State) (c sc : Nat) : Bool :=
  (upto 6).all (fun e => ((s.strand c sc).engq e).isEmpty) && (s.strand c sc).replay.isEmpty && quiet (s.cell c) sc

/-- STRAND_SWITCH_STOP (R130): a strand with a request stops cleanly: dormant, asleep with nothing else to do, or drained after its
pre-emption point. -/
def execStrandSwitchStop (c sc : Nat) (s : State) : Host.Outcome State Fault Refusal :=
  let st := s.strand c sc
  if st.swReq && !st.swStop && st.trap.isNone &&
      (st.st == .dormant || (st.st == .running && st.sleepEnd.isSome && s.drained c sc) ||
       (st.st == .running && st.swHalt && s.drained c sc)) then
    .next (s.modStrand c sc (fun st => { st with swStop := true }))
  else .next s

/-- An operation that a save keeps in the cell's image: operations of the mats and the row stage, of the flume, and handles that wait to be
freed (R410, R411). -/
def Op.kept (o : Op) : Bool :=
  match o.body with
  | .chunk _ | .mlines .. | .drainQ .. | .scale .. | .chainStep | .che .. | .hfree _ => true
  | .flume f => f.kind != .svm || f.code.isSome
  | _ => false

/-! ### The size of a save, and the choice of a cell (R410, R428, R433) -/

/-- The image of a cell: what is private to the device in the save area (R412). A collective sends its step's packets again (R411); blocks
that are not in use are at their reset values (R428). -/
def Cell.image (x : Cell) : Cell :=
  { x with
    vf := none, scratch := [], fill := [], dirty := [], closed := false, dl := 0, choice := none, ahead := 0,
    strands := x.strands.filter (fun e => e.2.st != .idle), tiles := x.tiles.filter (fun e => e.2.st != .empty),
    table := x.table.filter (fun e => e.2.used), accs := x.accs.filter (fun e => x.strandMode (e.1 / 8)),
    dks := x.dks.filter (fun e => x.strandMode (e.1 / 8)),
    ops := x.ops.map (fun o => match o.body with | .flume f => { o with body := .flume { f with sub := if f.kind = .coll then 0 else f.sub } } | _ => o) }

/-- What a core image holds of a landing's entry: an entry that is not allotted has its reset value; the poison of the landing's lines goes
with them (R428). -/
def Landing.image (x : Landing) : Landing := if x.used then { x with bytes := [], fill := [] } else { poison := x.poison }

/-- The landing table that the core image of a cell holds: its bulkhead's, in an even cell. -/
def State.landImage (s : State) (c : Nat) : Table Landing :=
  if c % 2 = 0 then (s.bh (bhOf c)).landings.map (fun e => (e.1, { e.2.image with dirty := false })) else []

/-- How many entries of a table satisfy a condition. -/
def tcount {α : Type} (p : α → Bool) (t : Table α) : Nat := (t.filter (fun e => p e.2)).length

/-- The places of a table of marks. -/
def marked (t : Table Bool) : List Nat := (t.filter (fun e => e.2)).map (fun e => e.1)

/-- The mats of a cell whose images a save copies: those of a side in STRAND mode, and those that hold a task under save (R428). -/
def Cell.savedMats (x : Cell) : Nat := 4 * ((upto 2).filter (fun d => x.strandMode d || (tfind d x.sideTask).isSome)).length

/-- The bytes of the core-image blocks in use of a cell of a VF (R433): staging is saved by the scan alone. -/
def State.coreSize (s : State) (vf c : Nat) : Nat :=
  let x := s.cell c
  let flumes := x.ops.filterMap Op.flume?
  let colls := (flumes.filter (fun f => f.kind == .coll)).length
  let packets := (s.torus.filter (fun p => p.dst.vf.toNat == vf && p.dst.cell.toNat == c)).length
  let slots := ((s.vf vf).tasks.filter (fun t => t.2.bh == bhOf c && t.2.slot.isSome)).length
  256 + 12288 * tcount (fun st => st.st != .idle) x.strands + x.savedMats * (if x.choice = some .drain then 32800 else 36896) +
    8320 * tcount (fun t => t.st != .empty) x.tiles + (if x.chain.isSome then 34368 else 0) + 64 * tcount (fun e => e.used) x.table +
    (if x.msgs.isEmpty then 0 else 64 + 80 * x.msgs.length) + (if x.flume.launch.isSome then 1024 else 0) + 128 * flumes.length + 256 * colls +
    (if colls = 0 then 0 else 2048 * packets) +
    (if c % 2 = 0 then 64 * tcount (fun l => l.used) (s.bh (bhOf c)).landings + (if slots = 0 then 0 else 4096 + 128 * slots) else 0)

/-- The bytes of the dirty lines of a cell, with those of its bulkhead's landings in an even cell. -/
def State.dirtySize (s : State) (c : Nat) : Nat :=
  2048 * (marked (s.cell c).dirty).length + (if c % 2 = 0 then 65536 * tcount (fun l => l.dirty) (s.bh (bhOf c)).landings else 0)

/-- The cells of a VF's shape on a die. -/
def State.dieCells (s : State) (vf die : Nat) : List Nat := (shapeCells (s.vf vf).cfg.shape).filter (fun c => dieOf c == die)

/-- The least time of a die's copies, at 400 GB/s, in ns (R413, R433). -/
def State.copyNs (s : State) (vf die : Nat) : Nat :=
  ceilDiv (((s.dieCells vf die).map (fun c => s.coreSize vf c + s.dirtySize c)).foldl (· + ·) 0) 400

/-- The 512 cc of the scan that shifts the mats out (R410), in ns. -/
def scanNs : Nat := 342

/-- The tasks that run on a cell. -/
def State.tasksOn (s : State) (vf c : Nat) : List (Nat × Task) :=
  (s.vf vf).tasks.filter (fun t => match t.2.run with | some r => r.cell == c | none => false)

/-- A cell's estimate of the cycles in which its mats and running tasks end; none when rows wait for a strand to pop a result queue. -/
def State.drainCc (s : State) (vf c : Nat) : Option Nat :=
  let x := s.cell c
  if x.ops.any (fun o => match o.body with | .drainQ .. | .che (some _) .. => true | _ => false) then none
  else
    let task (t : Task) : Nat := match t.run with
      | some r => 1024 * (1 + (if t.kind = 0 then t.blocks - r.next else if t.kind = 1 then t.steps - r.next else 0))
      | none => 0
    some (((x.ops.map (fun o => o.due - x.time)) ++ (s.tasksOn vf c).map (fun t => task t.2)).foldl max 0)

/-- A running task that may be discarded (R410): its final drain has not issued, and no landing of its sources has been counted (R247). -/
def Task.leavable (t : Task) : Bool :=
  !t.dead && (match t.run with | some r => r.checked.isNone | none => false) && (t.lands.isEmpty || t.stepsDone == 0)

/-- A task's group state is dropped: it restarts from its copied record, with dk.rcnt kept (R282, R410). -/
def State.discard (s : State) (vf n : Nat) (t : Task) : State :=
  match t.run with
  | some r => (s.freeSides r).modTask vf n (fun t => { t with run := none, flags := 0 })
  | none => s

/-- The choice of a cell at its close, by its own estimate of what each needs against sr.dl (R410): drain where that meets sr.dl; else save, but
without the tasks that may be left out where leaving them out lets the save meet sr.dl. -/
def State.choose (s : State) (c : Nat) : State :=
  match (s.cell c).vf with
  | none => s
  | some vf =>
    let chosen (k : SwitchChoice) (s : State) : State := s.modCell c (fun x => { x with choice := some k })
    let fits (s : State) (lead : Nat) : Bool := decide (s.wall + lead + s.copyNs vf (dieOf c) ≤ (s.cell c).dl.toNat)
    let drains := match s.drainCc vf c with | some n => fits (chosen .drain s) (ceilDiv (2 * n) 3) | none => false
    if drains then chosen .drain s
    else
      let left := ((s.tasksOn vf c).filter (fun t => t.2.leavable)).foldl (fun s t => s.discard vf t.1 t.2) (chosen .discard s)
      if !fits (chosen .save s) scanNs && fits left scanNs then left else chosen .save s

/-- Operations that must complete are due at once (R50, R411). -/
def State.hasten (s : State) (c : Nat) : State :=
  s.modCell c (fun x => { x with ops := x.ops.map (fun o => if o.kept then o else { o with due := min o.due x.time }) })

/-- Every result in flight of a cell's strands is written: it may come early (R50, R406). -/
def State.commitAll (s : State) (c : Nat) : State :=
  (upto 4).foldl (fun s sc =>
    let p := (s.strand c sc).pend
    if p.isEmpty then s
    else (p.foldl (fun s q => s.commitOut q.due q) s).modStrand c sc (fun st => st.commitWhere (fun _ => true))) s

/-- The local operations of L end: all their accesses, then their results. -/
def State.finishEarly (s : State) (c : Nat) : State :=
  let n := ((s.ops c).map (fun o => o.body.left.length)).foldl (· + ·) 1
  let s := (upto n).foldl (fun s _ => s.portL c []) (s.hasten c)
  (s.hasten c).finishLocal c

/-- The stream's wait without a grant is withdrawn: its word is the next one again (R299, R346). -/
def State.withdrawStream (s : State) (c : Nat) : State :=
  match (s.streamOps c).find? Op.isWait with
  | some o => ((s.forgetWait c o.id).dropOp c o.id).modFlume c (fun f => { f with word := some o.ent })
  | none => s

/-- A strand that has not stopped cleanly is stopped by force, with PREEMPT recorded (R396, R409). -/
def Strand.forced (st : Strand) : Strand := if st.st == .running && !st.swStop then { st with stopCode := some Code.preempt } else st

/-- The close of a cell (R409): its clock stops, the strands that have not stopped are stopped by force, waits are withdrawn, operations of
its strands complete early, and it chooses for its mats and tasks (R410). -/
def State.closeCell (s : State) (c : Nat) : State :=
  let s : State := { s with sigs := s.sigs.map (fun x => if x.cell = c then { x with due := 0 } else x) }
  let s := s.modCell c (fun x => { x with closed := true, strands := x.strands.map (fun e => (e.1, e.2.forced)) })
  let s := ((upto 4).foldl (fun s sc => s.withdraw c sc) s).withdrawStream c
  (((s.commitAll c).finishEarly c).commitAll c).choose c

/-- CELL_CLOSE (R409): within a switch a cell closes when its strands have stopped, or at its own estimate of the latest time. -/
def execCellClose (c : Nat) (s : State) : Host.Outcome State Fault Refusal :=
  if (s.cell c).dl = 0 ∨ (s.cell c).closed ∨ (s.cell c).vf = none then .next s else .next (s.closeCell c)

/-! ### Saving (R410 to R413) -/

/-- A cell that drains has drained: no task runs there, and its mats have had the time that their operations take (R410). Those keep their
place in cell time, since nothing that is read after the restore depends on the choice. -/
def State.drainEnded (s : State) (c : Nat) : Bool :=
  let x := s.cell c
  x.sideTask.isEmpty && x.ops.all (fun o => decide (o.due ≤ x.time + x.ahead))

/-- A closed cell's image may be taken: what must complete has completed. -/
def State.settled (s : State) (c : Nat) : Bool :=
  let x := s.cell c
  x.closed && x.frozenOn.isEmpty && x.ops.all Op.kept && (x.choice != some .drain || s.drainEnded c) &&
    (upto 4).all (fun sc => let st := x.strand sc; st.pend.isEmpty && st.trap.isNone && !st.halted)

/-- Where the save area keeps the stripes of a cell, and the landings of a bulkhead (R412). -/
def State.saveAt (s : State) (vf b : Nat) : Nat :=
  let v := s.vf vf
  v.saveBase + 0x1000000 * ((shapeBhs v.cfg.shape).findIdx? (fun x => x == b)).getD 0

def State.stripeAt (s : State) (vf c n : Nat) : Nat := s.saveAt vf (bhOf c) + (if c % 2 = 0 then 0 else 0x600000) + 2048 * n
def State.landingAt (s : State) (vf b n : Nat) : Nat := s.saveAt vf b + 0xC00000 + 65536 * n

/-- Where the save area keeps the core image of a cell (R412). -/
def State.coreAt (s : State) (vf c : Nat) : Nat := s.saveAt vf (bhOf c) + (if c % 2 = 0 then 0xE00000 else 0xF00000)

/-- The bytes of a core image. -/
def CoreImage.bytes (k : CoreImage) : List Byte := (upto k.size).map (Config.coreByte k.cell k.lands)

/-- The core image of a cell now. -/
def State.coreImage (s : State) (vf c : Nat) : CoreImage :=
  { cell := (s.cell c).image, lands := s.landImage c, size := min (s.coreSize vf c) 0xFF000 }

/-- The core image of a cell is copied, and its blocks are valid. -/
def State.saveCore (s : State) (vf c : Nat) : State :=
  (s.kvPlace (placed (s.coreAt vf c) (s.coreImage vf c).bytes)).modVf vf
    (fun v => { v with valid := { v.valid with cores := tput c (s.coreImage vf c) v.valid.cores } })

/-- The dirty stripes of a cell are copied. -/
def State.saveStripes (s : State) (vf c : Nat) : State :=
  let x := s.cell c
  let ns := marked x.dirty
  let s := ns.foldl (fun s n => s.kvPlace (placed (s.stripeAt vf c n) (bytesAt x.scratch (2048 * n) 2048))) s
  (s.modCell c (fun x => { x with dirty := [] })).modVf vf (fun v => { v with valid := { v.valid with
    stripes := tput c (ns.foldl (fun t n => tput n true t) (tget [] v.valid.stripes c)) v.valid.stripes } })

/-- The dirty landings of a bulkhead are copied. -/
def State.saveLandings (s : State) (vf b : Nat) : State :=
  let x := s.bh b
  let ns := (x.landings.filter (fun e => e.2.dirty)).map (fun e => e.1)
  let s := ns.foldl (fun s n => s.kvPlace (placed (s.landingAt vf b n) (bytesAt (s.landing b n).bytes 0 65536))) s
  (s.modBh b (fun x => { x with landings := x.landings.map (fun e => (e.1, { e.2 with dirty := false })) })).modVf vf
    (fun v => { v with valid := { v.valid with lvalid := tput b (ns.foldl (fun t n => tput n true t) (tget [] v.valid.lvalid b)) v.valid.lvalid } })

/-- The dies of a group. -/
def groupDies (sh : Nat) : List Nat := ((groupCells sh).map dieOf).eraseDups

/-- Nothing of a cell is left to copy: no line is dirty, and its core image is in the save area as it is now. -/
def State.copied (s : State) (vf c : Nat) : Bool :=
  (marked (s.cell c).dirty).isEmpty && (c % 2 != 0 || tcount (fun l => l.dirty) (s.bh (bhOf c)).landings == 0) &&
    (match tfind c (s.vf vf).valid.cores with | some k => k.cell == (s.cell c).image && k.lands == s.landImage c | none => false)

/-- Everything of some cells that is to be saved is copied (R413). -/
def State.copyCells (s : State) (vf : Nat) (cs : List Nat) : State :=
  let s := cs.foldl (fun s c => s.saveStripes vf c) s
  let s := (cs.filter (fun c => c % 2 == 0)).foldl (fun s c => s.saveLandings vf (bhOf c)) s
  cs.foldl (fun s c => s.saveCore vf c) s

/-- A die's yarder copies for another group. -/
def State.yarderBusy (s : State) (sh die : Nat) : Bool :=
  s.groups.any (fun g => g.1 != sh && (match g.2.switch with | some w => (tfind die w.begun).isSome && !w.saved.contains die | none => false))

/-- The copies of a die, the time that they take (R433) and the scan of the mats that are saved before them. -/
def State.beginCopies (s : State) (sh die : Nat) (w : Switch) (cs : List Nat) : State :=
  let scan := if cs.any (fun c => (s.cell c).choice != some .drain && (s.cell c).savedMats != 0) then scanNs else 0
  let ends := max s.wall (tget 0 w.begun die) + scan + s.copyNs w.out die
  let w : Switch := { w with begun := tput die ends w.begun, saved := w.saved.filter (fun d => d != die) }
  (s.copyCells w.out cs).modGroup sh (fun g => { g with switch := some w })

/-- YARDER_SAVE (R413, R433): a die's save begins once its cells have closed, when the yarder copies for no other VF, and is complete when the time of
its copies has passed; what has been written since is copied again. A save after sr.dl does not count. -/
def execYarderSave (sh die : Nat) (s : State) : Host.Outcome State Fault Refusal :=
  match (s.group sh).switch with
  | none => .next s
  | some w =>
    let cs := (groupCells sh).filter (fun c => dieOf c == die)
    if cs.isEmpty || decide (w.deadline < s.wall) || !cs.all s.settled then .next s
    else if (tfind die w.begun).isNone || !cs.all (s.copied w.out) then
      .next (if s.yarderBusy sh die then s else s.beginCopies sh die w cs)
    else if w.saved.contains die || decide (s.wall < tget 0 w.begun die) then .next s
    else .next (s.modGroup sh (fun g => { g with switch := some { w with saved := w.saved ++ [die] } }))

/-- Every die of a group has completed its save, and nothing has been written since. -/
def State.saveComplete (s : State) (sh : Nat) (w : Switch) : Bool :=
  (groupDies sh).all (fun d => w.saved.contains d) && (groupCells sh).all (s.copied w.out)

/-! ### Resuming (R404, R414, R415) -/

/-- A strand goes on: after its pre-emption point, with the iterations left by a cut loop, or, stopped by force, from its replay slots and its
queues (R404, R414). Late faults that are held for a handler stay held. -/
def Strand.resumed (st : Strand) : Strand :=
  let st := if st.handler then st else { st with replay := st.lates ++ st.replay, lates := [] }
  ({ st with swReq := false, swCut := none, swHalt := false, swStop := false, stopCode := none, qdead := 0 } : Strand).resumeMark

/-- A cell resumes. -/
def Cell.resumed (x : Cell) : Cell :=
  { x with closed := false, resuming := true, dl := 0, choice := none, ahead := 0, strands := x.strands.map (fun e => (e.1, e.2.resumed)) }

/-- The count of consecutive misses of a VF (R415). -/
def State.missAt (s : State) (vf : Nat) : Nat := (s.vf vf).saveBase + 0xFFF000 + 256
def State.misses (s : State) (vf : Nat) : Nat := (tget 0 (s.mem.view 0) (s.missAt vf)).toNat
def State.setMisses (s : State) (vf n : Nat) : State := s.kvPlace [(s.missAt vf, BitVec.ofNat 8 n)]

/-- The VF of a group's cells leaves them; another's restore is to come. -/
def State.expect (s : State) (sh inn : Nat) : State :=
  ((groupCells sh).foldl (fun s c => s.modCell c (fun x => { x with vf := none })) s).modGroup sh
    (fun g => { g with resident := inn, incoming := some inn, switch := none })

/-- SAVE_DEADLINE (R415): an incomplete save rolls the switch back on every die; the third miss in a row resets the outgoing VF. -/
def execSaveDeadline (sh : Nat) (s : State) : Host.Outcome State Fault Refusal :=
  match (s.group sh).switch with
  | none => .next s
  | some w =>
    if s.wall < w.deadline ∨ s.saveComplete sh w then .next s
    else if s.misses w.out < 2 then
      let s := (groupCells sh).foldl (fun s c => s.modCell c Cell.resumed) s
      .next (((s.modGroup sh (fun g => { g with switch := none })).setMisses w.out (s.misses w.out + 1)).endSwitch sh 0)
    else
      let s := (s.modGroup sh (fun g => { g with switch := none })).setMisses w.out 0
      .next ((s.partitionReset w.out).expect sh w.inn)

/-- The context of the VF that leaves a group's cells. -/
def State.takeContext (s : State) (sh : Nat) : Saved :=
  { cells := (groupCells sh).map (fun c => (c, (s.cell c).image)),
    lands := (shapeBhs (BitVec.ofNat 16 sh)).map (fun b => (b, s.landImage (2 * b))) }

/-- A block of bytes read back at a place. -/
def readBack (mem : Table Byte) (src dst n : Nat) (t : Table Byte) : Table Byte := writeAll t (placed dst (bytesAt mem src n))

/-- What the bytes of a core image restore (R413): the saved state of the cell and of its bulkhead's landing table where they are the bytes that
the yarder wrote; else whatever they decode to. A block that is not valid has its reset value. -/
def State.fromCore (s : State) (vf c : Nat) : Cell × Table Landing :=
  let v := s.vf vf
  match tfind c v.valid.cores with
  | none => ({}, [])
  | some k =>
    let l := bytesAt (s.mem.view (dieOf c)) (s.coreAt vf c) k.size
    if l = k.bytes then (tget {} (v.saved.getD {}).cells c, if c % 2 = 0 then tget [] (v.saved.getD {}).lands (bhOf c) else [])
    else (Config.coreDecode l).getD ({}, [])

/-- A cell of the incoming VF: its image, and every valid stripe; other stripes are 0. -/
def State.restoreCell (s : State) (vf c : Nat) : State :=
  let x := (s.fromCore vf c).1
  let mem := s.mem.view (dieOf c)
  let valid := marked (tget [] (s.vf vf).valid.stripes c)
  let scratch := valid.foldl (fun t n => readBack mem (s.stripeAt vf c n) (2048 * n) 2048 t) []
  s.modCell c (fun _ => { x.resumed with vf := some vf, scratch := scratch, spoison := x.spoison.filter (fun e => valid.contains (e.1 / 256)) })

/-- The landings of the incoming VF in a bulkhead. -/
def State.restoreLandings (s : State) (vf b : Nat) : State :=
  let mem := s.mem.view (bhDie b)
  let valid := marked (tget [] (s.vf vf).valid.lvalid b)
  let ls := (s.fromCore vf (2 * b)).2
  let keys := ls.map (fun e => e.1) ++ valid.filter (fun n => (tfind n ls).isNone)
  s.modBh b (fun x => { x with landings := keys.foldl (fun t n =>
    let e := tget {} ls n
    tput n (if valid.contains n then { e with bytes := readBack mem (s.landingAt vf b n) 0 65536 [] } else { e with bytes := [], poison := [] }) t) [] })

/-- The incoming VF's state comes back and its cells resume at their time r; launches accepted while it was away start (R36, R414). -/
def State.restoreVf (s : State) (sh vf : Nat) : State :=
  let s := (groupCells sh).foldl (fun s c => s.restoreCell vf c) s
  let s := (shapeBhs (BitVec.ofNat 16 sh)).foldl (fun s b => s.restoreLandings vf b) s
  let s := s.modVf vf (fun v => { v with saved := none })
  let s := s.modGroup sh (fun g => { g with resident := vf, incoming := none, switch := none })
  ((groupCells sh).foldl (fun s c => s.startShares c) (s.replayQueues vf)).endSwitch sh 1

/-- RESTORE (R408, R414): it begins on every die when every die has completed its save, or when the reset that it waits for has ended. -/
def execRestore (sh : Nat) (s : State) : Host.Outcome State Fault Refusal :=
  let g := s.group sh
  match g.switch, g.incoming with
  | some w, _ =>
    if s.saveComplete sh w then
      let saved := s.takeContext sh
      .next (((s.modVf w.out (fun v => { v with saved := some saved })).setMisses w.out 0).restoreVf sh w.inn)
    else .next s
  | none, some vf =>
    if (shapeBhs (BitVec.ofNat 16 sh)).any (fun b => (s.bh b).resetEnd.isSome || (s.bh b).held) then .next s else .next (s.restoreVf sh vf)
  | none, none => .next s

end Sys2Proof.Machine
end

