-- ==== Sys2Proof/Machine/Mgmt.lean ====
section
/-! DEFINITION. The management unit's commands on virtual functions (R372 to R379, R386, R407, R425 to R427, R429): poll, CREATE, DESTROY, RESET,
WINDOW, KEYLOAD, PEERTAB, SETQUOTA, STATS, BINDQP, SCHED and LCANCEL. The device's own commands are in Attest.lean. -/

namespace Sys2Proof.Machine

open Sys2Proof

/-! ### The statuses of R377 -/

namespace Status
def ok : Nat := 0
def badCmd : Nat := 1
def badVf : Nat := 2
def badRec : Nat := 3
def win : Nat := 4
def shape : Nat := 5
def slice : Nat := 6
def noSave : Nat := 7
def fault : Nat := 8
def lowQ : Nat := 10
def exhausted : Nat := 11
def inUse : Nat := 12
end Status

/-! ### The slot and the poll (R376) -/

/-- A field of the slot of the command that runs. -/
def State.arg (s : State) (o n : Nat) : Nat := recField s.mgmt.slot o n

/-- mb.vf. -/
def State.mbVf (s : State) : Nat := s.arg 10 2

/-- A slot names a command (R377, R379, R407); SCHED has three ops. -/
def knownCommand (slot : List Byte) : Bool :=
  let code := recField slot 8 2
  decide (1 ≤ code) && decide (code ≤ 0xE) && (code != 0xD || decide (recField slot 16 1 ≤ 2))

/-- MGMT_POLL (R376): once per µs; an idle unit takes the lowest slot whose go bit is set. -/
def execMgmtPoll (s : State) : Host.Outcome State Fault Refusal :=
  if s.wall < s.mgmt.nextPoll then .next s
  else
    let s : State := { s with mgmt := { s.mgmt with nextPoll := s.wall / 1000 * 1000 + 1000 } }
    if s.mgmt.run.isSome then .next s
    else
      match (upto 16).find? (fun n => (tget 0 (s.mem.view 0) (128 * n)).getLsbD 0) with
      | none => .next s
      | some n =>
        let slot := bytesAt (s.mem.view 0) (128 * n) 128
        let s : State := { s with mgmt := { s.mgmt with run := some n, slot := slot } }
        .next (if recField slot 14 2 ≠ 0 ∨ !knownCommand slot then s.endCommand Status.badCmd [] else s)

/-- The command of a slot and code runs; op is byte 16 of SCHED. -/
def State.commands (s : State) (slot code : Nat) : Bool := s.mgmt.run == some slot && s.arg 8 2 == code

/-- A tenant VF that exists. -/
def State.tenant (s : State) (vf : Nat) : Bool := vf != 0 && decide (vf ≤ 127) && (s.vf vf).live

/-- A command that targets a VF: BADVF when there is none; it waits while the VF is in reset (R377, R378). -/
def State.onVf (s : State) (slot code : Nat) (f : Nat → State) : Host.Outcome State Fault Refusal :=
  .next (if !s.commands slot code then s
    else if !s.tenant s.mbVf then s.endCommand Status.badVf []
    else if s.inReset s.mbVf then s
    else f s.mbVf)

/-! ### CREATE (R370 to R374, R377, R407, R425 to R427) -/

/-- The configuration record of 128 bytes (R372). -/
def VfCfg.parse (l : List Byte) : VfCfg :=
  { shape := BitVec.ofNat 16 (recField l 0 2), nlq := recField l 2 1, resv := recField l 4 4, slices := BitVec.ofNat 128 (recField l 8 16),
    ptroot := BitVec.ofNat 64 (recField l 24 8), fmttab := recField l 32 8, tasks := recField l 40 8, branch := recField l 48 8,
    seqtab := recField l 56 8, nseq := recField l 64 4, nroot := recField l 68 4, quota := recField l 72 4, tier2 := recField l 76 4,
    lqtab := recField l 80 8, rkey := BitVec.ofNat 32 (recField l 88 4), raw := l }

/-- Every field of a record is in its range and aligned (R372, R377). -/
def VfCfg.ok (c : VfCfg) : Bool :=
  recField c.raw 3 1 == 0 && recField c.raw 92 36 == 0 && decide (1 ≤ c.nlq) && decide (c.nlq ≤ 8) && decide (1 ≤ c.nseq) &&
    decide (c.nseq ≤ 2 ^ 24) && decide (1 ≤ c.nroot) && decide (c.nroot ≤ c.nseq) && c.fmttab % 256 == 0 && c.tasks % 64 == 0 &&
    c.branch % 64 == 0 && c.seqtab % 64 == 0

/-- A shape's code is valid (R370). -/
def shapeOk (sh : BitVec 16) : Bool :=
  let off := (sh.extractLsb' 4 4).toNat
  let k := (sh.extractLsb' 0 3).toNat
  sh.extractLsb' 12 4 == 0 && sh.getLsbD 3 == false && decide (k ≤ 4) && off % 2 ^ k == 0 &&
    [1, 2, 4, 8, 3, 12, 5, 10, 15].contains (sh.extractLsb' 8 4).toNat

/-- The tenants that exist. -/
def State.tenants (s : State) : List Nat := s.liveVfs.filter (fun v => v != 0)

/-- A new tenant may have a shape (R370, R371, R377, R388). -/
def State.shapeFree (s : State) (sh : BitVec 16) : Bool :=
  let bhs := shapeBhs sh
  shapeOk sh && !bhs.contains 0 && bhs.all (fun b => !(s.bh b).held) &&
    s.tenants.all (fun v => let o := (s.vf v).cfg.shape; o == sh || (shapeBhs o).all (fun b => !bhs.contains b)) &&
    decide ((s.tenants.filter (fun v => (s.vf v).cfg.shape == sh)).length < 4)

/-- The length of a list of frames. -/
def runsLength (l : List (Nat × Nat)) : Nat := (l.map (fun e => e.2)).foldl (· + ·) 0

/-- A new tenant may have its slices and quota (R19, R372, R374, R377). -/
def State.slicesFree (s : State) (c : VfCfg) : Bool :=
  c.slices.extractLsb' 0 4 == 0 && s.tenants.all (fun v => (s.vf v).cfg.slices &&& c.slices == 0) &&
    decide (c.quota ≤ runsLength (c.frameRuns c.resv))

/-- Runs of frames without the frames lo … lo + n − 1. -/
def cutRun (lo n : Nat) (l : List (Nat × Nat)) : List (Nat × Nat) :=
  l.flatMap (fun e =>
    if e.1 + e.2 ≤ lo || lo + n ≤ e.1 then [e]
    else (if e.1 < lo then [(e.1, lo - e.1)] else []) ++ (if lo + n < e.1 + e.2 then [(lo + n, e.1 + e.2 - (lo + n))] else []))

/-- Every frame of a run is on a list. -/
def coversRun (lo n : Nat) (l : List (Nat × Nat)) : Bool :=
  let hits := l.map (fun e => min (e.1 + e.2) (lo + n) - max e.1 lo)
  hits.foldl (· + ·) 0 == n

/-- The save area's first frame: the highest run, aligned to 16 MiB, that is on VF0's free list (R426). -/
def State.saveRun (s : State) (nbh : Nat) : Option Nat :=
  let n := 256 * nbh
  let top := 4 * sliceFrames / 256
  ((upto (top - nbh + 1)).reverse.map (fun i => 256 * i)).find? (fun lo => coversRun lo n (s.vf 0).free)

/-- Frame j of a list of runs. -/
def nthFrame : List (Nat × Nat) → Nat → Nat
  | [], _ => 0
  | (f, n) :: r, j => if j < n then f + j else nthFrame r (j - n)

/-- The bytes of a seed's frames, each read through VF0's tables (R425). -/
def State.readSeed (s : State) (va n : Nat) : Except (Code × Dword) (List (List Byte)) :=
  (upto n).mapM (fun j => s.readVa none 0 0 (va + j * frameBytes) frameBytes)

/-- An entry of the launch-queue table (R373); none when a field lies outside its range. -/
def Lq.parse (l : List Byte) : Option Lq :=
  let q : Lq := { ring := BitVec.ofNat 64 (recField l 0 8), head := BitVec.ofNat 64 (recField l 8 8), tail := BitVec.ofNat 64 (recField l 16 8),
                  lsize := recField l 24 1 }
  if q.ring.toNat % 64 = 0 ∧ q.head.toNat % 8 = 0 ∧ q.tail.toNat % 8 = 0 ∧ q.lsize ≤ 16 ∧ recField l 25 7 = 0 then some q else none

/-- A word of a VF that the device sets to 0 under a permission; none when its address does not translate. -/
def State.zeroWord (s : State) (vf va : Nat) (acc : Acc) : Option State :=
  match s.pages none vf 0 va 8 acc with
  | .error _ => none
  | .ok pg =>
    match s.installPages vf 0 va pg with
    | .error _ => none
    | .ok s =>
      match s.pages none vf 0 va 8 acc with
      | .error _ => none
      | .ok pg => (paOf pg va).map (fun pa => (s.enterWrite 0 (placed pa (zeros 8))).2)

/-- A queue's addresses are checked, and its head and tail words set to 0 (R373). -/
def State.openQueue (s : State) (vf : Nat) (q : Lq) : Option State := do
  let _ ← (s.pages none vf 0 q.ring.toNat 1 .rd).toOption
  let s ← s.zeroWord vf q.head.toNat .wr
  s.zeroWord vf q.tail.toNat .rd

/-- The launch queues of a new VF, read through its own tables. -/
def State.openQueues (s : State) (vf : Nat) : Option State := do
  let c := (s.vf vf).cfg
  let raw ← (s.readVa none vf 0 c.lqtab (32 * c.nlq)).toOption
  let qs ← (groupsOf 32 c.nlq raw).mapM Lq.parse
  let s ← qs.foldlM (fun s q => s.openQueue vf q) s
  return s.modVf vf (fun v => { v with lqs := qs })

/-- A new VF joins its group; the first is resident (R407). -/
def State.joinGroup (s : State) (vf : Nat) : State :=
  let sh := (s.vf vf).cfg.shape.toNat
  let first := (s.group sh).rotation.isEmpty
  let s := s.modGroup sh (fun g =>
    if first then { rotation := [vf], resident := vf, nextTick := s.wall + 2000000 }
    else { g with rotation := g.rotation ++ [vf], next := g.next.map (fun (x : List Nat × Nat × Nat) => (x.1 ++ [vf], x.2)) })
  if first then (groupCells sh).foldl (fun s c => s.modCell c (fun x => { x with vf := some vf })) s else s

/-- A new VF whose record has passed every check but that of its launch queues: its slices are zeroed and seeded, its save area is taken
from VF0's free list and its control page is zeroed (R374, R425 to R427). The generation and the serial of its number go on. -/
def State.install (s : State) (vf : Nat) (c : VfCfg) (run : Nat) (seed : List (List Byte)) : State :=
  let all := c.frameRuns 0
  let n := 256 * (shapeBhs c.shape).length
  let s := s.zeroRuns all
  let s := (seed.zip (upto seed.length)).foldl (fun s (e : List Byte × Nat) => s.kvPlace (placed (nthFrame all e.2 * frameBytes) e.1)) s
  let base := run * frameBytes
  let s := (s.modVf 0 (fun v => { v with free := cutRun run n v.free })).zeroMem (base + 0xFFF000) 4096
  let old := s.vf vf
  s.modVf vf (fun _ => { live := true, cfg := c, gen := old.gen, serial := old.serial, semSel := old.semSel, free := c.frameRuns c.resv,
                         listLen := runsLength (c.frameRuns c.resv), saveBase := base })

/-- The checks of CREATE in turn, then its effect: a failing status, or the new state and the save area's base. -/
def State.createVf (s : State) (vf : Nat) : Except Nat (Nat × State) := do
  let raw ← match s.readVa none 0 0 (s.arg 16 8) 128 with | .ok l => Except.ok l | .error _ => Except.error Status.fault
  let c := VfCfg.parse raw
  let (seedVa, n) := (s.arg 32 8, s.arg 40 4)
  if !c.ok || decide (c.resv < n) || seedVa % frameBytes != 0 then Except.error Status.badRec
  else if !s.shapeFree c.shape then Except.error Status.shape
  else if !s.slicesFree c then Except.error Status.slice
  else
    let run ← match s.saveRun (shapeBhs c.shape).length with | some r => Except.ok r | none => Except.error Status.noSave
    let seed ← match s.readSeed seedVa n with | .ok l => Except.ok l | .error _ => Except.error Status.fault
    match (s.install vf c run seed).openQueues vf with
    | none => Except.error Status.badRec
    | some s => return (run * frameBytes, s.joinGroup vf)

/-- CREATE (R377). -/
def execCreate (slot : Nat) (s : State) : Host.Outcome State Fault Refusal :=
  let vf := s.mbVf
  .next (if !s.commands slot 1 then s
    else if vf = 0 ∨ 127 < vf ∨ (s.vf vf).live then s.endCommand Status.badVf []
    else
      match s.createVf vf with
      | .error e => s.endCommand e []
      | .ok (base, s) => s.endCommand Status.ok [(24, leBytes base 8)])

/-! ### DESTROY and RESET (R377, R386, R407) -/

/-- A VF leaves a group that holds others: the next becomes resident when it was, and a switch to it is called off. -/
def State.leaveGroup (s : State) (vf : Nat) : State :=
  let sh := (s.vf vf).cfg.shape.toNat
  let g := s.group sh
  let rest := g.rotation.filter (fun v => v != vf)
  if rest.isEmpty then s else
  let s := s.modGroup sh (fun g => { g with
    rotation := rest, next := g.next.map (fun (x : List Nat × Nat × Nat) => (x.1.filter (fun v => v != vf), x.2)) })
  if g.resident = vf then
    let s := s.expect sh g.following
    { s with mgmt := { s.mgmt with moved := true } }
  else if (g.switch.map (fun w => w.inn)) == some vf then
    let s := (groupCells sh).foldl (fun s c => s.modCell c Cell.resumed) s
    s.modGroup sh (fun g => { g with switch := none })
  else s

/-- A reset of a VF's shape is still under way. -/
def State.resetting (s : State) (vf : Nat) : Bool :=
  s.inReset vf || (s.mgmt.moved && (shapeBhs (s.vf vf).cfg.shape).any (fun b => (s.bh b).resetEnd.isSome || (s.bh b).held))

/-- What a destroyed VF held is free: its slices, zeroed; its save area; key slot; peer table; queue pairs; its number. -/
def State.freeVf (s : State) (vf : Nat) : State :=
  let v := s.vf vf
  let sh := v.cfg.shape.toNat
  let run := (v.saveBase / frameBytes, 256 * (shapeBhs v.cfg.shape).length)
  let s := (s.zeroRuns (v.cfg.frameRuns 0)).modVf 0 (fun z => { z with free := z.free ++ [run] })
  let s := (groupCells sh).foldl (fun s c => if (s.cell c).vf = some vf then s.modCell c (fun x => { x with vf := none }) else s) s
  let s := s.modGroup sh (fun g =>
    let rest := g.rotation.filter (fun v => v != vf)
    if rest.isEmpty then {} else { g with nextTick := if s.mgmt.moved then s.wall + 1000 * g.tick else g.nextTick })
  let s : State := ({ s with qps := s.qps.filter (fun e => e.2.vf != some vf) } : State).dropPackets (fun p => p.vf.toNat == vf)
  s.modVf vf (fun v => { gen := v.gen, serial := v.serial, semSel := v.semSel })

/-- DESTROY (R377). -/
def execDestroy (slot : Nat) (s : State) : Host.Outcome State Fault Refusal :=
  let vf := s.mbVf
  if s.commands slot 2 && s.mgmt.begun then .next (if s.resetting vf then s else (s.freeVf vf).endCommand Status.ok [])
  else s.onVf slot 2 (fun vf =>
    let s := (s.vfReset vf).leaveGroup vf
    { s with mgmt := { s.mgmt with begun := true } })

/-- RESET (R377). -/
def execReset (slot : Nat) (s : State) : Host.Outcome State Fault Refusal :=
  s.onVf slot 3 (fun vf =>
    if s.mgmt.begun then s.endCommand Status.ok []
    else
      let s := s.vfReset vf
      { s with mgmt := { s.mgmt with begun := true } })

/-! ### WINDOW, KEYLOAD, PEERTAB, SETQUOTA, STATS, BINDQP (R377, R378, R380, R381, R390) -/

/-- A window entry of a VF's bulkhead is acceptable (R381). -/
def State.windowFits (s : State) (vf b n : Nat) (w : Dword) : Bool :=
  let own := (s.vf vf).cfg.shape
  let o := (s.vf (wnVf w)).cfg.shape
  (shapeBhs own).contains b && decide (n ≤ 7) && w.extractLsb' 32 30 == 0 &&
    (!wnValid w || (decide (wnLo w ≤ wnHi w) && (s.vf (wnVf w)).live && (shapeCells o).contains (wnCell w) && wnVf w != vf && o != own))

/-- An access accepted through a window entry has not completed (R378, R382): one that waits for its release, its owner or the landing of its
answer, or an l.barw that waits. -/
def State.windowBusy (s : State) (b n : Nat) : Bool :=
  let through (c i : Nat) : Bool := match ((s.cell c).entry i).peer.win with | some (x, k, _) => x == b && k == n | none => false
  s.cells.any (fun (e : Nat × Cell) => e.2.ops.any (fun o =>
    match o.body with
    | .flume _ => false
    | .barWait _ _ _ _ _ peer _ _ => peer && through e.1 (hdIdx (o.ops.getD 0 0))
    | _ => o.uses.any (fun u => match u with | .scratch c i => through c i | .landing .. => false)))

/-- WINDOW (R381). -/
def execWindow (slot : Nat) (s : State) : Host.Outcome State Fault Refusal :=
  s.onVf slot 4 (fun vf =>
    let (b, n, w) := (s.arg 16 1, s.arg 17 1, (BitVec.ofNat 64 (s.arg 24 8) : Dword))
    if !s.windowFits vf b n w then s.endCommand Status.win []
    else if s.windowBusy b n then s
    else (s.modBh b (fun x => { x with windows := tset 0 x.windows n (if wnValid w then w else 0) })).endCommand Status.ok [])

/-- KEYLOAD (R337, R377): the key's bytes in the slot are overwritten. -/
def execKeyload (slot : Nat) (s : State) : Host.Outcome State Fault Refusal :=
  s.onVf slot 5 (fun vf =>
    let key : BitVec 256 := BitVec.ofNat 256 (ofBe ((s.mgmt.slot.drop 16).take 32))
    (s.modVf vf (fun v => { v with key := key, keyLoaded := true })).endCommand Status.ok [(16, zeros 32)])

/-- PEERTAB (R360, R377). -/
def execPeertab (slot : Nat) (s : State) : Host.Outcome State Fault Refusal :=
  s.onVf slot 6 (fun vf =>
    let (i, e) := (s.arg 16 1, (BitVec.ofNat 32 (s.arg 20 4) : BitVec 32))
    if 63 < i then s.endCommand Status.badCmd []
    else (s.modVf vf (fun v => { v with peers := tset 0 v.peers i e })).endCommand Status.ok [])

/-- SETQUOTA (R377). -/
def execSetquota (slot : Nat) (s : State) : Host.Outcome State Fault Refusal :=
  s.onVf slot 7 (fun vf =>
    let q := s.arg 16 4
    if (s.vf vf).listLen < q then s.endCommand Status.slice []
    else if q < (s.vf vf).held then s.endCommand Status.lowQ []
    else (s.modVf vf (fun v => { v with cfg := { v.cfg with quota := q, tier2 := s.arg 20 4 } })).endCommand Status.ok [])

/-- STATS (R380). -/
def execStats (slot : Nat) (s : State) : Host.Outcome State Fault Refusal :=
  s.onVf slot 8 (fun vf =>
    let c := (s.vf vf).counters
    s.endCommand Status.ok [(16, [c.messages, c.corrected, c.signals, c.stale, c.refused, c.rdma].flatMap (fun n => leBytes n 8))])

/-- BINDQP (R390). -/
def execBindqp (slot : Nat) (s : State) : Host.Outcome State Fault Refusal :=
  s.onVf slot 12 (fun vf =>
    let q := s.arg 16 4
    if 4096 ≤ q then s.endCommand Status.badCmd []
    else if (tget {} s.qps q).vf.isSome then s.endCommand Status.inUse []
    else
      let s : State := { s with qps := tput q { vf := some vf } s.qps }
      s.endCommand Status.ok [])

/-! ### SCHED (R407, R416, R429) -/

/-- A command of SCHED: its reserved bytes are 0. -/
def State.onSched (s : State) (slot op : Nat) (f : Nat → State) : Host.Outcome State Fault Refusal :=
  if s.commands slot 13 && s.arg 16 1 != op then .next s
  else s.onVf slot 13 (fun vf => if s.arg 17 3 ≠ 0 then s.endCommand Status.badCmd [] else f vf)

/-- sc.rot: VF numbers up to the first 0. -/
def State.schedRot (s : State) : List Nat := (((s.mgmt.slot.drop 28).take 4).map (fun b => b.toNat)).takeWhile (fun n => n != 0)

/-- SCHED_SET (R407): in force from the group's next tick. -/
def execSchedSet (slot : Nat) (s : State) : Host.Outcome State Fault Refusal :=
  s.onSched slot 0 (fun vf =>
    let sh := (s.vf vf).cfg.shape.toNat
    let members := (s.group sh).rotation
    let (tick, dl, rot) := (s.arg 20 4, s.arg 24 4, s.schedRot)
    if tick < 100 ∨ 1000000 < tick ∨ dl < 10 ∨ tick < 2 * dl then s.endCommand Status.badCmd []
    else if rot.any (fun v => !members.contains v) then s.endCommand Status.shape []
    else if rot.eraseDups.length ≠ rot.length ∨ rot.length ≠ members.length then s.endCommand Status.badCmd []
    else (s.modGroup sh (fun g => { g with next := some (rot, tick, dl) })).endCommand Status.ok [(32, zeros 8)])

/-- SCHED_SWITCH (R429): it ends with the switch, its own or one in progress; with one VF it ends at once. -/
def execSchedSwitch (slot : Nat) (s : State) : Host.Outcome State Fault Refusal :=
  if s.commands slot 13 && s.mgmt.waitGroup.isSome then .next s
  else s.onSched slot 1 (fun vf =>
    let sh := (s.vf vf).cfg.shape.toNat
    let g := s.group sh
    let wait (s : State) : State := { s with mgmt := { s.mgmt with waitGroup := some sh } }
    if g.rotation.length ≤ 1 then s.endCommand Status.ok [(32, zeros 8)]
    else if g.switch.isSome || g.incoming.isSome then wait s
    else if s.groupBusy sh then s
    else wait ((s.startSwitch sh).modGroup sh (fun g => { g with nextTick := s.wall + 1000 * g.tick })))

/-- A held queue goes on from the count of its replay, a stopped one from its head word (R373, R416). -/
def State.releaseQueue (s : State) (vf q : Nat) : State :=
  let x := s.lq vf q
  if x.held then (s.modLq vf q (fun x => { x with held := false, stopped := false })).replayQueue vf q
  else if x.stopped then
    match s.readVa none vf 0 x.head.toNat 8 with
    | .error (e, _) => s.stopQueue vf q 9 [e.zeroExtend 8]
    | .ok l => s.modLq vf q (fun x => { x with stopped := false, count := ofBytes l })
  else s

/-- SCHED_RELEASE (R416). -/
def execSchedRelease (slot : Nat) (s : State) : Host.Outcome State Fault Refusal :=
  s.onSched slot 2 (fun vf =>
    ((upto (s.vf vf).lqs.length).foldl (fun s q => s.releaseQueue vf q) s).endCommand Status.ok [(32, zeros 8)])

/-! ### LCANCEL (R379) -/

/-- A launch is cancelled in whole. -/
def State.cancelLaunch (s : State) (id : Nat) : State :=
  ((s.cancelItems id 6 0 false).2).modLaunch id (fun l => { l with cancelled := true })

/-- The listed device-side launches of a VF are dropped: each completes with CANCELLED. -/
def State.dropListed (s : State) (vf : Nat) : State :=
  let ls := (s.vf vf).overflow.map (fun e => Launch.ofHeader vf none 0 e.1)
  let s := ls.foldl (fun s l => (s.completionWord l 2).completeSignal l) s
  (s.modVf vf (fun v => { v with overflow := [] })).shrinkOverflow vf

/-- LCANCEL (R379): it ends when every selected launch has completed. -/
def execLcancel (slot : Nat) (s : State) : Host.Outcome State Fault Refusal :=
  s.onVf slot 14 (fun vf =>
    let sel := s.arg 16 1
    if s.mgmt.begun then
      (if s.mgmt.waitLaunches.any (fun id => (s.launchAt id).isSome) then s else s.endCommand Status.ok [])
    else if s.arg 17 7 ≠ 0 ∨ 9 ≤ sel ∨ (s.vf vf).cfg.nlq < sel then s.endCommand Status.badCmd []
    else
      let ids := (s.launches.filter (fun e => e.2.vf == vf && (sel == 0 || e.2.queue == some (sel - 1)))).map (fun e => e.1)
      let s := ids.foldl (fun s id => s.cancelLaunch id) s
      let s := if sel = 0 then s.dropListed vf else s
      { s with mgmt := { s.mgmt with begun := true, waitLaunches := ids } })

end Sys2Proof.Machine
end

