-- ==== Sys2Proof/Machine/Scalar.lean ====
section
/-! DEFINITION. The S engine (R142 to R158): integer arithmetic, compares, predicate logic, work-identifier fields, system registers
and the poison check. -/

namespace Sys2Proof.Machine

open Sys2Proof

/-- A result of an S word: the tag and value of the first poisoned source travel in its place (R157). -/
def poisoned (xs : List Sval) (v : Dword) : Sval :=
  match xs.find? (fun x => x.tag.isSome) with
  | some x => x
  | none => { val := v }

/-- An S word with a scalar destination: sources in the order a, b, d (R99), its result lat cycles after issue. -/
def scalarWord (pfxOk : Bool) (g : Guard) (d : BitVec 6) (srcs : List (BitVec 6)) (lat occ : Nat) (s : State)
    (f : List Dword → Dword) : Host.Outcome State Fault Refusal :=
  issueWord pfxOk g s (fun s => withScalars srcs s (fun xs s => roomFor d s
    (.done occ (s.result lat (.s d (poisoned xs (f (xs.map (·.val)))))))))

/-- The operand at a place of a list of values. -/
def at_ (l : List Dword) (i : Nat) : Dword := l.getD i 0

/-- trunc(x / y) of R147 with its two special cases. -/
def divS (x y : Dword) : Dword :=
  if y = 0 then BitVec.allOnes 64 else BitVec.ofInt 64 (x.toInt.tdiv y.toInt)

def remS (x y : Dword) : Dword :=
  if y = 0 then x else BitVec.ofInt 64 (x.toInt - y.toInt * x.toInt.tdiv y.toInt)

def divU (x y : Dword) : Dword := if y = 0 then BitVec.allOnes 64 else BitVec.ofNat 64 (x.toNat / y.toNat)

def remU (x y : Dword) : Dword := if y = 0 then x else BitVec.ofNat 64 (x.toNat % y.toNat)

/-- The shift count of a register form: bits 5:0 (R148). -/
def count6 (y : Dword) : Nat := y.toNat % 64

/-- The number of zero bits above the highest one bit (R146). -/
def clz64 (x : Dword) : Nat := if x = 0 then 64 else 63 - Nat.log2 x.toNat

/-- The number of one bits. -/
def popc64 (x : Dword) : Nat := ((upto 64).filter (fun i => x.getLsbD i)).length

/-- The field of a selector: position and length (R149). -/
def selPos (y : Dword) : Nat := y.toNat % 64
def selLen (y : Dword) : Nat := min (y.toNat / 256 % 128) (64 - selPos y)

/-- s.ext (R149). -/
def extField (x y : Dword) : Dword :=
  let len := selLen y
  if len = 0 then 0
  else
    let f := x.toNat / 2 ^ selPos y % 2 ^ len
    if y.getLsbD 16 then BitVec.ofInt 64 (sextNat len f) else BitVec.ofNat 64 f

/-- s.ins (R149). -/
def insField (x y old : Dword) : Dword :=
  let len := selLen y
  let mask := BitVec.ofNat 64 ((2 ^ len - 1) * 2 ^ selPos y)
  (old &&& ~~~mask) ||| (BitVec.ofNat 64 (x.toNat % 2 ^ len * 2 ^ selPos y) &&& mask)

/-- The condition of s.cmp and s.cmpi (R102). -/
def condS (c : BitVec 3) (x y : Dword) : Bool :=
  match c.toNat with
  | 0 => x == y
  | 1 => x != y
  | 2 => x.slt y
  | 3 => x.sle y
  | 4 => y.slt x
  | 5 => y.sle x
  | 6 => x.ult y
  | _ => y.ule x

/-- A compare: poisoned sources raise their fault; the predicate is written at issue + 1 (R144, R145, R157). -/
def compareWord (g : Guard) (c p : BitVec 3) (srcs : List (BitVec 6)) (s : State) (y : List Dword → Dword) :
    Host.Outcome State Fault Refusal :=
  issueWord false g s (fun s => withScalars srcs s (fun xs s => noPoison xs
    (let vs := xs.map (·.val); .done 1 (s.result 1 (.p p (condS c (at_ vs 0) (y vs)))))))

/-- A predicate word: its operands are the registers (R144, R151). -/
def predWord (g : Guard) (d : BitVec 3) (s : State) (f : Strand → Bool) : Host.Outcome State Fault Refusal :=
  issueWord false g s (fun s => .done 1 (s.result 1 (.p d (f s.me))))


/-- SAdd (R146). -/
def execSAdd (g : Guard) (d a b : BitVec 6) (s : State) : Host.Outcome State Fault Refusal :=
  scalarWord false g d [a, b] 1 1 s (fun v => at_ v 0 + at_ v 1)

/-- SSub (R146). -/
def execSSub (g : Guard) (d a b : BitVec 6) (s : State) : Host.Outcome State Fault Refusal :=
  scalarWord false g d [a, b] 1 1 s (fun v => at_ v 0 - at_ v 1)

/-- SAddi (R146, R100). -/
def execSAddi (g : Guard) (d a i : BitVec 6) (s : State) : Host.Outcome State Fault Refusal :=
  scalarWord true g d [a] 1 1 s (fun v => at_ v 0 + immRI s.cur.ent i)

/-- SMul (R146). -/
def execSMul (g : Guard) (d a b : BitVec 6) (s : State) : Host.Outcome State Fault Refusal :=
  scalarWord false g d [a, b] 3 1 s (fun v => at_ v 0 * at_ v 1)

/-- SMulh (R146). -/
def execSMulh (g : Guard) (d a b : BitVec 6) (s : State) : Host.Outcome State Fault Refusal :=
  scalarWord false g d [a, b] 3 1 s (fun v => BitVec.ofInt 64 ((at_ v 0).toInt * (at_ v 1).toInt / 2 ^ 64))

/-- SMulhn (R146). -/
def execSMulhn (g : Guard) (d a b : BitVec 6) (s : State) : Host.Outcome State Fault Refusal :=
  scalarWord false g d [a, b] 3 1 s (fun v => BitVec.ofNat 64 ((at_ v 0).toNat * (at_ v 1).toNat / 2 ^ 64))

/-- SDiv (R147). -/
def execSDiv (g : Guard) (d a b : BitVec 6) (s : State) : Host.Outcome State Fault Refusal :=
  scalarWord false g d [a, b] 34 32 s (fun v => divS (at_ v 0) (at_ v 1))

/-- SDivn (R147). -/
def execSDivn (g : Guard) (d a b : BitVec 6) (s : State) : Host.Outcome State Fault Refusal :=
  scalarWord false g d [a, b] 34 32 s (fun v => divU (at_ v 0) (at_ v 1))

/-- SRem (R147). -/
def execSRem (g : Guard) (d a b : BitVec 6) (s : State) : Host.Outcome State Fault Refusal :=
  scalarWord false g d [a, b] 34 32 s (fun v => remS (at_ v 0) (at_ v 1))

/-- SRemn (R147). -/
def execSRemn (g : Guard) (d a b : BitVec 6) (s : State) : Host.Outcome State Fault Refusal :=
  scalarWord false g d [a, b] 34 32 s (fun v => remU (at_ v 0) (at_ v 1))

/-- SAnd (R146). -/
def execSAnd (g : Guard) (d a b : BitVec 6) (s : State) : Host.Outcome State Fault Refusal :=
  scalarWord false g d [a, b] 1 1 s (fun v => at_ v 0 &&& at_ v 1)

/-- SOr (R146). -/
def execSOr (g : Guard) (d a b : BitVec 6) (s : State) : Host.Outcome State Fault Refusal :=
  scalarWord false g d [a, b] 1 1 s (fun v => at_ v 0 ||| at_ v 1)

/-- SXor (R146). -/
def execSXor (g : Guard) (d a b : BitVec 6) (s : State) : Host.Outcome State Fault Refusal :=
  scalarWord false g d [a, b] 1 1 s (fun v => at_ v 0 ^^^ at_ v 1)

/-- SAndn (R146). -/
def execSAndn (g : Guard) (d a b : BitVec 6) (s : State) : Host.Outcome State Fault Refusal :=
  scalarWord false g d [a, b] 1 1 s (fun v => at_ v 0 &&& ~~~(at_ v 1))

/-- SShl (R148). -/
def execSShl (g : Guard) (d a b : BitVec 6) (s : State) : Host.Outcome State Fault Refusal :=
  scalarWord false g d [a, b] 1 1 s (fun v => at_ v 0 <<< count6 (at_ v 1))

/-- SShr (R148). -/
def execSShr (g : Guard) (d a b : BitVec 6) (s : State) : Host.Outcome State Fault Refusal :=
  scalarWord false g d [a, b] 1 1 s (fun v => at_ v 0 >>> count6 (at_ v 1))

/-- SSra (R148). -/
def execSSra (g : Guard) (d a b : BitVec 6) (s : State) : Host.Outcome State Fault Refusal :=
  scalarWord false g d [a, b] 1 1 s (fun v => (at_ v 0).sshiftRight (count6 (at_ v 1)))

/-- SRot (R148). -/
def execSRot (g : Guard) (d a b : BitVec 6) (s : State) : Host.Outcome State Fault Refusal :=
  scalarWord false g d [a, b] 1 1 s (fun v => (at_ v 0).rotateLeft (count6 (at_ v 1)))

/-- SShli (R148). -/
def execSShli (g : Guard) (d a c : BitVec 6) (s : State) : Host.Outcome State Fault Refusal :=
  scalarWord false g d [a] 1 1 s (fun v => at_ v 0 <<< c.toNat)

/-- SShri (R148). -/
def execSShri (g : Guard) (d a c : BitVec 6) (s : State) : Host.Outcome State Fault Refusal :=
  scalarWord false g d [a] 1 1 s (fun v => at_ v 0 >>> c.toNat)

/-- SSrai (R148). -/
def execSSrai (g : Guard) (d a c : BitVec 6) (s : State) : Host.Outcome State Fault Refusal :=
  scalarWord false g d [a] 1 1 s (fun v => (at_ v 0).sshiftRight c.toNat)

/-- SMin (R146). -/
def execSMin (g : Guard) (d a b : BitVec 6) (s : State) : Host.Outcome State Fault Refusal :=
  scalarWord false g d [a, b] 1 1 s (fun v => if (at_ v 0).sle (at_ v 1) then at_ v 0 else at_ v 1)

/-- SMax (R146). -/
def execSMax (g : Guard) (d a b : BitVec 6) (s : State) : Host.Outcome State Fault Refusal :=
  scalarWord false g d [a, b] 1 1 s (fun v => if (at_ v 1).sle (at_ v 0) then at_ v 0 else at_ v 1)

/-- SMinn (R146). -/
def execSMinn (g : Guard) (d a b : BitVec 6) (s : State) : Host.Outcome State Fault Refusal :=
  scalarWord false g d [a, b] 1 1 s (fun v => if (at_ v 0).ule (at_ v 1) then at_ v 0 else at_ v 1)

/-- SMaxn (R146). -/
def execSMaxn (g : Guard) (d a b : BitVec 6) (s : State) : Host.Outcome State Fault Refusal :=
  scalarWord false g d [a, b] 1 1 s (fun v => if (at_ v 1).ule (at_ v 0) then at_ v 0 else at_ v 1)

/-- SClz (R146). -/
def execSClz (g : Guard) (d a : BitVec 6) (s : State) : Host.Outcome State Fault Refusal :=
  scalarWord false g d [a] 1 1 s (fun v => BitVec.ofNat 64 (clz64 (at_ v 0)))

/-- SPopc (R146). -/
def execSPopc (g : Guard) (d a : BitVec 6) (s : State) : Host.Outcome State Fault Refusal :=
  scalarWord false g d [a] 1 1 s (fun v => BitVec.ofNat 64 (popc64 (at_ v 0)))

/-- SMov (R146). -/
def execSMov (g : Guard) (d a : BitVec 6) (s : State) : Host.Outcome State Fault Refusal :=
  scalarWord false g d [a] 1 1 s (fun v => at_ v 0)

/-- SExt (R149). -/
def execSExt (g : Guard) (d a b : BitVec 6) (s : State) : Host.Outcome State Fault Refusal :=
  scalarWord false g d [a, b] 1 1 s (fun v => extField (at_ v 0) (at_ v 1))

/-- SIns (R149): d is a source, popped after a and b. -/
def execSIns (g : Guard) (d a b : BitVec 6) (s : State) : Host.Outcome State Fault Refusal :=
  scalarWord false g d [a, b, d] 1 1 s (fun v => insField (at_ v 0) (at_ v 1) (at_ v 2))

/-- SLi (R146, R100). -/
def execSLi (g : Guard) (d : BitVec 6) (i : BitVec 12) (s : State) : Host.Outcome State Fault Refusal :=
  scalarWord true g d [] 1 1 s (fun _ => immRI12 s.cur.ent i)

/-- SCmp (R150). -/
def execSCmp (g : Guard) (c p : BitVec 3) (a b : BitVec 6) (s : State) : Host.Outcome State Fault Refusal :=
  compareWord g c p [a, b] s (fun v => at_ v 1)

/-- SCmpi (R150). -/
def execSCmpi (g : Guard) (c p : BitVec 3) (a i : BitVec 6) (s : State) : Host.Outcome State Fault Refusal :=
  compareWord g c p [a] s (fun _ => i.signExtend 64)

/-- SPand (R151). -/
def execSPand (g : Guard) (d a b : BitVec 3) (s : State) : Host.Outcome State Fault Refusal :=
  predWord g d s (fun st => st.readP a && st.readP b)

/-- SPor (R151). -/
def execSPor (g : Guard) (d a b : BitVec 3) (s : State) : Host.Outcome State Fault Refusal :=
  predWord g d s (fun st => st.readP a || st.readP b)

/-- SPxor (R151). -/
def execSPxor (g : Guard) (d a b : BitVec 3) (s : State) : Host.Outcome State Fault Refusal :=
  predWord g d s (fun st => st.readP a != st.readP b)

/-- SPnot (R151). -/
def execSPnot (g : Guard) (d a : BitVec 3) (s : State) : Host.Outcome State Fault Refusal :=
  predWord g d s (fun st => !st.readP a)

/-- Field k of a work identifier under the widths of hdr.ctl (R28). -/
def widField (ctl wid : Dword) (k : Nat) : Dword :=
  let w (i : Nat) : Nat := ctl.toNat / 2 ^ (6 * i) % 64
  let off := (upto k).foldl (fun a i => a + w i) 0
  BitVec.ofNat 64 (wid.toNat / 2 ^ off % 2 ^ w k)

/-- SWid (R152): the identifier that the context took, apart from s2. -/
def execSWid (g : Guard) (d : BitVec 6) (k : BitVec 3) (s : State) : Host.Outcome State Fault Refusal :=
  scalarWord false g d [] 1 1 s (fun _ =>
    if k = 7 then s.me.wid else widField (s.hdrCtl s.me.launch) s.me.wid k.toNat)

/-- sr.bhmask of a VF: bit b is 1 when BHb belongs to its shape (R369, R370). -/
def shapeMask (sh : BitVec 16) : Dword :=
  let dies := (sh.extractLsb' 8 4).toNat
  let off := (sh.extractLsb' 4 4).toNat
  let n := 2 ^ (sh.extractLsb' 0 3).toNat
  BitVec.ofNat 64 (((upto 4).filter (fun d => dies.testBit d)).foldl (fun a d => a + (2 ^ n - 1) * 2 ^ (16 * d + off)) 0)

/-- sr.semm (R295): the value of the selected entry's semaphore, the entry and semm.sel. DESIGN CHOICE (log entry 68): the spec does not say
whether semm.sel is one register or one per VF number; it is one per VF number, and a VF's end or reset keeps it. -/
def State.readSemm (s : State) (n : Nat) : Dword :=
  let v := s.vf n
  let ent := if v.live then tget 0 v.semMap v.semSel.toNat else 0
  let val := if ent.getLsbD 15 then (tget {} s.sems ((ent.extractLsb' 0 12).toNat)).val else 0
  (val.zeroExtend 64 <<< 32) ||| (ent.zeroExtend 64 <<< 16) ||| v.semSel.zeroExtend 64

/-- The value of a system register as s.rdsr samples it (R126, R138, R153, R154). -/
def State.readSr (s : State) (n : BitVec 12) : Dword :=
  let st := s.me
  let sel := s.vf st.vfsel.toNat
  match n.toNat with
  | 0x000 => BitVec.ofNat 64 (s.vfOf s.cur.cell)
  | 0x001 => BitVec.ofNat 64 s.cur.cell
  | 0x002 => BitVec.ofNat 64 (bhOf s.cur.cell)
  | 0x003 => BitVec.ofNat 64 s.cur.sc
  | 0x010 => st.stat.zeroExtend 64
  | 0x011 => st.srkey
  | 0x012 => s.cur.ent.ftbTag.zeroExtend 64
  | 0x020 => st.tvec
  | 0x021 => st.cause.zeroExtend 64
  | 0x022 => st.tinfo.zeroExtend 64
  | 0x023 => st.taddr
  | 0x024 => st.tscr
  | 0x030 => s.here.dl.zeroExtend 64
  | 0x031 => BitVec.ofNat 64 s.wall
  | 0x040 => s.readSemm st.vfsel.toNat
  | 0x041 => sel.gen.zeroExtend 64
  | 0x042 => if sel.live then shapeMask sel.cfg.shape else 0
  | 0x043 => st.vfsel.zeroExtend 64
  | _ => s.cur.ent.lcTag.zeroExtend 64

/-- A privileged system register number (R154). -/
def isPrivSr (n : BitVec 12) : Bool := decide (0x040 ≤ n.toNat) && decide (n.toNat ≤ 0x043)

/-- SRdsr (R154). -/
def execSRdsr (g : Guard) (d : BitVec 6) (r : BitVec 12) (s : State) : Host.Outcome State Fault Refusal :=
  issueWord false g s (fun s =>
    roomFor d s (if isPrivSr r && s.vfOf s.cur.cell != 0 then faultW s Code.priv
    else .done 1 (s.result 2 (.s d { val := s.readSr r }))))

/-- A system register that s.wrsr changes (R153, R154). -/
def isWritableSr (n : BitVec 12) : Bool :=
  [0x010, 0x011, 0x020, 0x021, 0x022, 0x023, 0x024, 0x043].contains n.toNat

/-- SWrsr (R154, R155): in force from issue + 1; a write to a register marked read changes nothing. DESIGN CHOICE (log entry 77): PRIV comes before
the fault of a poisoned source. -/
def execSWrsr (g : Guard) (d : BitVec 6) (r : BitVec 12) (s : State) : Host.Outcome State Fault Refusal :=
  issueWord false g s (fun s =>
    withScalars [d] s (fun xs s =>
      if isPrivSr r && s.vfOf s.cur.cell != 0 then faultW s Code.priv
      else noPoison xs (
      let v := (opnd xs 0).val
      if r = 0x040 then .done 1 (s.result 1 (.semm s.me.vfsel (v.truncate 8)))
      else if isWritableSr r then .done 1 (s.result 1 (.sr r v))
      else .done 1 s)))

/-- SRdcyc (R156): the cell time of its issue cycle. -/
def execSRdcyc (g : Guard) (d : BitVec 6) (s : State) : Host.Outcome State Fault Refusal :=
  scalarWord false g d [] 1 1 s (fun _ => BitVec.ofNat 64 s.now)

/-- SChk (R158). -/
def execSChk (g : Guard) (a : BitVec 6) (s : State) : Host.Outcome State Fault Refusal :=
  issueWord false g s (fun s => withScalars [a] s (fun xs s => noPoison xs (.done 1 s)))

end Sys2Proof.Machine
end

