-- ==== Sys2Proof/Machine/Attest.lean ====
section
/-! DEFINITION. The management unit's commands on the device itself: MEASURE, POD and QUOTE (R359, R377, R392 to R394). -/

namespace Sys2Proof.Machine

open Sys2Proof

/-! ### Measurement registers (R375, R377) -/

/-- Mi written. -/
def State.setMeasure (s : State) (i : Nat) (x : Node) : State := { s with boot := { s.boot with measured := tput i x s.boot.measured } }

/-- MEASURE (R377): Mi becomes the hash of its value and the argument. -/
def execMeasure (slot : Nat) (s : State) : Host.Outcome State Fault Refusal :=
  let i := s.arg 16 1
  .next (if !s.commands slot 0xA then s
    else if i = 0 ∨ 7 < i then s.endCommand Status.badCmd []
    else (s.setMeasure i (hashNode (s.measure i ++ (s.mgmt.slot.drop 24).take 32))).endCommand Status.ok [])

/-- POD (R359, R377): coordinates below extents of 1 to 16, while there is no tenant. -/
def execPod (slot : Nat) (s : State) : Host.Outcome State Fault Refusal :=
  let (x, y, z) := (s.arg 16 1, s.arg 17 1, s.arg 18 1)
  let (nx, ny, nz) := (s.arg 20 1, s.arg 21 1, s.arg 22 1)
  .next (if !s.commands slot 0xB then s
    else if !s.tenants.isEmpty then s.endCommand Status.inUse []
    else if s.arg 19 1 ≠ 0 ∨ s.arg 23 1 ≠ 0 ∨ 16 < nx ∨ 16 < ny ∨ 16 < nz ∨ nx ≤ x ∨ ny ≤ y ∨ nz ≤ z then s.endCommand Status.badCmd []
    else
      let s : State := { s with pod := some (x, y, z, nx, ny, nz) }
      s.endCommand Status.ok [])

/-! ### Quotes (R393, R394) -/

/-- The 376 bytes that a quote of a VF signs. -/
def State.quoteBody (s : State) (vf : Nat) : List Byte :=
  let v := s.vf vf
  leBytes 0x51544B48 4 ++ leBytes s.boot.blown 4 ++ leBytes s.boot.quotes 4 ++ leBytes vf 4 ++ (s.mgmt.slot.drop 16).take 32 ++
    (upto 8).flatMap s.measure ++ sha256 (if vf = 0 then Config.ownRecord else v.cfg.raw) ++ leBytes (shapeMask v.cfg.shape).toNat 8 ++
    leBytes v.cfg.slices.toNat 16 ++ leBytes (if v.keyLoaded then 1 else 0) 8 ++ leBytes v.gen.toNat 8

/-- The public key of a boot epoch's bottom tree (R393). -/
def bottomKey (epoch : Nat) : List Byte := lmsPublic (Config.bottomId epoch) (Config.bottomSeed epoch) 15 7

/-- The HSS signature of a digest (R393, R394): the bottom tree's public key signed by the top tree's leaf of the epoch, that key, and the digest
signed by the bottom tree's leaf of the quote's number. -/
def hssSignature (digest : List Byte) (epoch number : Nat) : List Byte :=
  beBytes 1 4 ++ lmsSign Config.topId Config.topSeed 20 8 epoch (Config.topRandom epoch) (bottomKey epoch) ++ bottomKey epoch ++
    lmsSign (Config.bottomId epoch) (Config.bottomSeed epoch) 15 7 number (Config.quoteRandom epoch number) digest

/-- QUOTE (R394): for a tenant, or for VF0 with mb.vf = 0; the epoch fuses and the bottom tree bound how many there are (R393). -/
def execQuote (slot : Nat) (s : State) : Host.Outcome State Fault Refusal :=
  let vf := s.mbVf
  .next (if !s.commands slot 9 then s
    else if vf ≠ 0 ∧ !s.tenant vf then s.endCommand Status.badVf []
    else if vf ≠ 0 ∧ s.inReset vf then s
    else if 16384 < s.boot.blown ∨ 32768 ≤ s.boot.quotes then s.endCommand Status.exhausted []
    else
      let body := s.quoteBody vf
      match s.writeVa none 0 0 (s.arg 48 8) (body ++ hssSignature (sha256 body) s.boot.blown s.boot.quotes) with
      | .error _ => s.endCommand Status.fault []
      | .ok (_, s) =>
        let s : State := { s with boot := { s.boot with quotes := s.boot.quotes + 1 } }
        s.endCommand Status.ok [])

/-! ### The command that runs -/

/-- A step of the command that the management unit runs (R376). -/
def mgmtRun (s : State) : Host.Outcome State Fault Refusal :=
  match s.mgmt.run with
  | none => .next s
  | some n =>
    match s.arg 8 2 with
    | 0x01 => execCreate n s
    | 0x02 => execDestroy n s
    | 0x03 => execReset n s
    | 0x04 => execWindow n s
    | 0x05 => execKeyload n s
    | 0x06 => execPeertab n s
    | 0x07 => execSetquota n s
    | 0x08 => execStats n s
    | 0x09 => execQuote n s
    | 0x0A => execMeasure n s
    | 0x0B => execPod n s
    | 0x0C => execBindqp n s
    | 0x0D =>
      match s.arg 16 1 with
      | 0 => execSchedSet n s
      | 1 => execSchedSwitch n s
      | _ => execSchedRelease n s
    | _ => execLcancel n s

end Sys2Proof.Machine
end

