-- ==== Sys2Proof/Machine/Hazard.lean ====
section
/-! DEFINITION. Faults of the hardware and their containment (R25, R187, R214, R387, R388, R432): errors in storage, faults of a bulkhead,
the cold plate and the common blocks. -/

namespace Sys2Proof.Machine

open Sys2Proof

/-- Every bulkhead is held in reset until the device is booted again (R387). -/
def State.holdAll (s : State) : State :=
  let s := (upto 64).foldl (fun s b => (s.resetBh b (fun _ => true)).modBh b (fun x => { x with held := true })) s
  let s := s.liveVfs.foldl (fun s vf => s.dropWork vf) s
  { s with boot := { s.boot with rom := true } }

/-- A DESTROY of a VF that is in progress ends with BADVF (R378). -/
def State.spoilDestroy (s : State) (vf : Nat) : State :=
  if s.mgmt.run.isSome && s.mgmt.begun && s.arg 8 2 == 2 && s.mbVf == vf then s.endCommand Status.badVf [] else s

/-- A fault contained to a bulkhead (R388): event BHFAULT with its class, then a reset of the resident VF; a second fault within 1 s of the
last RESETDONE leaves the bulkhead in reset; BH0 takes the device with it. -/
def State.bhFault (s : State) (b cls : Nat) : State :=
  let s := s.event 5 (s.bhVf b) b [BitVec.ofNat 8 cls]
  if b = 0 then s.holdAll
  else
    let again := match (s.bh b).lastDone with | some t => decide (s.wall < t + 1000000000) | none => false
    let s := match (s.cell (2 * b)).vf with
      | some vf => (s.vfReset vf).spoilDestroy vf
      | none => s.resetBh b (fun _ => true)
    s.modBh b (fun x => { x with held := x.held || again, errors := [] })

/-- BHFAULT (R388). -/
def execBhfault (b cls : Nat) (s : State) : Host.Outcome State Fault Refusal := .next (if b < 64 then s.bhFault b cls else s)

/-- The word or register at a place is poisoned (R187, R214, R432). -/
def State.poisonAt (s : State) : ErrPlace → State
  | .device w => { s with mem := { s.mem with poison := tput w true s.mem.poison } }
  | .scratch c w => s.modCell c (fun x => { x with spoison := tput w true x.spoison })
  | .landing b w => s.modLanding b (w / 8192) (fun l => { l with poison := tput (w % 8192) true l.poison })
  | .tile c t => s.modCell c (fun x => x.setTile t { x.tile t with poison := true })
  | .acc c k => s.modCell c (fun x => x.setAcc k { x.acc k with poison := true })
  | .deckle c k => s.modCell c (fun x => x.setAcc k { x.acc k with dpoison := true })

/-- The place exists: 128 slices; 49,152 words of a scratchpad is its size in words; 32 landings; 16 registers of each kind. -/
def placeExists : ErrPlace → Bool
  | .device w => decide (8 * w < 128 * sliceFrames * frameBytes)
  | .scratch c w => decide (c < 128) && decide (8 * w < 0x600000)
  | .landing b w => decide (b < 64) && decide (w < 32 * 8192)
  | .tile c t => decide (c < 128) && decide (t < 16)
  | .acc c k => decide (c < 128) && decide (k < 16)
  | .deckle c k => decide (c < 128) && decide (k < 16)

/-- The bulkhead whose storage a place is. -/
def placeBh : ErrPlace → Option Nat
  | .device _ => none
  | .scratch c _ | .tile c _ | .acc c _ | .deckle c _ => some (bhOf c)
  | .landing b _ => some b

/-- An error in a bulkhead is noted; 16 within 1 ms are a fault of the bulkhead, of class 2 (R387). -/
def State.noteError (s : State) (b : Nat) : State :=
  let l := ((s.bh b).errors.filter (fun t => decide (s.wall < t + 1000000))) ++ [s.wall]
  if 16 ≤ l.length then s.bhFault b 2 else s.modBh b (fun x => { x with errors := l })

/-- UNCORRECTABLE_ERROR (R387). -/
def execUncorrectableError (place : ErrPlace) (s : State) : Host.Outcome State Fault Refusal :=
  if !placeExists place then .next s
  else
    let s := s.poisonAt place
    .next (match placeBh place with | some b => s.noteError b | none => s)

/-- CORRECTED_ERROR (R187, R380): counted for every VF of which the bulkhead is one, resident or not. -/
def execCorrectedError (b : Nat) (s : State) : Host.Outcome State Fault Refusal :=
  .next { s with vfs := s.vfs.map (fun e => if e.2.live && (shapeBhs e.2.cfg.shape).contains b then
    (e.1, { e.2 with counters := { e.2.counters with corrected := e.2.counters.corrected + 1 } }) else e) }

/-- THERMAL (R25). -/
def execThermal (s : State) : Host.Outcome State Fault Refusal := .next (s.event 1 0xFF 0xFF [])

/-- COLD_PLATE_CRITICAL (R387). -/
def execColdPlateCritical (s : State) : Host.Outcome State Fault Refusal := .next (s.event 1 0xFF 0xFF []).holdAll

/-- COMMON_BLOCK_ERROR (R387). -/
def execCommonBlockError (s : State) : Host.Outcome State Fault Refusal := .next s.holdAll

end Sys2Proof.Machine
end

