-- ==== Sys2Proof/Machine/Rdma.lean ====
section
/-! DEFINITION. The host's access by RDMA over the Ethernet ports (R22, R285, R389 to R391), and the boot of the device (R392 to R395). -/

namespace Sys2Proof.Machine

open Sys2Proof

/-! ### Access of a connection (R390, R391) -/

/-- The die of the port of a connection: ports 0 and 1 are on die 0, ports 2 and 3 on die 1 (R21); connection n uses port n mod 4. -/
def portDie (qp : Nat) : Nat := qp % 4 / 2

def State.qp (s : State) (n : Nat) : Qp := tget {} s.qps n

/-- A refused operation: a remote-access-error NAK, and the connection's error state; it is counted for the VF (R380, R390). -/
def State.refuseRdma (s : State) (qp : Nat) : State :=
  let s := match (s.qp qp).vf with
    | some vf => s.modVf vf (fun v => { v with counters := { v.counters with rdma := v.counters.rdma + 1 } })
    | none => s
  { s with qps := tput qp { s.qp qp with err := true } s.qps, out := s.out ++ [Out.nakAccess qp] }

/-- An operation on a connection of a VF; a connection in its error state answers nothing. -/
def State.onQp (s : State) (qp : Nat) (rkey : BitVec 32) (f : Nat → Option State) : Host.Outcome State Fault Refusal :=
  let q := s.qp qp
  .next (if q.err then s
    else
      match q.vf with
      | none => s.refuseRdma qp
      | some vf =>
        if (s.vf vf).live && (s.vf vf).cfg.rkey == rkey && !s.inReset vf then (f vf).getD (s.refuseRdma qp) else s.refuseRdma qp)

/-- The first byte and the size of the boot buffer (R392). -/
def bootBuffer : Nat := sliceBase 1
def bootSize : Nat := 0x10000000

/-- The boot connection is the only one while the ROM waits for an image; it is connection 0 here, and its addresses are offsets. -/
def State.onBoot (s : State) (qp a n : Nat) (f : State) : Host.Outcome State Fault Refusal :=
  .next (if qp = 0 ∧ a + n ≤ bootSize then f else { s with out := s.out ++ [Out.nakAccess qp] })

/-- RDMA_WRITE (R390, R391): acknowledged when its writes are performed at sys. -/
def execRdmaWrite (qp : Nat) (rkey : BitVec 32) (va : Nat) (data : List Byte) (s : State) : Host.Outcome State Fault Refusal :=
  let answer (r : Nat × State) : State := { r.2 with acks := r.2.acks ++ [(qp, [r.1])] }
  if s.boot.rom then s.onBoot qp va data.length (answer (s.enterWrite 0 (placed (bootBuffer + va) data)))
  else s.onQp qp rkey (fun vf =>
    if data.isEmpty then some { s with out := s.out ++ [Out.ack qp] }
    else (s.writeVa none vf (portDie qp) va data).toOption.map answer)

/-- RDMA_READ (R390, R391). -/
def execRdmaRead (qp : Nat) (rkey : BitVec 32) (va n : Nat) (s : State) : Host.Outcome State Fault Refusal :=
  let answer (l : List Byte) : State := { s with out := s.out ++ [Out.data qp l] }
  if s.boot.rom then s.onBoot qp va n (answer (bytesAt (s.mem.view 0) (bootBuffer + va) n))
  else s.onQp qp rkey (fun vf =>
    if n = 0 then some (answer [])
    else (s.readVa none vf (portDie qp) va n).toOption.map answer)

/-- An atomic of the host executes as an l.gatom does (R287, R390), and waits while another atomic of its word is still to land; one that is not
8-byte aligned is not supported (R389). -/
def State.rdmaAtomic (s : State) (qp : Nat) (rkey : BitVec 32) (va : Nat) (f : Dword → Dword) : Host.Outcome State Fault Refusal :=
  if s.boot.rom ∨ va % 8 ≠ 0 then .next { s with out := s.out ++ [Out.nakInvalid qp] }
  else s.onQp qp rkey (fun vf =>
    match s.atomicHome none vf (portDie qp) va f with
    | .error _ => none
    | .ok (pa, old, t) =>
      if s.wordHeld pa then some s
      else
      let s := t.enterAtomic (portDie qp) (writable (placed pa (le8 (f old))))
      some { s with out := s.out ++ [Out.data qp (le8 old)] })

/-- RDMA_COMPARE_AND_SWAP (R390). -/
def execRdmaCompareAndSwap (qp : Nat) (rkey : BitVec 32) (va : Nat) (cmp new : Dword) (s : State) : Host.Outcome State Fault Refusal :=
  s.rdmaAtomic qp rkey va (fun w => if w == cmp then new else w)

/-- RDMA_FETCH_AND_ADD (R390). -/
def execRdmaFetchAndAdd (qp : Nat) (rkey : BitVec 32) (va : Nat) (add : Dword) (s : State) : Host.Outcome State Fault Refusal :=
  s.rdmaAtomic qp rkey va (fun w => w + add)

/-- RDMA_UNSUPPORTED (R389): an invalid-request NAK. -/
def execRdmaUnsupported (qp : Nat) (s : State) : Host.Outcome State Fault Refusal :=
  .next { s with out := s.out ++ [Out.nakInvalid qp] }

/-! ### Congestion and flow control (R389) -/

/-- CONGESTION_NOTIFICATION_PACKET (R389): the connection's rate does not rise; DCQCN's new rate is free. -/
def execCongestionNotificationPacket (qp : Nat) (s : State) : Host.Outcome State Fault Refusal :=
  let q := s.qp qp
  .next { s with qps := tput qp { q with rate := min q.rate (Config.loweredRate s.freeCtr) } s.qps, freeCtr := s.freeCtr + 1 }

/-- PRIORITY_FLOW_CONTROL_PAUSE (R389). -/
def execPriorityFlowControlPause (prio : BitVec 3) (pause : Bool) (s : State) : Host.Outcome State Fault Refusal :=
  let bit : BitVec 8 := (1 : BitVec 8) <<< prio.toNat
  .next { s with paused := if pause then s.paused ||| bit else s.paused &&& ~~~bit }

/-! ### Power and boot (R392 to R395) -/

/-- The measurement registers as a boot leaves them: M0, M1 and the cleared rest (R392, R395). -/
def measuredBoot (m0 m1 : Node) : Table Node := [(0, m0), (1, m1)] ++ (span 2 6).map (fun i => (i, 0))

/-- The fuses of a device without power, with nothing measured (R392). -/
def Boot.fuses (b : Boot) : Boot :=
  { b with power := false, rom := false, quotes := 0, measured := measuredBoot 0 0 }

/-- A device of which only the fuses are left, with what the model keeps for itself. -/
def State.blank (s : State) (boot : Boot) : State :=
  { agenda := s.agenda, env := s.env, freeCtr := s.freeCtr, nextId := s.nextId, out := s.out, boot := boot }

/-- POWER_OFF (R392): nothing survives but the fuses. -/
def execPowerOff (s : State) : Host.Outcome State Fault Refusal :=
  .next (s.blank s.boot.fuses)

/-- POWER_ON (R392): the boot ROM waits for an image. -/
def execPowerOn (s : State) : Host.Outcome State Fault Refusal :=
  .next (if s.boot.power then s else s.blank { s.boot.fuses with power := true, rom := true })

/-- The image that the host has written to the boot buffer, after the 24 bytes of length, request and status. -/
def State.bootImage (s : State) : List Byte :=
  let n := min (leRead (s.mem.view 0) bootBuffer 8) (bootSize - 24)
  bytesAt (s.mem.view 0) (bootBuffer + 24) n

/-- The boot ROM accepts an image (R392). -/
def State.imageOk (s : State) (l : List Byte) : Bool :=
  ofBe (sha256 (Config.imageKey l)) == s.boot.keyHash.toNat && lmsVerify (Config.imageKey l) (sha256 (Config.imageBody l)) (Config.imageSignature l) && decide (s.boot.minVersion ≤ Config.imageVersion l)

/-- The device after the bring-up of R395 by the firmware of an image: one more fuse is blown (R393), M0 and M1 are written. -/
def State.broughtUp (s : State) (l : List Byte) : State :=
  let z := State.reset
  let boot : Boot := { s.boot with rom := false, blown := s.boot.blown + 1, quotes := 0,
                                   measured := measuredBoot (hashNode (Config.imageBody l)) (hashNode Config.firmware) }
  { s.blank boot with cells := z.cells, vfs := z.vfs, qps := z.qps }

/-- BOOT_IMAGE_SUBMIT (R392): the ROM checks an image when the host has set its request; a nonzero status refuses it. -/
def execBootImageSubmit (s : State) : Host.Outcome State Fault Refusal :=
  if s.boot.rom && leRead (s.mem.view 0) (bootBuffer + 8) 8 == 1 then
    let l := s.bootImage
    .next (if s.imageOk l then s.broughtUp l else (s.enterWrite 0 (placed (bootBuffer + 16) (leBytes (Config.imageStatus l % 0xFFFF + 1) 8))).2)
  else .next s

end Sys2Proof.Machine
end

