-- ==== Sys2Proof/Machine/Sched.lean ====
section
/-! DEFINITION. The default order of the machine's steps: the issue of an engine's head word (R44, R93, R106, R107), the choice of the
words that issue in a cycle (R44, R397). Order.lean has the steps that a cycle brings about. Any other order is reached by filling the
agenda. exec is passed as ex, because the meanings do not depend on the order. -/

namespace Sys2Proof.Machine

open Sys2Proof

/-- A step of one instruction. -/
abbrev Exec := Instr → State → Host.Outcome State Fault Refusal

/-- What the issue of an engine's head word would come to. -/
inductive Try where
  | none
  | held (queue : Bool)
  | issues
  | faults
  deriving DecidableEq, Repr

def tryIssue (ex : Exec) (s : State) (c sc e : Nat) : Try :=
  match s.prepare c sc e with
  | .none => .none
  | .faulted _ => .faults
  | .held => .held false
  | .go i t =>
    match ex i t with
    | .next u => if (u.strand c sc).trap ≠ (s.strand c sc).trap then .faults else if u.cur.held then .held u.cur.heldQ else .issues
    | _ => .none

/-- The issue of an engine's head word. In a cycle in which a late fault has begun the strand's trap only a fault is taken. -/
def issueAct (ex : Exec) (s : State) (c sc e : Nat) : Host.Outcome State Fault Refusal :=
  match s.prepare c sc e with
  | .none => .next s
  | .held => .next s
  | .faulted t => .next t
  | .go i t =>
    match (s.strand c sc).trap with
    | none => ex i t
    | some tr =>
      match ex i t with
      | .next u => if (u.strand c sc).trap = some tr then .next s else .next u
      | o => o

/-- The strand whose head word an engine selects: the first ready one after the strand it issued last (R44), and whether it faults. -/
def pick (ex : Exec) (s : State) (c e : Nat) : Option (Nat × Bool) :=
  (scAfter (tget 3 (s.cell c).lastIssue e)).findSome? (fun sc =>
    match tryIssue ex s c sc e with
    | .issues => if (s.strand c sc).trap.isNone then some (sc, false) else none
    | .faults => some (sc, true)
    | _ => none)

/-- The engines of a cell that select a head word which is then held; its guard is read (R93). DESIGN CHOICE (log entry 76): the guard of every
strand's held head word is read in the first cycle in which the engine is free and no earlier fence or wait holds the word, whichever word the
engine issues then. -/
def cellSelects (ex : Exec) (s : State) (c : Nat) : List Act :=
  (upto 4).flatMap (fun sc => ([engB, engS, engL, engM].filter (fun e =>
    match ((s.cell c).strand sc).engq e with
    | x :: _ => !x.passed && (match s.prepare c sc e with | .go _ _ => (match tryIssue ex s c sc e with | .held _ => true | _ => false) | _ => false)
    | [] => false)).map (fun e => Act.select c sc e))

/-- The issues of a cycle in a cell: when words of a strand fault, only the one of the lowest engine code is taken and its other words
do not issue (R397); a B word met by a report does not issue (R276, R397). DESIGN CHOICE (log entry 66): an engine whose selected word does
not issue for this reason issues no other strand's word in that cycle; the spec does not say whether its slot is offered on. -/
def cellIssues (ex : Exec) (s : State) (c : Nat) : List Act :=
  let ps := [0, 1, 2, 3, 4, 5].filterMap (fun e => (pick ex s c e).map (fun p => (e, p.1, p.2)))
  let ps := ps.filter (fun p => match ps.find? (fun x => x.2.1 == p.2.1 && x.2.2) with | some f => f.1 == p.1 | none => true)
  ps.map (fun p =>
    let st := s.strand c p.2.1
    if p.1 == 0 && !st.reports.isEmpty && !st.handler then .run (.reportTaken c p.2.1) else .issue c p.2.1 p.1)

/-- The reading of the guard of a word that its engine has selected and that is held (R93). -/
def selectAct (ex : Exec) (s : State) (c sc e : Nat) : Host.Outcome State Fault Refusal :=
  match s.prepare c sc e with
  | .go i t =>
    match ex i t with
    | .next u => .next (if u.cur.held then u else s)
    | o => o
  | _ => .next s

/-- The timed requests of a strand that will push have pushed: a word that would then issue is held for a timed arrival (R117). -/
def State.arrived (s : State) (c sc : Nat) : State :=
  s.modStrand c sc (fun st => (s.ops c).foldl (fun x o =>
    match o.body with | .timedS d _ _ => if o.sc == sc && isQ d then x.writeS d {} else x | _ => x) st)

/-- A wait of the strand is in flight (R299, R306). -/
def waiting (x : Cell) (sc : Nat) : Bool :=
  x.ops.any (fun o => o.sc == sc && (match o.body with | .semWait .. | .barWait .. => true | _ => false))

/-- Every nonempty queue of a strand is held only for queue-register or port entries; a b.halt that waits for them does not count. A sleep,
a wait, and a hold for a timed arrival count as other holds (R117). -/
def queueHeld (ex : Exec) (s : State) (c sc : Nat) : Bool :=
  let st := s.strand c sc
  let es := st.watched
  st.st == .running && st.trap.isNone && !st.active && !es.isEmpty && st.sleepEnd.isNone && !waiting (s.cell c) sc &&
    es.all (fun e => tryIssue ex s c sc e == .held true) &&
    ((s.ops c).all (fun o => !(o.sc == sc && (match o.body with | .timedS d _ _ => isQ d | _ => false))) ||
      es.all (fun e => tryIssue ex (s.arrived c sc) c sc e == .held true))

/-- The cells in which anything may happen. -/
def State.liveCells (s : State) : List Nat := (s.cells.map (·.1)).filter (fun c => (s.cell c).vf.isSome)

end Sys2Proof.Machine
end

