-- ==== Sys2Proof/Machine/Dispatch.lean ====
section
/-! DEFINITION. The meaning of every instruction and step, one arm per constructor of Instr. -/

namespace Sys2Proof.Machine

open Sys2Proof

def exec (i : Instr) (s : State) : Host.Outcome State Fault Refusal :=
  match i with
  | .bNop x0 => Sys2Proof.Machine.execBNop x0 s
  | .bJmp x0 x1 => Sys2Proof.Machine.execBJmp x0 x1 s
  | .bJmpr x0 x1 => Sys2Proof.Machine.execBJmpr x0 x1 s
  | .bCall x0 x1 => Sys2Proof.Machine.execBCall x0 x1 s
  | .bCallr x0 x1 => Sys2Proof.Machine.execBCallr x0 x1 s
  | .bRet x0 => Sys2Proof.Machine.execBRet x0 s
  | .bLoop x0 x1 x2 x3 x4 => Sys2Proof.Machine.execBLoop x0 x1 x2 x3 x4 s
  | .bLbrk x0 x1 => Sys2Proof.Machine.execBLbrk x0 x1 s
  | .bHalt x0 => Sys2Proof.Machine.execBHalt x0 s
  | .bYield x0 => Sys2Proof.Machine.execBYield x0 s
  | .bSleep x0 x1 => Sys2Proof.Machine.execBSleep x0 x1 s
  | .bArm x0 x1 => Sys2Proof.Machine.execBArm x0 x1 s
  | .bMsg x0 x1 x2 x3 => Sys2Proof.Machine.execBMsg x0 x1 x2 x3 s
  | .bTrap x0 x1 => Sys2Proof.Machine.execBTrap x0 x1 s
  | .bSys x0 x1 => Sys2Proof.Machine.execBSys x0 x1 s
  | .bRfe x0 => Sys2Proof.Machine.execBRfe x0 s
  | .bFmt x0 x1 x2 => Sys2Proof.Machine.execBFmt x0 x1 x2 s
  | .bPpt x0 => Sys2Proof.Machine.execBPpt x0 s
  | .bPost x0 x1 => Sys2Proof.Machine.execBPost x0 x1 s
  | .bTdec x0 x1 => Sys2Proof.Machine.execBTdec x0 x1 s
  | .bCancel x0 x1 x2 => Sys2Proof.Machine.execBCancel x0 x1 x2 s
  | .bCancelL x0 x1 x2 => Sys2Proof.Machine.execBCancelL x0 x1 x2 s
  | .bLaunch x0 x1 => Sys2Proof.Machine.execBLaunch x0 x1 s
  | .bWait x0 x1 x2 => Sys2Proof.Machine.execBWait x0 x1 x2 s
  | .bSig x0 x1 x2 => Sys2Proof.Machine.execBSig x0 x1 x2 s
  | .bSmap x0 x1 x2 => Sys2Proof.Machine.execBSmap x0 x1 x2 s
  | .sAdd x0 x1 x2 x3 => Sys2Proof.Machine.execSAdd x0 x1 x2 x3 s
  | .sSub x0 x1 x2 x3 => Sys2Proof.Machine.execSSub x0 x1 x2 x3 s
  | .sAddi x0 x1 x2 x3 => Sys2Proof.Machine.execSAddi x0 x1 x2 x3 s
  | .sMul x0 x1 x2 x3 => Sys2Proof.Machine.execSMul x0 x1 x2 x3 s
  | .sMulh x0 x1 x2 x3 => Sys2Proof.Machine.execSMulh x0 x1 x2 x3 s
  | .sMulhn x0 x1 x2 x3 => Sys2Proof.Machine.execSMulhn x0 x1 x2 x3 s
  | .sDiv x0 x1 x2 x3 => Sys2Proof.Machine.execSDiv x0 x1 x2 x3 s
  | .sDivn x0 x1 x2 x3 => Sys2Proof.Machine.execSDivn x0 x1 x2 x3 s
  | .sRem x0 x1 x2 x3 => Sys2Proof.Machine.execSRem x0 x1 x2 x3 s
  | .sRemn x0 x1 x2 x3 => Sys2Proof.Machine.execSRemn x0 x1 x2 x3 s
  | .sAnd x0 x1 x2 x3 => Sys2Proof.Machine.execSAnd x0 x1 x2 x3 s
  | .sOr x0 x1 x2 x3 => Sys2Proof.Machine.execSOr x0 x1 x2 x3 s
  | .sXor x0 x1 x2 x3 => Sys2Proof.Machine.execSXor x0 x1 x2 x3 s
  | .sAndn x0 x1 x2 x3 => Sys2Proof.Machine.execSAndn x0 x1 x2 x3 s
  | .sShl x0 x1 x2 x3 => Sys2Proof.Machine.execSShl x0 x1 x2 x3 s
  | .sShr x0 x1 x2 x3 => Sys2Proof.Machine.execSShr x0 x1 x2 x3 s
  | .sSra x0 x1 x2 x3 => Sys2Proof.Machine.execSSra x0 x1 x2 x3 s
  | .sRot x0 x1 x2 x3 => Sys2Proof.Machine.execSRot x0 x1 x2 x3 s
  | .sShli x0 x1 x2 x3 => Sys2Proof.Machine.execSShli x0 x1 x2 x3 s
  | .sShri x0 x1 x2 x3 => Sys2Proof.Machine.execSShri x0 x1 x2 x3 s
  | .sSrai x0 x1 x2 x3 => Sys2Proof.Machine.execSSrai x0 x1 x2 x3 s
  | .sMin x0 x1 x2 x3 => Sys2Proof.Machine.execSMin x0 x1 x2 x3 s
  | .sMax x0 x1 x2 x3 => Sys2Proof.Machine.execSMax x0 x1 x2 x3 s
  | .sMinn x0 x1 x2 x3 => Sys2Proof.Machine.execSMinn x0 x1 x2 x3 s
  | .sMaxn x0 x1 x2 x3 => Sys2Proof.Machine.execSMaxn x0 x1 x2 x3 s
  | .sClz x0 x1 x2 => Sys2Proof.Machine.execSClz x0 x1 x2 s
  | .sPopc x0 x1 x2 => Sys2Proof.Machine.execSPopc x0 x1 x2 s
  | .sExt x0 x1 x2 x3 => Sys2Proof.Machine.execSExt x0 x1 x2 x3 s
  | .sIns x0 x1 x2 x3 => Sys2Proof.Machine.execSIns x0 x1 x2 x3 s
  | .sMov x0 x1 x2 => Sys2Proof.Machine.execSMov x0 x1 x2 s
  | .sLi x0 x1 x2 => Sys2Proof.Machine.execSLi x0 x1 x2 s
  | .sCmp x0 x1 x2 x3 x4 => Sys2Proof.Machine.execSCmp x0 x1 x2 x3 x4 s
  | .sCmpi x0 x1 x2 x3 x4 => Sys2Proof.Machine.execSCmpi x0 x1 x2 x3 x4 s
  | .sPand x0 x1 x2 x3 => Sys2Proof.Machine.execSPand x0 x1 x2 x3 s
  | .sPor x0 x1 x2 x3 => Sys2Proof.Machine.execSPor x0 x1 x2 x3 s
  | .sPxor x0 x1 x2 x3 => Sys2Proof.Machine.execSPxor x0 x1 x2 x3 s
  | .sPnot x0 x1 x2 => Sys2Proof.Machine.execSPnot x0 x1 x2 s
  | .sWid x0 x1 x2 => Sys2Proof.Machine.execSWid x0 x1 x2 s
  | .sRdsr x0 x1 x2 => Sys2Proof.Machine.execSRdsr x0 x1 x2 s
  | .sWrsr x0 x1 x2 => Sys2Proof.Machine.execSWrsr x0 x1 x2 s
  | .sRdcyc x0 x1 => Sys2Proof.Machine.execSRdcyc x0 x1 s
  | .sChk x0 x1 => Sys2Proof.Machine.execSChk x0 x1 s
  | .vFadd x0 x1 x2 x3 => Sys2Proof.Machine.execVFadd x0 x1 x2 x3 s
  | .vFsub x0 x1 x2 x3 => Sys2Proof.Machine.execVFsub x0 x1 x2 x3 s
  | .vFmul x0 x1 x2 x3 => Sys2Proof.Machine.execVFmul x0 x1 x2 x3 s
  | .vFfma x0 x1 x2 x3 => Sys2Proof.Machine.execVFfma x0 x1 x2 x3 s
  | .vFmin x0 x1 x2 x3 => Sys2Proof.Machine.execVFmin x0 x1 x2 x3 s
  | .vFmax x0 x1 x2 x3 => Sys2Proof.Machine.execVFmax x0 x1 x2 x3 s
  | .vFabs x0 x1 x2 => Sys2Proof.Machine.execVFabs x0 x1 x2 s
  | .vIadd x0 x1 x2 x3 => Sys2Proof.Machine.execVIadd x0 x1 x2 x3 s
  | .vIsub x0 x1 x2 x3 => Sys2Proof.Machine.execVIsub x0 x1 x2 x3 s
  | .vImul x0 x1 x2 x3 => Sys2Proof.Machine.execVImul x0 x1 x2 x3 s
  | .vImin x0 x1 x2 x3 => Sys2Proof.Machine.execVImin x0 x1 x2 x3 s
  | .vImax x0 x1 x2 x3 => Sys2Proof.Machine.execVImax x0 x1 x2 x3 s
  | .vAnd x0 x1 x2 x3 => Sys2Proof.Machine.execVAnd x0 x1 x2 x3 s
  | .vOr x0 x1 x2 x3 => Sys2Proof.Machine.execVOr x0 x1 x2 x3 s
  | .vXor x0 x1 x2 x3 => Sys2Proof.Machine.execVXor x0 x1 x2 x3 s
  | .vShl x0 x1 x2 x3 => Sys2Proof.Machine.execVShl x0 x1 x2 x3 s
  | .vShr x0 x1 x2 x3 => Sys2Proof.Machine.execVShr x0 x1 x2 x3 s
  | .vSra x0 x1 x2 x3 => Sys2Proof.Machine.execVSra x0 x1 x2 x3 s
  | .vFcmp x0 x1 x2 x3 x4 => Sys2Proof.Machine.execVFcmp x0 x1 x2 x3 x4 s
  | .vIcmp x0 x1 x2 x3 x4 => Sys2Proof.Machine.execVIcmp x0 x1 x2 x3 x4 s
  | .vMov x0 x1 x2 => Sys2Proof.Machine.execVMov x0 x1 x2 s
  | .vBcast x0 x1 x2 => Sys2Proof.Machine.execVBcast x0 x1 x2 s
  | .vMvs x0 x1 x2 x3 => Sys2Proof.Machine.execVMvs x0 x1 x2 x3 s
  | .vIns x0 x1 x2 x3 => Sys2Proof.Machine.execVIns x0 x1 x2 x3 s
  | .vPerm x0 x1 x2 x3 => Sys2Proof.Machine.execVPerm x0 x1 x2 x3 s
  | .vVid x0 x1 => Sys2Proof.Machine.execVVid x0 x1 s
  | .vRedsum x0 x1 x2 => Sys2Proof.Machine.execVRedsum x0 x1 x2 s
  | .vRedmax x0 x1 x2 => Sys2Proof.Machine.execVRedmax x0 x1 x2 s
  | .vRedmaxi x0 x1 x2 => Sys2Proof.Machine.execVRedmaxi x0 x1 x2 s
  | .vRedmin x0 x1 x2 => Sys2Proof.Machine.execVRedmin x0 x1 x2 s
  | .vScan x0 x1 x2 x3 => Sys2Proof.Machine.execVScan x0 x1 x2 x3 s
  | .vCvt x0 x1 x2 x3 x4 x5 => Sys2Proof.Machine.execVCvt x0 x1 x2 x3 x4 x5 s
  | .vPack x0 x1 x2 x3 x4 => Sys2Proof.Machine.execVPack x0 x1 x2 x3 x4 s
  | .vUnpk x0 x1 x2 x3 x4 => Sys2Proof.Machine.execVUnpk x0 x1 x2 x3 x4 s
  | .vScal x0 x1 x2 x3 x4 => Sys2Proof.Machine.execVScal x0 x1 x2 x3 x4 s
  | .vDraw x0 x1 x2 x3 => Sys2Proof.Machine.execVDraw x0 x1 x2 x3 s
  | .vChk x0 x1 => Sys2Proof.Machine.execVChk x0 x1 s
  | .vMand x0 x1 x2 x3 => Sys2Proof.Machine.execVMand x0 x1 x2 x3 s
  | .vMor x0 x1 x2 x3 => Sys2Proof.Machine.execVMor x0 x1 x2 x3 s
  | .vMnot x0 x1 x2 => Sys2Proof.Machine.execVMnot x0 x1 x2 s
  | .vMpop x0 x1 x2 => Sys2Proof.Machine.execVMpop x0 x1 x2 s
  | .xExp2 x0 x1 x2 => Sys2Proof.Machine.execXExp2 x0 x1 x2 s
  | .xLog2 x0 x1 x2 => Sys2Proof.Machine.execXLog2 x0 x1 x2 s
  | .xRcp x0 x1 x2 => Sys2Proof.Machine.execXRcp x0 x1 x2 s
  | .xRsqrt x0 x1 x2 => Sys2Proof.Machine.execXRsqrt x0 x1 x2 s
  | .xSqrt x0 x1 x2 => Sys2Proof.Machine.execXSqrt x0 x1 x2 s
  | .xTanh x0 x1 x2 => Sys2Proof.Machine.execXTanh x0 x1 x2 s
  | .xSigm x0 x1 x2 => Sys2Proof.Machine.execXSigm x0 x1 x2 s
  | .lLds x0 x1 x2 x3 => Sys2Proof.Machine.execLLds x0 x1 x2 x3 s
  | .lSts x0 x1 x2 x3 => Sys2Proof.Machine.execLSts x0 x1 x2 x3 s
  | .lLdvs x0 x1 x2 x3 => Sys2Proof.Machine.execLLdvs x0 x1 x2 x3 s
  | .lStvs x0 x1 x2 x3 => Sys2Proof.Machine.execLStvs x0 x1 x2 x3 s
  | .lLdt x0 x1 x2 x3 x4 x5 => Sys2Proof.Machine.execLLdt x0 x1 x2 x3 x4 x5 s
  | .lAtom x0 x1 x2 x3 x4 => Sys2Proof.Machine.execLAtom x0 x1 x2 x3 x4 s
  | .lHnew x0 x1 x2 x3 => Sys2Proof.Machine.execLHnew x0 x1 x2 x3 s
  | .lHfree x0 x1 => Sys2Proof.Machine.execLHfree x0 x1 s
  | .lHinfo x0 x1 x2 x3 => Sys2Proof.Machine.execLHinfo x0 x1 x2 x3 s
  | .lLdl x0 x1 x2 x3 x4 x5 => Sys2Proof.Machine.execLLdl x0 x1 x2 x3 x4 x5 s
  | .lRel x0 x1 => Sys2Proof.Machine.execLRel x0 x1 s
  | .lLdg x0 x1 x2 x3 x4 => Sys2Proof.Machine.execLLdg x0 x1 x2 x3 x4 s
  | .lStg x0 x1 x2 x3 => Sys2Proof.Machine.execLStg x0 x1 x2 x3 s
  | .lLdvg x0 x1 x2 x3 x4 => Sys2Proof.Machine.execLLdvg x0 x1 x2 x3 x4 s
  | .lStvg x0 x1 x2 x3 => Sys2Proof.Machine.execLStvg x0 x1 x2 x3 s
  | .lGatom x0 x1 x2 x3 x4 => Sys2Proof.Machine.execLGatom x0 x1 x2 x3 x4 s
  | .lPref x0 x1 x2 => Sys2Proof.Machine.execLPref x0 x1 x2 s
  | .lLdtg x0 x1 x2 x3 x4 x5 => Sys2Proof.Machine.execLLdtg x0 x1 x2 x3 x4 x5 s
  | .lLdk x0 x1 x2 x3 x4 x5 => Sys2Proof.Machine.execLLdk x0 x1 x2 x3 x4 x5 s
  | .lStk x0 x1 x2 x3 => Sys2Proof.Machine.execLStk x0 x1 x2 x3 s
  | .lKfork x0 x1 x2 => Sys2Proof.Machine.execLKfork x0 x1 x2 s
  | .lKfree x0 x1 => Sys2Proof.Machine.execLKfree x0 x1 s
  | .lRatom x0 x1 x2 x3 x4 => Sys2Proof.Machine.execLRatom x0 x1 x2 x3 x4 s
  | .lBarr x0 x1 x2 x3 => Sys2Proof.Machine.execLBarr x0 x1 x2 x3 s
  | .lBarw x0 x1 x2 x3 => Sys2Proof.Machine.execLBarw x0 x1 x2 x3 s
  | .lBare x0 x1 x2 x3 => Sys2Proof.Machine.execLBare x0 x1 x2 x3 s
  | .lFence x0 x1 x2 => Sys2Proof.Machine.execLFence x0 x1 x2 s
  | .lTfence x0 x1 => Sys2Proof.Machine.execLTfence x0 x1 s
  | .mFuse x0 x1 => Sys2Proof.Machine.execMFuse x0 x1 s
  | .mZero x0 x1 => Sys2Proof.Machine.execMZero x0 x1 s
  | .mMma x0 x1 x2 x3 x4 x5 x6 => Sys2Proof.Machine.execMMma x0 x1 x2 x3 x4 x5 x6 s
  | .mMmaw x0 x1 x2 x3 x4 x5 x6 => Sys2Proof.Machine.execMMmaw x0 x1 x2 x3 x4 x5 x6 s
  | .mDrain x0 x1 x2 x3 => Sys2Proof.Machine.execMDrain x0 x1 x2 x3 s
  | .mDrainQ x0 x1 x2 => Sys2Proof.Machine.execMDrainQ x0 x1 x2 s
  | .mDrainPeer x0 x1 x2 x3 => Sys2Proof.Machine.execMDrainPeer x0 x1 x2 x3 s
  | .mScale x0 x1 x2 => Sys2Proof.Machine.execMScale x0 x1 x2 s
  | .mDkr x0 x1 x2 x3 => Sys2Proof.Machine.execMDkr x0 x1 x2 x3 s
  | .mDkw x0 x1 x2 x3 => Sys2Proof.Machine.execMDkw x0 x1 x2 x3 s
  | .mTfree x0 x1 => Sys2Proof.Machine.execMTfree x0 x1 s
  | .mMwait x0 x1 => Sys2Proof.Machine.execMMwait x0 x1 s
  | .mMsave x0 x1 x2 x3 => Sys2Proof.Machine.execMMsave x0 x1 x2 x3 s
  | .mMrest x0 x1 x2 x3 => Sys2Proof.Machine.execMMrest x0 x1 x2 x3 s
  | .mChb x0 x1 x2 x3 x4 => Sys2Proof.Machine.execMChb x0 x1 x2 x3 x4 s
  | .mChs x0 x1 x2 x3 => Sys2Proof.Machine.execMChs x0 x1 x2 x3 s
  | .mCheQ x0 x1 => Sys2Proof.Machine.execMCheQ x0 x1 s
  | .mChe x0 x1 x2 => Sys2Proof.Machine.execMChe x0 x1 x2 s
  | .mChsv x0 x1 x2 => Sys2Proof.Machine.execMChsv x0 x1 x2 s
  | .mChld x0 x1 x2 => Sys2Proof.Machine.execMChld x0 x1 x2 s
  | .fLi x0 x1 => Sys2Proof.Machine.execFLi x0 x1 s
  | .fAdd x0 x1 x2 => Sys2Proof.Machine.execFAdd x0 x1 x2 s
  | .fJmp x0 => Sys2Proof.Machine.execFJmp x0 s
  | .fLoop x0 x1 => Sys2Proof.Machine.execFLoop x0 x1 s
  | .fEnd => Sys2Proof.Machine.execFEnd s
  | .fCopy x0 x1 => Sys2Proof.Machine.execFCopy x0 x1 s
  | .fXlist x0 x1 => Sys2Proof.Machine.execFXlist x0 x1 s
  | .fGath x0 x1 => Sys2Proof.Machine.execFGath x0 x1 s
  | .fScat x0 x1 => Sys2Proof.Machine.execFScat x0 x1 s
  | .fKvcp x0 x1 => Sys2Proof.Machine.execFKvcp x0 x1 s
  | .fSvm x0 x1 => Sys2Proof.Machine.execFSvm x0 x1 s
  | .fRing x0 x1 => Sys2Proof.Machine.execFRing x0 x1 s
  | .fColl x0 x1 x2 => Sys2Proof.Machine.execFColl x0 x1 x2 s
  | .fWait x0 x1 => Sys2Proof.Machine.execFWait x0 x1 s
  | .fSig x0 x1 => Sys2Proof.Machine.execFSig x0 x1 s
  | .fBar x0 x1 x2 => Sys2Proof.Machine.execFBar x0 x1 x2 s
  | .fFence x0 x1 => Sys2Proof.Machine.execFFence x0 x1 s
  | .pExt x0 => Sys2Proof.Machine.execPExt x0 s
  | .fetch x0 => Sys2Proof.Machine.execFetch x0 s
  | .launchQueuePoll => Sys2Proof.Machine.execLaunchQueuePoll s
  | .launchStart x0 x1 => Sys2Proof.Machine.execLaunchStart x0 x1 s
  | .launchAcknowledgement x0 x1 => Sys2Proof.Machine.execLaunchAcknowledgement x0 x1 s
  | .overflowLaunchStart x0 => Sys2Proof.Machine.execOverflowLaunchStart x0 s
  | .itemTake x0 => Sys2Proof.Machine.execItemTake x0 s
  | .itemAging x0 x1 => Sys2Proof.Machine.execItemAging x0 x1 s
  | .flumeStreamStart x0 => Sys2Proof.Machine.execFlumeStreamStart x0 s
  | .itemCompletion x0 x1 => Sys2Proof.Machine.execItemCompletion x0 x1 s
  | .shareComplete x0 x1 => Sys2Proof.Machine.execShareComplete x0 x1 s
  | .launchCompletion x0 => Sys2Proof.Machine.execLaunchCompletion x0 s
  | .timedArrival x0 x1 => Sys2Proof.Machine.execTimedArrival x0 x1 s
  | .lateDataLanding x0 x1 => Sys2Proof.Machine.execLateDataLanding x0 x1 s
  | .errorResponse x0 x1 => Sys2Proof.Machine.execErrorResponse x0 x1 s
  | .watchdog x0 x1 => Sys2Proof.Machine.execWatchdog x0 x1 s
  | .qdead x0 x1 => Sys2Proof.Machine.execQdead x0 x1 s
  | .sleepEnd x0 x1 => Sys2Proof.Machine.execSleepEnd x0 x1 s
  | .messageStore x0 => Sys2Proof.Machine.execMessageStore x0 s
  | .sendBufferRelease x0 x1 => Sys2Proof.Machine.execSendBufferRelease x0 x1 s
  | .messageDelivery x0 x1 => Sys2Proof.Machine.execMessageDelivery x0 x1 s
  | .itemCancellation x0 => Sys2Proof.Machine.execItemCancellation x0 s
  | .tileLoadComplete x0 x1 => Sys2Proof.Machine.execTileLoadComplete x0 x1 s
  | .handleFree x0 x1 => Sys2Proof.Machine.execHandleFree x0 x1 s
  | .landingAutoFree x0 x1 => Sys2Proof.Machine.execLandingAutoFree x0 x1 s
  | .peerAccessAtOwner x0 => Sys2Proof.Machine.execPeerAccessAtOwner x0 s
  | .remoteAtomicAtOwner x0 => Sys2Proof.Machine.execRemoteAtomicAtOwner x0 s
  | .sideClaim x0 x1 => Sys2Proof.Machine.execSideClaim x0 x1 s
  | .chunkResult x0 x1 => Sys2Proof.Machine.execChunkResult x0 x1 s
  | .drainCompletion x0 x1 => Sys2Proof.Machine.execDrainCompletion x0 x1 s
  | .resultQueueRowPush x0 x1 => Sys2Proof.Machine.execResultQueueRowPush x0 x1 s
  | .peerAddition x0 => Sys2Proof.Machine.execPeerAddition x0 s
  | .peerDrainAck x0 x1 => Sys2Proof.Machine.execPeerDrainAck x0 x1 s
  | .mrestCompletion x0 x1 => Sys2Proof.Machine.execMrestCompletion x0 x1 s
  | .chainValuePhase x0 => Sys2Proof.Machine.execChainValuePhase x0 s
  | .chainStepCompletion x0 => Sys2Proof.Machine.execChainStepCompletion x0 s
  | .chainClose x0 x1 => Sys2Proof.Machine.execChainClose x0 x1 s
  | .chldCompletion x0 x1 => Sys2Proof.Machine.execChldCompletion x0 x1 s
  | .taskEntry x0 => Sys2Proof.Machine.execTaskEntry x0 s
  | .taskStart x0 => Sys2Proof.Machine.execTaskStart x0 s
  | .taskSteal x0 x1 => Sys2Proof.Machine.execTaskSteal x0 x1 s
  | .taskChunkIssue x0 x1 => Sys2Proof.Machine.execTaskChunkIssue x0 x1 s
  | .taskDrainCheck x0 x1 => Sys2Proof.Machine.execTaskDrainCheck x0 x1 s
  | .taskCompletion x0 x1 => Sys2Proof.Machine.execTaskCompletion x0 x1 s
  | .taskDecrement x0 => Sys2Proof.Machine.execTaskDecrement x0 s
  | .taskAging x0 x1 => Sys2Proof.Machine.execTaskAging x0 x1 s
  | .reportTaken x0 x1 => Sys2Proof.Machine.execReportTaken x0 x1 s
  | .branchCancellation x0 => Sys2Proof.Machine.execBranchCancellation x0 s
  | .semaphoreSignalArrival x0 => Sys2Proof.Machine.execSemaphoreSignalArrival x0 s
  | .semaphoreWaitArrival x0 => Sys2Proof.Machine.execSemaphoreWaitArrival x0 s
  | .semaphoreGrantLanding x0 x1 => Sys2Proof.Machine.execSemaphoreGrantLanding x0 x1 s
  | .smapApply x0 x1 => Sys2Proof.Machine.execSmapApply x0 x1 s
  | .fenceRetirement x0 x1 => Sys2Proof.Machine.execFenceRetirement x0 x1 s
  | .barwRetirement x0 x1 => Sys2Proof.Machine.execBarwRetirement x0 x1 s
  | .remoteWaiterRetry x0 x1 => Sys2Proof.Machine.execRemoteWaiterRetry x0 x1 s
  | .writePropagation x0 x1 => Sys2Proof.Machine.execWritePropagation x0 x1 s
  | .gatomAtHome x0 => Sys2Proof.Machine.execGatomAtHome x0 s
  | .demandZeroInstall x0 x1 => Sys2Proof.Machine.execDemandZeroInstall x0 x1 s
  | .frameReturn x0 => Sys2Proof.Machine.execFrameReturn x0 s
  | .storeAcknowledgement x0 x1 => Sys2Proof.Machine.execStoreAcknowledgement x0 x1 s
  | .kvStoreApply x0 => Sys2Proof.Machine.execKvStoreApply x0 s
  | .kvForkApply x0 => Sys2Proof.Machine.execKvForkApply x0 s
  | .kvFreeApply x0 => Sys2Proof.Machine.execKvFreeApply x0 s
  | .kvPageOperation x0 x1 => Sys2Proof.Machine.execKvPageOperation x0 x1 s
  | .flumePiece x0 x1 => Sys2Proof.Machine.execFlumePiece x0 x1 s
  | .flumeOperationEnd x0 x1 => Sys2Proof.Machine.execFlumeOperationEnd x0 x1 s
  | .svmRun x0 => Sys2Proof.Machine.execSvmRun x0 s
  | .torusPacketArrival x0 => Sys2Proof.Machine.execTorusPacketArrival x0 s
  | .ringPieceAtTarget x0 => Sys2Proof.Machine.execRingPieceAtTarget x0 s
  | .collectiveStep x0 x1 => Sys2Proof.Machine.execCollectiveStep x0 x1 s
  | .goneNotice x0 => Sys2Proof.Machine.execGoneNotice x0 s
  | .abortNotice x0 x1 => Sys2Proof.Machine.execAbortNotice x0 x1 s
  | .linkdown x0 => Sys2Proof.Machine.execLinkdown x0 s
  | .mgmtPoll => Sys2Proof.Machine.execMgmtPoll s
  | .create x0 => Sys2Proof.Machine.execCreate x0 s
  | .destroy x0 => Sys2Proof.Machine.execDestroy x0 s
  | .reset x0 => Sys2Proof.Machine.execReset x0 s
  | .window x0 => Sys2Proof.Machine.execWindow x0 s
  | .keyload x0 => Sys2Proof.Machine.execKeyload x0 s
  | .peertab x0 => Sys2Proof.Machine.execPeertab x0 s
  | .setquota x0 => Sys2Proof.Machine.execSetquota x0 s
  | .stats x0 => Sys2Proof.Machine.execStats x0 s
  | .quote x0 => Sys2Proof.Machine.execQuote x0 s
  | .measure x0 => Sys2Proof.Machine.execMeasure x0 s
  | .pod x0 => Sys2Proof.Machine.execPod x0 s
  | .bindqp x0 => Sys2Proof.Machine.execBindqp x0 s
  | .schedSet x0 => Sys2Proof.Machine.execSchedSet x0 s
  | .schedSwitch x0 => Sys2Proof.Machine.execSchedSwitch x0 s
  | .schedRelease x0 => Sys2Proof.Machine.execSchedRelease x0 s
  | .lcancel x0 => Sys2Proof.Machine.execLcancel x0 s
  | .bhfault x0 x1 => Sys2Proof.Machine.execBhfault x0 x1 s
  | .uncorrectableError x0 => Sys2Proof.Machine.execUncorrectableError x0 s
  | .correctedError x0 => Sys2Proof.Machine.execCorrectedError x0 s
  | .thermal => Sys2Proof.Machine.execThermal s
  | .coldPlateCritical => Sys2Proof.Machine.execColdPlateCritical s
  | .commonBlockError => Sys2Proof.Machine.execCommonBlockError s
  | .rdmaWrite x0 x1 x2 x3 => Sys2Proof.Machine.execRdmaWrite x0 x1 x2 x3 s
  | .rdmaRead x0 x1 x2 x3 => Sys2Proof.Machine.execRdmaRead x0 x1 x2 x3 s
  | .rdmaCompareAndSwap x0 x1 x2 x3 x4 => Sys2Proof.Machine.execRdmaCompareAndSwap x0 x1 x2 x3 x4 s
  | .rdmaFetchAndAdd x0 x1 x2 x3 => Sys2Proof.Machine.execRdmaFetchAndAdd x0 x1 x2 x3 s
  | .rdmaUnsupported x0 => Sys2Proof.Machine.execRdmaUnsupported x0 s
  | .powerOn => Sys2Proof.Machine.execPowerOn s
  | .bootImageSubmit => Sys2Proof.Machine.execBootImageSubmit s
  | .trapEntry x0 x1 => Sys2Proof.Machine.execTrapEntry x0 x1 s
  | .partitionReset x0 => Sys2Proof.Machine.execPartitionReset x0 s
  | .switchTick x0 => Sys2Proof.Machine.execSwitchTick x0 s
  | .strandSwitchStop x0 x1 => Sys2Proof.Machine.execStrandSwitchStop x0 x1 s
  | .cellClose x0 => Sys2Proof.Machine.execCellClose x0 s
  | .yarderSave x0 x1 => Sys2Proof.Machine.execYarderSave x0 x1 s
  | .saveDeadline x0 => Sys2Proof.Machine.execSaveDeadline x0 s
  | .restore x0 => Sys2Proof.Machine.execRestore x0 s
  | .flumeFetch x0 => Sys2Proof.Machine.execFlumeFetch x0 s
  | .bulkheadResetComplete x0 => Sys2Proof.Machine.execBulkheadResetComplete x0 s
  | .powerOff => Sys2Proof.Machine.execPowerOff s
  | .packageResetOrLoss x0 => Sys2Proof.Machine.execPackageResetOrLoss x0 s
  | .congestionNotificationPacket x0 => Sys2Proof.Machine.execCongestionNotificationPacket x0 s
  | .priorityFlowControlPause x0 x1 => Sys2Proof.Machine.execPriorityFlowControlPause x0 x1 s

end Sys2Proof.Machine
end

