-- ==== Sys2Proof/Machine/Order.lean ====
section
/-! DEFINITION. The default order: what a cell cycle of the device brings about when the agenda is empty. Every step that is due is taken as
soon as its rule allows; a step that is not due changes nothing. Any other order that the rules allow is reached by filling the agenda. -/

namespace Sys2Proof.Machine

open Sys2Proof

/-- A step of the machine. -/
abbrev Ev := State → Host.Outcome State Fault Refusal

/-- A step after another. -/
def thenEv (r : Host.Outcome State Fault Refusal) (f : Ev) : Host.Outcome State Fault Refusal :=
  match r with
  | .next s => f s
  | r => r

/-- Steps in turn. -/
def inTurn (l : List Ev) (s : State) : Host.Outcome State Fault Refusal := l.foldl thenEv (.next s)

/-- Steps in turn for each of the things that the state at the start lists. -/
def forAll {α : Type} (l : State → List α) (f : α → Ev) (s : State) : Host.Outcome State Fault Refusal := inTurn ((l s).map f) s

/-- Steps over a list that each may shorten, from its head on: place i is tried again when its element has left. -/
def sweep (len : State → Nat) (f : Nat → Ev) : Nat → Nat → Ev
  | 0, _, s => .next s
  | n + 1, i, s =>
    match f i s with
    | .next t => sweep len f n (if len t < len s then i else i + 1) t
    | r => r

/-- A sweep over the whole of a list. -/
def sweepAll (len : State → Nat) (f : Nat → Ev) (s : State) : Host.Outcome State Fault Refusal := sweep len f (len s) 0 s

/-! ### What is due in a cell (R46 to R52) -/

/-- The completion of an operation, by what it does. -/
def completeOp (c id : Nat) (s : State) : Host.Outcome State Fault Refusal :=
  match s.findOp c id with
  | none => .next s
  | some o =>
    let frozen := (s.cell c).frozenOn.contains id
    let answer (onTime : Ev) : Host.Outcome State Fault Refusal :=
      if o.err.isSome then execErrorResponse c id s
      else if frozen then thenEv (execLateDataLanding c id s) (execWatchdog c id)
      else onTime s
    match o.body with
    | .timedS .. | .timedV .. | .timedT .. => answer (execTimedArrival c id)
    | .store | .stk _ | .kfork .. => answer (execStoreAcknowledgement c id)
    | .msg _ => if o.err.isSome then execErrorResponse c id s else thenEv (execSendBufferRelease c id s) (execWatchdog c id)
    | .launch .. => thenEv (execLaunchAcknowledgement c id s) (execWatchdog c id)
    | .fence .. | .barRel .. => thenEv (execFenceRetirement c o.sc s) (execWatchdog c id)
    | .semWait .. => execSemaphoreGrantLanding c o.sc s
    | .barWait .. => thenEv (execBarwRetirement c o.sc s) (execRemoteWaiterRetry c o.sc)
    | .sload (.t ..) .. => execTileLoadComplete c id s
    | .chunk _ => execChunkResult c id s
    | .mlines _ _ _ _ w =>
      (match w with
       | .drain _ => execDrainCompletion c id s
       | .mrest _ => execMrestCompletion c id s
       | .chld => execChldCompletion c id s
       | .msave | .chsv => .next s)
    | .drainQ .. => execResultQueueRowPush c id s
    | .drainP _ => thenEv (execPeerDrainAck c id s) (execWatchdog c id)
    | .che .. => thenEv (execResultQueueRowPush c id s) (execChainClose c id)
    | .peerAdd .. => execPeerAddition id s
    | .frame | .rfe _ => thenEv (.next (s.finishFrame c o)) (execWatchdog c id)
    | _ => .next s

/-- An operation that is due: a global atomic executes at its home when its answer is due, and lands (R287). -/
def dueOp (c id : Nat) (s : State) : Host.Outcome State Fault Refusal :=
  match s.findOp c id with
  | none => .next s
  | some o =>
    match o.req with
    | some (.gatom ..) => if o.due ≤ (s.cell c).time then thenEv (execGatomAtHome id s) (completeOp c id) else .next s
    | _ => completeOp c id s

/-- The strands of a cell. -/
def eachStrand (f : Nat → Ev) (s : State) : Host.Outcome State Fault Refusal := inTurn ((upto 4).map f) s

/-- The handles of a cell's table, and of its bulkhead's, that wait to be freed. -/
def waitingEntries (c : Nat) (s : State) : List Nat := ((s.cell c).table.filter (fun e => e.2.refused)).map (fun e => e.1)
def waitingLandings (c : Nat) (s : State) : List Nat := ((s.bh (bhOf c)).landings.filter (fun e => e.2.refused)).map (fun e => e.1)

/-- The operations of a cell, oldest first; launches follow by ascending strand number (R140). Late faults take their order from the slots that
they fill (R399). -/
def dueOps (c : Nat) (s : State) : List Nat :=
  let key (o : Op) : Nat := match o.body with | .launch .. => o.sc + 1 | _ => 0
  (sortBy (fun (a b : Op) => decide (key a < key b)) (s.ops c)).map (fun o => o.id)

/-- What is due in a cell in this cycle. -/
def dueAct (c : Nat) (s : State) : Host.Outcome State Fault Refusal :=
  inTurn [forAll (dueOps c) (dueOp c), execChainValuePhase c, execChainStepCompletion c,
    forAll (waitingEntries c) (fun i => execHandleFree c i),
    forAll (waitingLandings c) (fun n => (fun s => thenEv (execHandleFree c (512 + n) s) (execLandingAutoFree (bhOf c) n))),
    eachStrand (execSleepEnd c), eachStrand (execTrapEntry c), eachStrand (execStrandSwitchStop c),
    eachStrand (execMessageDelivery c), eachStrand (execItemCompletion c), eachStrand (fun _ => execItemTake c)] s

/-! ### Issue and cell port -/

/-- The claims, guard readings, issues and accesses of a cell in this cycle: M before L at the port (R185, R186). -/
def cellActs (ex : Exec) (s : State) (c : Nat) : List Act :=
  let sides := (upto 2).filter (fun d => s.claimed c d)
  let isL (a : Act) : Bool := match a with | .issue _ _ e => e == engL | _ => false
  -- an item completes in the cycle in which its b.halt does (R52)
  let ends (a : Act) : Option Act := match a with | .issue _ sc 0 => some (.run (.itemCompletion c sc)) | _ => none
  -- the word issues in the cycle in which its side becomes STRAND (R209)
  let t := match inTurn (sides.map (execSideClaim c)) s with | .next t => t | _ => s
  let l := cellIssues ex t c
  sides.map (fun d => .run (.sideClaim c d)) ++ cellSelects ex t c ++ l.filter (fun a => !isL a) ++ l.filter isL ++ l.filterMap ends ++
    [.port c]

/-- The issues of the streams: an update of a barrier object passes the fill port, which comes after the cell ports (R186). -/
def flumeActs (s : State) : List Act := (s.liveCells.filter (fun c => (s.flumeReady c).isSome)).map .flume

/-- The accesses of a cell at its port: the chain, M operations oldest first, L (R185, R220, R246). -/
def portAct (s : State) (c : Nat) : State :=
  if !(s.cell c).runs then s
  else
    let (s, banks) := s.portChain c
    let banks := banks ++ (s.cell c).taken
    let s := s.modCell c (fun x => { x with taken := [] })
    let r := ((s.ops c).map (fun o => o.id)).foldl (fun (e : State × List Nat) id =>
      match e.1.findOp c id with
      | some o => e.1.portLines c o e.2
      | none => e) (s, banks)
    r.1.portL c r.2

/-- A result in flight comes after the late result of an operation on which the cell is frozen, and writes the same register (R48, R143). -/
def afterLate (x : Cell) (sc : Nat) (p : Pend) : Bool :=
  x.ops.any (fun o => x.frozenOn.contains o.id && o.sc == sc && (decide (o.eng < p.eng) || (o.eng == p.eng && decide (o.id < p.ord))) &&
    (match p.w with | .s r _ => o.body.sdest == some r | .v d _ _ _ => o.body.vdest == some d | _ => false))

/-- The results due in a cell from every engine are written. -/
def commitAct (s : State) (c : Nat) : State :=
  let x := s.cell c
  if x.frozenOn.isEmpty then s.commitCell c 7
  else
    (upto 4).foldl (fun y sc =>
      if (y.strand c sc).pend.isEmpty then y
      else ((y.strand c sc).pend.foldl (fun z p => z.commitOut x.time p) y).modStrand c sc
        (fun st => st.commitWhere (fun p => decide (p.due ≤ x.time) && !afterLate x sc p))) s

/-! ### The parts of the device -/

/-- The cells in which a VF is resident, and their bulkheads. -/
def liveBhs (s : State) : List Nat := (s.liveCells.filter (fun c => c % 2 == 0)).map bhOf

/-- Every operation in flight, by cell and number: in ascending cell number, then ascending strand number (R186). -/
def allOps (s : State) : List (Nat × Nat) :=
  s.cells.flatMap (fun (e : Nat × Cell) => (sortBy (fun (a b : Op) => decide (a.sc < b.sc)) e.2.ops).map (fun o => (e.1, o.id)))

/-- The next request of an f.kvcp at the KV unit. -/
def kvOp (x : Nat × Nat) (s : State) : Host.Outcome State Fault Refusal :=
  match (s.findOp x.1 x.2).bind Op.flume? with
  | some f => if f.kind = .kvcp then thenEv (execKvPageOperation x.1 x.2 s) (execFlumeOperationEnd x.1 x.2) else .next s
  | none => .next s

/-- A request reaches the place that serves it. -/
def serveOp (x : Nat × Nat) (s : State) : Host.Outcome State Fault Refusal :=
  match s.findOp x.1 x.2 with
  | none => .next s
  | some o =>
    match o.req with
    | some (.peerRead ..) | some (.peerWrite ..) | some (.moving ..) | some (.bar ..) => execPeerAccessAtOwner x.2 s
    | some (.ratom ..) => execRemoteAtomicAtOwner x.2 s
    | some (.peerDrain ..) => execPeerAddition x.2 s
    | some (.kvStore ..) => execKvStoreApply x.2 s
    | some (.kvFork _) => execKvForkApply x.2 s
    | some (.kvFree _) => execKvFreeApply x.2 s
    | _ => match o.body with | .smap .. => execSmapApply x.1 o.sc s | _ => .next s

/-- Memory and requests: propagation of writes, requests at their owners and at the KV unit, which serves the flume engine after SC3 (R331),
frames that return. -/
def memoryPart : Ev :=
  inTurn [forAll allOps serveOp, forAll allOps kvOp,
    forAll (fun s => [0, 1, 2, 3].flatMap (fun d => s.mem.flight.map (fun w => (d, w.id)))) (fun x => execWritePropagation x.1 x.2),
    forAll (fun s => (s.vfs.filter (fun e => !e.2.returning.isEmpty)).map (fun e => e.1)) execFrameReturn,
    fun s => .next s.flushAcks]

/-- Messages. -/
def messagePart : Ev := sweepAll (fun s => s.msgs.length) execMessageStore

/-- Signals and waits: they arrive before the words of the cycle issue, which see what they do (R154). -/
def semPart : Ev :=
  inTurn [sweepAll (fun s => s.sigs.length) execSemaphoreSignalArrival, sweepAll (fun s => s.waits.length) execSemaphoreWaitArrival]

/-- The tasks of every VF. -/
def allTasks (s : State) : List (Nat × Nat) := s.vfs.flatMap (fun e => e.2.tasks.map (fun t => (e.1, t.1)))

/-- The tasks that run, by ascending global mat number of their group's leader (R271). -/
def runningTasks (s : State) : List (Nat × Nat) :=
  (sortBy (fun (a b : Nat × Nat × Nat) => decide (a.1 < b.1)) (s.vfs.flatMap (fun e => e.2.tasks.filterMap (fun t =>
    t.2.run.map (fun r => (8 * r.cell + (if r.side = 1 then 4 else 0), e.1, t.1)))))).map (fun x => x.2)

/-- What the running tasks do in a cycle: their chunks and steps, checks and completions come before the words of the cycle issue, which see
the flags that they leave (R154). -/
def runPart : Ev :=
  inTurn [forAll allTasks (fun x => execTaskChunkIssue x.1 x.2), forAll allTasks (fun x => execTaskDrainCheck x.1 x.2),
    forAll runningTasks (fun x => execTaskCompletion x.1 x.2)]

/-- The chain tasks that have started in this cycle, whose chain opens at once (R419). -/
def startedChains (s : State) : List (Nat × Nat) :=
  (allTasks s).filter (fun x => match s.task x.1 x.2 with
    | some t => (match t.run with | some r => t.kind == 1 && r.chain.isNone && r.start == s.groupTime r.cell | none => false)
    | none => false)

/-- The scheduler: starts and steals, then decrements, before records and cancellations (R271). -/
def taskPart : Ev :=
  inTurn [forAll liveBhs execTaskStart, forAll (fun s => s.liveCells.flatMap (fun c => [(c, 0), (c, 1)])) (fun x => execTaskSteal x.1 x.2),
    forAll startedChains (fun x => execTaskChunkIssue x.1 x.2), sweepAll (fun s => s.tdecs.length) execTaskDecrement,
    sweepAll (fun s => s.posts.length) execTaskEntry, sweepAll (fun s => s.cancels.length) execBranchCancellation,
    forAll allTasks (fun x => execTaskAging x.1 x.2)]

/-- The launch unit. -/
def launchPart : Ev :=
  inTurn [execLaunchQueuePoll,
    forAll (fun s => s.liveVfs.flatMap (fun v => (upto (s.vf v).lqs.length).map (fun q => (v, q)))) (fun x => execLaunchStart x.1 x.2),
    forAll State.liveVfs execOverflowLaunchStart, forAll State.liveCells execFlumeStreamStart,
    sweepAll (fun s => s.itemCancels.length) execItemCancellation,
    forAll (fun s => s.launches.flatMap (fun e => e.2.shares.map (fun h => (e.1, h.1))))
      (fun x => (fun s => thenEv (execItemAging x.1 x.2 s) (execShareComplete x.1 x.2))),
    forAll (fun s => s.launches.map (fun e => e.1)) execLaunchCompletion]

/-- A step of a flume operation. -/
def flumeOp (x : Nat × Nat) (s : State) : Host.Outcome State Fault Refusal :=
  match (s.findOp x.1 x.2).bind Op.flume? with
  | none => .next s
  | some f =>
    thenEv (match f.kind with
      | .kvcp => .next s
      | .coll => execCollectiveStep x.1 x.2 s
      | .svm => .next s
      | _ => execFlumePiece x.1 x.2 s) (execFlumeOperationEnd x.1 x.2)

/-- The flume engines, the stacks and the torus. -/
def flumePart : Ev :=
  inTurn [forAll State.liveCells execFlumeFetch, forAll allOps flumeOp, forAll (fun s => s.svmq.map (fun e => e.1)) execSvmRun,
    sweepAll (fun s => s.rings.length) execRingPieceAtTarget, forAll (fun s => s.gones) execGoneNotice,
    forAll (fun s => s.aborts) (fun x => execAbortNotice x.1 x.2)]

/-- The strands of a cell have stopped for a switch, or it is the latest wall time at which the cell expects its die's save to meet sr.dl: the
scan of the mats, the copies, and 4 µs for what has to complete (R409, R433). -/
def mayClose (s : State) (c : Nat) : Bool :=
  let x := s.cell c
  x.dl != 0 && !x.closed && (x.strands.all (fun e => e.2.st == .idle || e.2.swStop) ||
    (match x.vf with | some vf => decide (x.dl.toNat ≤ s.wall + scanNs + s.copyNs vf (dieOf c) + 4000) | none => false))

/-- The management unit, resets and switches. -/
def controlPart : Ev :=
  inTurn [execMgmtPoll, mgmtRun, forAll (fun s => (s.vfs.filter (fun e => e.2.presetDue)).map (fun e => e.1)) execPartitionReset,
    forAll (fun s => (s.bhs.filter (fun e => match e.2.resetEnd with | some t => decide (t ≤ s.wall) | none => false)).map (fun e => e.1))
      execBulkheadResetComplete,
    forAll (fun s => s.groups.map (fun e => e.1)) (fun g => (fun s =>
      inTurn [execSwitchTick g, forAll (fun s => (groupCells g).filter (mayClose s)) execCellClose,
        forAll (fun _ => groupDies g) (execYarderSave g), execSaveDeadline g, execRestore g] s))]

/-- A part of the device: at a fill port F comes before peer and remote requests (R186); parts 6 and 7 act before the cells issue. -/
def deviceAct (k : Nat) : Ev :=
  match k with
  | 0 => flumePart
  | 1 => memoryPart
  | 2 => messagePart
  | 3 => taskPart
  | 4 => launchPart
  | 6 => semPart
  | 7 => runPart
  | _ => controlPart

/-! ### The next cell cycle -/

/-- The trap entries of a strand's cell whose awaited operations have completed in this cycle (R398). -/
def Cell.markReady (x : Cell) (sc : Nat) : Cell :=
  match (x.strand sc).trap with
  | some t => if t.ready.isNone && entryReady x sc then x.modStrand sc (fun st => { st with trap := some { t with ready := some x.time } }) else x
  | none => x

/-- One more cell cycle in a cell that runs: watchdog counts, barrier waits, cell time, and what ends or is written in the new cycle
(R45, R117, R143, R212, R306). -/
def tickCell (ex : Exec) (s : State) (c : Nat) : State :=
  if (s.cell c).resuming then s.modCell c (fun x => { x with resuming := false })
  else if (s.cell c).runs then
    let counts := (upto 4).map (fun sc => if queueHeld ex s c sc then (s.strand c sc).qdead + 1 else 0)
    let s := (upto 4).foldl (fun x sc =>
      if (tfind sc (x.cell c).strands).isNone then x
      else ((x.modStrand c sc (fun st => { st with qdead := counts.getD sc 0, active := false })).qdeadNow c sc).modCell c
        (fun y => y.markReady sc)) s
    let s := (s.lookWaits c).modCell c (fun x => { x with time := x.time + 1 })
    (((s.emptyTiles c).commitCell c 3).finishLocal c).finishM c
  else if (s.cell c).closed && (s.cell c).choice == some .drain then s.modCell c (fun x => { x with ahead := x.ahead + 1 })
  else s

/-- The next cell cycle of the device: the semaphores serve their queues (R297), and 2/3 ns of wall time pass (R5); the schedulers of the resident VFs count it (R282). -/
def tick (ex : Exec) (s : State) : State :=
  let s := s.liveCells.foldl (tickCell ex) s.holdSigs.serveSems
  { s with wall3 := s.wall3 + 2,
           vfs := s.vfs.map (fun e => if s.cells.any (fun c => c.2.vf == some e.1) then (e.1, { e.2 with clock := e.2.clock + 1 }) else e) }

/-! ### The phases of a cycle -/

/-- The acts of a phase; only time passes while the boot ROM waits for an image (R387, R392). -/
def phaseActs (ex : Exec) (s : State) (p : Nat) : List Act :=
  if s.boot.rom then (if p = 4 then [.tick] else [])
  else
    match p with
    | 0 => s.liveCells.flatMap (fun c => [.due c, .commit c]) ++ [.device 6, .device 7]
    | 1 => s.liveCells.flatMap (cellActs ex s) ++ flumeActs s
    | 2 => (s.liveCells.filter (fun c => (upto 4).any (fun sc => (s.fetchable c sc).isSome))).map (fun c => .run (.fetch c))
    | 3 => (upto 6).map .device
    | _ => [.tick]

/-- The agenda is empty: the next phase of the default order fills it. -/
def refill (ex : Exec) (s : State) : State :=
  { s with agenda := phaseActs ex s s.phase, phase := if s.phase < 4 then s.phase + 1 else 0 }

end Sys2Proof.Machine
end

