-- ==== Sys2Proof/Machine/Step.lean ====
section
/-! DEFINITION. One step of the machine: the head of the agenda, or the next phase of the default order when the agenda is empty; and
the state in which a given word is the next to run. -/

namespace Sys2Proof.Machine

open Sys2Proof

/-- What an act of the agenda does. -/
def act (a : Act) (s : State) : Host.Outcome State Fault Refusal :=
  match a with
  | .run i => exec i s
  | .due c => dueAct c s
  | .select c sc e => selectAct exec s c sc e
  | .issue c sc e => issueAct exec s c sc e
  | .flume c => flumeAct exec s c
  | .commit c => .next (commitAct s c)
  | .port c => .next (portAct s c)
  | .device k => deviceAct k s
  | .tick => .next (tick exec s)

/-- Power returns. -/
def isPowerOn : Act → Bool
  | .run .powerOn => true
  | _ => false

/-- One step. Without power nothing happens until it returns (R392). -/
def step (s : State) : Host.Outcome State Fault Refusal :=
  match s.agenda with
  | [] => if s.boot.power then .next (refill exec s) else .fault .noPower
  | a :: r => if s.boot.power || isPowerOn a then act a { s with agenda := r } else .fault .noPower

/-- SC0 of cell 0 runs and is free to issue, or cell 0's flume stream runs; the word is the only one of its engine's queue, as its fetch
leaves it, and its issue is next. -/
def State.withFetchWord (s : State) (nbits w : Nat) : State :=
  let w : Word := BitVec.ofNat 32 (w % 2 ^ nbits)
  let eng := (w.extractLsb' 29 3).toNat
  let s := s.modCell 0 (fun c => { c with vf := some (c.vf.getD 0), frozenOn := [], closed := false, ops := [], busy := [] })
  let s := s.modStrand 0 0 (fun st =>
    { st with st := .running, halted := false, trap := none, replay := [], reports := [], sleepEnd := none, fblk := false, pfx := none,
              swReq := false, swHalt := false, swStop := false, issueFrom := 0, queues := [] })
  if eng = 7 then { s with cur := { cell := 0, sc := 0, eng := 7 }, agenda := [.run (.pExt (w.extractLsb' 0 29))] }
  else if eng = 6 then
    let s := s.modCell 0 (fun c => { c with flume := { c.flume with launch := some 0, stopped := false, pfx := none, word := some { word := w, addr := c.flume.pc } } })
    { s with agenda := [.flume 0] }
  else { s.modStrand 0 0 (fun st => st.fetched w) with agenda := [.issue 0 0 eng] }

end Sys2Proof.Machine
end

