-- ==== Sys2Proof/Safety.lean ====
section
/-! DEFINITION. What counts as a safe run, and the terms in which claims are made: outcomes that are a next state, states whose memories are in
their canonical form, when a word that heads its queue issues, and what an issued word leaves behind. -/

namespace Sys2Proof.Machine

open Sys2Proof

/-- The canonical form of every memory of a state: device memory, scratchpads and landings. -/
def State.wf (s : State) : Bool :=
  Memory.wf s.mem && s.cells.all (fun e => tcanon 0 e.2.scratch && tcanon false e.2.spoison) &&
  s.bhs.all (fun e => e.2.landings.all (fun l => tcanon 0 l.2.bytes && tcanon false l.2.poison))

/-- An outcome that is a next state with a property. -/
def answers (o : Host.Outcome State Fault Refusal) (P : State → Prop) : Prop := ∃ t, o = .next t ∧ P t

/-- A run of n steps from a state meets no fault and no refusal. -/
def safeFor (s : State) (n : Nat) : Prop := answers (Host.Core.run Sys2Proof.core n s) (fun _ => True)

/-! ### When a word issues -/

/-- The word being issued comes from its queue (not from a replay slot), and its guard is true, or was when it was read and the word has
waited since (R93). -/
def State.granted (s : State) (g : Guard) : Prop := s.cur.replay = none ∧ s.guardNow g = true

/-- The word has no prefix (R101). -/
def State.unprefixed (s : State) : Prop := s.cur.ent.pfx = none

/-- The word being issued comes from its queue without a prefix: a V or X word, which always executes, under its mask (R94). -/
def State.plain (s : State) : Prop := s.cur.replay = none ∧ s.cur.ent.pfx = none

/-- Every queue register among the sources holds an entry (R99), and no source is poisoned (R157). -/
def State.sources (s : State) (rs : List (BitVec 6)) : Prop :=
  srcReady s.me rs = true ∧ firstPoison (rs.map s.me.readS) = none

/-- Every result port among the vector sources holds a row (R164), and no source is poisoned (R161). -/
def State.vsources (s : State) (rs : List (BitVec 5)) : Prop :=
  vsrcReady s.me rs = true ∧ firstVTag (rs.map s.me.readV) = none

/-- The value of a scalar register. -/
def State.sval (s : State) (r : BitVec 6) : Dword := (s.me.readS r).val

/-- The value of a vector register. -/
def State.vval (s : State) (r : BitVec 5) : Vec := (s.me.readV r).val

/-! ### What an issued word leaves -/

/-- The state after the pops of the scalar sources (R99). -/
def State.popped (s : State) (rs : List (BitVec 6)) : State := s.modMe (fun st => popSources st rs)

/-- The state after the pops of the vector sources (R164). -/
def State.vpopped (s : State) (rs : List (BitVec 5)) : State := s.modMe (fun st => popPorts st rs)

/-- A word with scalar sources has issued: they are popped, one result is in flight for lat cycles, the engine is busy for occ cycles. -/
def State.gave (s : State) (rs : List (BitVec 6)) (lat occ : Nat) (w : PendW) : State := ((s.popped rs).result lat w).retire occ

/-- A word with vector sources and a vector destination has issued: the lanes r of d that the mask selects are in flight, and their flags. -/
def State.vgave (s : State) (vs : List (BitVec 5)) (d : BitVec 5) (mask : Dword) (lat occ : Nat) (r : List (BitVec 32 × Flags)) : State :=
  ((s.vpopped vs).vresult lat d (vs.map s.me.readV) mask r).retire occ

/-- One operation has been added to those in flight in the issuing cell, of the issuing strand and engine, due lat cycles after its issue. -/
def State.started (s t : State) (lat : Nat) (p : Op → Prop) : Prop :=
  ∃ o, t.ops s.cur.cell = s.ops s.cur.cell ++ [o] ∧ o.sc = s.cur.sc ∧ o.eng = s.cur.eng ∧ o.ent = s.cur.ent ∧ o.due = s.now + lat ∧ p o

/-- The word has left its queue, and its engine issues nothing for occ cycles (R44). -/
def State.issued (s t : State) (occ : Nat) : Prop :=
  t.cur = s.cur ∧ t.me.engq s.cur.eng = (s.me.engq s.cur.eng).tail ∧ tget 0 t.here.busy s.cur.eng = s.now + occ

/-- The trap that a fault landing on an operation of a cell begins (R397, R399). -/
def State.lateTrap (s : State) (c : Nat) (o : Op) (code : Code) (a : Dword) : Trap :=
  { at' := (s.cell c).time, code := code, taddr := a, fpc := o.ent.addr, eng := BitVec.ofNat 3 o.eng, late := true }

/-- The strands of two states hold the same scalar, vector, predicate and mask registers, loops and special registers. -/
def Strand.sameRegs (x y : Strand) : Prop :=
  x.s = y.s ∧ x.p = y.p ∧ x.m = y.m ∧ x.v = y.v ∧ x.loops = y.loops ∧ x.stat = y.stat ∧ x.srkey = y.srkey ∧ x.tvec = y.tvec ∧
    x.cause = y.cause ∧ x.tinfo = y.tinfo ∧ x.taddr = y.taddr ∧ x.tscr = y.tscr ∧ x.vfsel = y.vfsel ∧ x.handler = y.handler

/-- Only the issuing strand, the issue bookkeeping (of the word and of its cell) and the count of operation numbers may differ: every byte of device memory,
every VF, launch, semaphore and queue of the device, every other cell, and in the issuing cell every other strand, its scratchpad, tile
registers, accumulators, deckle registers, tile table, chain, flume stream and operations in flight are the same. -/
def State.sameBut (s t : State) : Prop :=
  { t with cells := s.cells, nextId := s.nextId, cur := s.cur } = s ∧ (∀ c, c ≠ s.cur.cell → t.cell c = s.cell c) ∧
  { t.cell s.cur.cell with strands := s.here.strands, lastIssue := s.here.lastIssue, busy := s.here.busy } = s.here ∧
  (∀ k, k ≠ s.cur.sc → t.strand s.cur.cell k = s.here.strand k)

end Sys2Proof.Machine
end

