-- ==== Sys2Proof/Certificates/Slice0/Obligations.lean ====
section
/-! DEFINITION. The statements for the provers. Each follows the rules that its docstring names; the words of a state that a statement
uses (granted, sources, gave, sameBut …) are those of Safety.lean. -/

open Sys2Proof Sys2Proof.Machine

/-! ### Words, steps and the machine as a whole -/

/-- R91 to R107: words written out from the tables of the spec decode to the instructions that they stand for. -/
def Obligations.WordsOfTheSpecDecode : Prop :=
  decodeWord 0x00000000 = .ok (.bNop ⟨false, 0⟩) ∧
  decodeWord 0x0043FFFF = .ok (.bJmp ⟨false, 0⟩ 0x3FFFF) ∧
  decodeWord 0x20245043 = .ok (.sAdd ⟨true, 1⟩ 5 1 3) ∧
  decodeWord 0x278017FF = .ok (.sLi ⟨false, 0⟩ 1 0x7FF) ∧
  decodeWord 0x404C6082 = .ok (.vFsub ⟨false, 3⟩ 6 2 2) ∧
  decodeWord 0x60002040 = .ok (.xExp2 ⟨false, 0⟩ 2 1) ∧
  decodeWord 0x80002042 = .ok (.lLds ⟨false, 0⟩ 2 1 2) ∧
  decodeWord 0xA0403000 = .ok (.mZero ⟨false, 0⟩ 3) ∧
  decodeWord 0xC0000000 = .ok (.fLi 0 0) ∧ decodeWord 0xC1000000 = .ok .fEnd ∧
  decodeWord 0xE0000007 = .ok (.pExt 7) ∧
  decodeWord 0x00200000 = .error .badGuard ∧ decodeWord 0x00000001 = .error .reserved

/-- R90 to R107: the decoder reads every well-formed instruction's word back, with every operand as it was. R106: a word that decodes is the one word
of a well-formed instruction; every other word is refused. -/
def Obligations.DecodingAndEncodingAgree : Prop :=
  (∀ (i : Instr) (w : Word), i.WellFormed = true → encode i = some w → decodeWord w = .ok i) ∧
  (∀ (w : Word) (i : Instr), decodeWord w = .ok i → i.WellFormed = true ∧ encode i = some w)

/-- R44, R106, R107, R342: a step runs the instruction that the head word of an engine decodes to, in the state with that word as the current one; a
word that is no instruction, or a fault marker, begins its trap; a step of a stream runs its word, or stops the stream; a step of the agenda is
that step; without power an empty agenda runs nothing. An engine that selects a word which is then held reads its guard, and changes nothing else;
of any other word the selection changes nothing. Points that the spec leaves to the model or to inference: log entries 1, 3, 60, 66, 76. -/
def Obligations.StepRunsTheDecodedInstruction : Prop :=
  ∀ (s : State) (rest : List Act), s.boot.power = true →
    let u : State := { s with agenda := rest }
    (∀ i, s.agenda = .run i :: rest → step s = exec i u) ∧
    (∀ c sc e ent slot, s.agenda = .issue c sc e :: rest → (s.cell c).runs = true → (s.strand c sc).mayIssue (s.cell c).time = true →
      (s.strand c sc).trap = none → tget 0 (s.cell c).busy e ≤ (s.cell c).time → (s.strand c sc).head e = some (ent, slot) →
      let t : State := { u with cur := { cell := c, sc := sc, eng := e, ent := ent, replay := slot } }
      (e = 0 → (s.strand c sc).sleepEnd = none ∨ slot.isSome = true) →
      (∀ i, slot.isSome = true ∨ ent.marker = none → decodeWord ent.word = .ok i → heldBy (s.cell c) sc ent.seq e (isWriter i) = false →
        step s = exec i t) ∧
      (∀ x, slot.isSome = true ∨ ent.marker = none → decodeWord ent.word = .error x → heldBy (s.cell c) sc ent.seq e false = false →
        step s = .next (t.raise Code.illegal ent.addr)) ∧
      (∀ code, slot = none → ent.marker = some code → heldBy (s.cell c) sc ent.seq e false = false → step s = .next (t.raise code ent.addr))) ∧
    (∀ c sc e ent slot i, s.agenda = .select c sc e :: rest → (s.cell c).runs = true → (s.strand c sc).mayIssue (s.cell c).time = true →
      tget 0 (s.cell c).busy e ≤ (s.cell c).time → (s.strand c sc).head e = some (ent, slot) → (e = 0 → (s.strand c sc).sleepEnd = none ∨ slot.isSome = true) →
      slot.isSome = true ∨ ent.marker = none → decodeWord ent.word = .ok i → heldBy (s.cell c) sc ent.seq e (isWriter i) = false →
      heldBy (s.cell c) sc ent.seq e false = false →
      ∀ v, exec i { u with cur := { cell := c, sc := sc, eng := e, ent := ent, replay := slot } } = .next v →
        (v.cur.held = true → step s = .next v) ∧ (v.cur.held = false → step s = .next u)) ∧
    (∀ c ent, s.agenda = .flume c :: rest → s.flumeReady c = some ent →
      let t : State := { u with cur := { cell := c, sc := 4, eng := 6, ent := ent } }
      (∀ code, ent.marker = some code → step s = .next (t.streamFault c code ent.addr)) ∧
      (ent.marker = none → ent.word.extractLsb' 29 3 = 6 →
        (∀ i, decodeWord ent.word = .ok i → step s = exec i t) ∧
        (∀ x, decodeWord ent.word = .error x → step s = .next (t.streamFault c Code.illegal ent.addr))) ∧
      (ent.marker = none → ent.word.extractLsb' 29 3 ≠ 6 → step s = .next (t.streamFault c Code.flume ent.addr))) ∧
    step { s with boot := { s.boot with power := false }, agenda := [] } = .fault .noPower

/-- R42, R43, R101, R107, R118, R124: the front end fetches for the next strand that may; the word enters the queue of its engine with its address,
its prefix and its place, a prefix waits for the next word and a second one displaces it with a marker, a failed fetch enters the B queue as a
marker, and the program counter goes on with the next word, or where an unguarded jump leads; a word that blocks fetch does so. The model's choice
(log entry 66): a failed fetch drops the prefix that waited for the word. Points that the spec leaves to the model or to inference: log entry 51. -/
def Obligations.FetchFillsTheQueues : Prop :=
  (∀ (s : State) (c sc : Nat), (s.cell c).runs = true →
    let st := s.strand c sc
    let u := s.cacheLeaf c (s.vfOf c) (dieOf c) st.pc.toNat
    (scAfter (s.cell c).lastFetch).find? (fun k => (s.fetchable c k).isSome) = some sc →
    let fetches (P : Strand → Prop) : Prop := answers (exec (.fetch c) s) (fun t => P (t.strand c sc) ∧ (t.cell c).lastFetch = sc ∧ t.mem = s.mem)
    (∀ w, u.fetchable c sc = some (.ok w) →
      (w.extractLsb' 29 3 ≠ 7 → fetches (fun x => x.pfx = none ∧ x.seq = st.seq + 1 ∧
        ∃ ent, x.engq (queueOf w) = st.engq (queueOf w) ++ [ent] ∧ ent.word = w ∧ ent.addr = st.pc ∧ ent.pfx = st.pfx ∧ ent.seq = st.seq)) ∧
      (w.extractLsb' 29 3 = 7 → st.pfx = none → fetches (fun x => x.pfx = some (w.extractLsb' 0 29) ∧ ∀ e, x.engq e = st.engq e)) ∧
      (w.extractLsb' 29 3 = 7 → st.pfx.isSome = true → fetches (fun x => x.pfx = some (w.extractLsb' 0 29) ∧
        ∃ ent, x.engq 0 = st.engq 0 ++ [ent] ∧ ent.marker = some Code.prefixFault ∧ ent.addr = st.pc)) ∧
      ((∀ k, k < 4 → (st.lc k).act = false) →
        (∀ i, decodeWord w = .ok i → fetchClassOf i st.pfx = .plain → fetches (fun x => x.pc = st.pc + 4 ∧ x.fblk = st.fblk)) ∧
        (∀ g i, decodeWord w = .ok (.bJmp g i) → unguarded g = true → fetches (fun x =>
          x.pc = st.pc + 4 * (match st.pfx with | some p => (p ++ i).signExtend 64 | none => i.signExtend 64))) ∧
        (∀ i, decodeWord w = .ok i → fetchClassOf i st.pfx = .block → fetches (fun x => x.pc = st.pc + 4 ∧ x.fblk = true)))) ∧
    (∀ code, u.fetchable c sc = some (.error code) → fetches (fun x => x.pfx = none ∧ x.fblk = st.fblk ∧
      ((∀ k, k < 4 → (st.lc k).act = false) → x.pc = st.pc + 4) ∧
      ∃ ent, x.engq 0 = st.engq 0 ++ [ent] ∧ ent.marker = some code ∧ ent.addr = st.pc))) ∧
  (∀ (s : State) (c : Nat), (s.cell c).runs = false ∨ (∀ k, (s.fetchable c k) = none) → exec (.fetch c) s = .next s) ∧
  (∀ (s : State) (p : BitVec 29),
    (s.me.pfx = none → answers (exec (.pExt p) s) (fun t => t.me.pfx = some p ∧ (∀ e, t.me.engq e = s.me.engq e) ∧ t.mem = s.mem)) ∧
    (s.me.pfx.isSome = true → answers (exec (.pExt p) s) (fun t => t.me.pfx = some p ∧
      ∃ ent, t.me.engq 0 = s.me.engq 0 ++ [ent] ∧ ent.marker = some Code.prefixFault ∧ ent.addr = s.me.pc)))

/-- R93, R101, R130: an S, L or M word whose guard is false issues and changes nothing else; a B word whose guard is false only lets fetch go on, but
for a b.loop with a body of less than one word, which is ILLEGAL, and b.ppt and b.yield, which count as words of their loop's body alone; the
guard of a word that waits has been read when its engine selected it; a prefix before any B, S, V, X, L or M word that takes none raises PREFIX.
Points that the spec leaves to the model or to inference: log entries 66, 76. -/
def Obligations.GuardsAndPrefixes : Prop :=
  ∀ (s : State) (i : Instr) (w : Word) (g : Guard), i.WellFormed = true → encode i = some w → i.guard = some g → s.cur.replay = none →
    let eng := (w.extractLsb' 29 3).toNat
    let op := (w.extractLsb' 22 7).toNat
    let sel := (w.extractLsb' 16 2).toNat
    let takes : Prop := (eng = 0 ∧ op ∈ [1, 3, 6, 11]) ∨ (eng = 1 ∧ op ∈ [2, 30]) ∨
      (eng = 4 ∧ op ∈ [0, 1, 2, 3, 4, 5, 9, 16, 17, 18, 19, 20, 21, 22, 28, 32, 33, 34]) ∨
      (eng = 5 ∧ (op ∈ [10, 11, 19, 20] ∨ (op = 4 ∧ (sel = 0 ∨ sel = 2)) ∨ (op = 18 ∧ sel = 1)))
    (s.unprefixed → s.guardNow g = false →
      (eng = 1 ∨ eng = 4 ∨ eng = 5 → exec i s = .next (s.retire 1)) ∧
      (i = .bPpt g ∨ i = .bYield g → exec i s = .next (((s.modMe (fun st => st.pptFalse s.cur.ent)).resume none).retire 1)) ∧
      (eng = 0 → i ≠ .bPpt g → i ≠ .bYield g → (∀ n k a o, i = .bLoop g n k a o → o.toInt ≥ 1) → answers (exec i s) (fun t => s.issued t 1 ∧ t.me.pc = s.me.pc ∧
        t.me.sameRegs s.me ∧ t.me.pend = s.me.pend ∧ t.mem = s.mem)) ∧
      (s.cur.ent.passed = true ∨ guardP s.me s.cur.ent g = true ↔ ¬ s.guardNow g = false)) ∧
    (s.cur.ent.pfx.isSome = true → ¬takes → exec i s = .next (s.raise Code.prefixFault s.cur.ent.addr))

/-- R98, R116, R142, R144, R162, R164: s0 reads 0, p0 true and m0 all-ones, and writes to them are discarded; a write to a queue register joins its
tail and changes nothing else, a read shows its oldest entry and a pop takes it; any other write is read back, and no other register changes. R50,
R99, R143, R155, R164: an S, V or X word that raises no fault changes nothing at its issue but its strand and the issue bookkeeping, and in its
strand it takes the entries of its queue and port sources and adds its results in flight; when these are due they are written in the order of
engine code and issue, and only they. Points that the spec leaves to the model or to inference: log entry 5. -/
def Obligations.RegistersAndTheirResults : Prop :=
  (∀ (st : Strand) (r q : BitVec 6) (x : Sval) (i j : BitVec 3) (b : Bool) (v m : Dword) (d e : BitVec 5) (y : Vec) (msk : Dword),
     (st.readS 0 = {} ∧ st.readP 0 = true ∧ st.readM 0 = BitVec.allOnes 64 ∧ st.writeS 0 x = st ∧ st.writeP 0 b = st ∧ st.writeM 0 v m = st) ∧
     (isQ r = true → (st.writeS r x).queue (qOf r) = st.queue (qOf r) ++ [x] ∧ (st.writeS r x).s = st.s ∧
       (∀ k, k ≠ qOf r → (st.writeS r x).queue k = st.queue k) ∧ (∀ z l, st.queue (qOf r) = z :: l → st.readS r = z ∧ (st.popQ (qOf r)).queue (qOf r) = l)) ∧
     (isQ r = false → r ≠ 0 → (st.writeS r x).readS r = x ∧ (st.writeS r x).q = st.q) ∧
     (isQ r = false → q ≠ r → (st.writeS r x).readS q = st.readS q) ∧
     (i ≠ 0 → (st.writeP i b).readP i = b) ∧ (j ≠ i → (st.writeP i b).readP j = st.readP j) ∧
     (i ≠ 0 → ∀ k, (st.writeM i v m).readM i = (v &&& m) ||| (st.readM i &&& ~~~m) ∧ (j ≠ i → (st.writeM i v m).readM j = st.readM j) ∧
       ((st.writeM i v m).readM i).getLsbD k = if m.getLsbD k then v.getLsbD k else (st.readM i).getLsbD k) ∧
     (isY d = false → (∀ k, k < 64 → lane ((st.writeV d y msk none).readV d).val k = if msk.getLsbD k then lane y k else lane (st.readV d).val k) ∧
       ((st.writeV d y msk none).readV d).tag = (st.readV d).tag ∧ (e ≠ d → (st.writeV d y msk none).readV e = st.readV e)) ∧
     (isY d = true → (st.readV d).val = ((st.yq (d.toNat - 28)).head?).getD 0 ∧ (st.popY (d.toNat - 28)).yq (d.toNat - 28) = (st.yq (d.toNat - 28)).tail)) ∧
  ((∀ (s : State) (rs : List (BitVec 6)) (lat occ : Nat) (w : PendW), s.cur.replay = none →
     let t := s.gave rs lat occ w
     s.sameBut t ∧ t.me.sameRegs s.me ∧ s.issued t occ ∧ t.me.trap = s.me.trap ∧ t.me.pc = s.me.pc ∧ t.me.y = s.me.y ∧
     t.me.pend = s.me.pend ++ [{ due := s.now + lat, eng := s.cur.eng, ord := s.nextId, seq := s.cur.ent.seq, w := w }] ∧
     (∀ k, t.me.queue k = if ∃ r ∈ rs, isQ r = true ∧ qOf r = k then (s.me.queue k).tail else s.me.queue k)) ∧
   (∀ (s : State) (vs : List (BitVec 5)) (d : BitVec 5) (mask : Dword) (lat occ : Nat) (r : List (BitVec 32 × Flags)), s.cur.replay = none →
     let t := s.vgave vs d mask lat occ r
     s.sameBut t ∧ t.me.sameRegs s.me ∧ s.issued t occ ∧ t.me.trap = s.me.trap ∧ t.me.pc = s.me.pc ∧ t.me.q = s.me.q ∧
     (∃ new, t.me.pend = s.me.pend ++ new ∧ ∀ p ∈ new, p.due = s.now + lat ∧ ((∃ f, p.w = .stat f) ∨ ∃ v m g, p.w = .v d v m g)) ∧
     (∀ k, k < 4 → t.me.yq k = if ∃ v ∈ vs, isY v = true ∧ v.toNat = 28 + k then (s.me.yq k).tail else s.me.yq k)) ∧
   (∀ (st : Strand) (t e : Nat),
     let x := st.commitDue t e
     (∀ p ∈ st.pend, ¬(p.due ≤ t ∧ p.eng ≤ e)) → x = st) ∧
   (∀ (st : Strand) (p : Pend) (t e : Nat), p.due ≤ t → p.eng ≤ e → st.pend = [p] → st.commitDue t e = ({ st with pend := [] } : Strand).commit1 p.w) ∧
   (∀ (st : Strand) (a b : Pend) (t e : Nat), a.due ≤ t → b.due ≤ t → a.eng ≤ e → b.eng ≤ e → st.pend = [a, b] → a.late = b.late →
     (b.before a = true → st.commitDue t e = (({ st with pend := [] } : Strand).commit1 b.w).commit1 a.w) ∧
     (b.before a = false → st.commitDue t e = (({ st with pend := [] } : Strand).commit1 a.w).commit1 b.w)) ∧
   (∀ (st : Strand) (r : BitVec 6) (x : Sval) (i : BitVec 3) (b : Bool) (v m : Dword) (f : BitVec 5), st.commit1 (.s r x) = st.writeS r x ∧
     st.commit1 (.p i b) = st.writeP i b ∧ st.commit1 (.m i v m) = st.writeM i v m ∧ st.commit1 (.stat f) = { st with stat := st.stat ||| f }))

/-- R289, R324, R331: at its issue a load, store, atomic, peer, handle, barrier or fence word of the L engine changes no register, no byte of the
scratchpad and, but for a global store, no byte of device memory, whether it issues, is held or faults; an l.ldk comes after the KV requests
issued before it and itself changes none; an l.stk takes its place among the writes of its die and changes no byte. Points that the spec leaves to
the model or to inference: log entry 23. -/
def Obligations.LWordsLeaveRegistersAndMemory : Prop :=
  ∀ (s : State) (g : Guard) (d a b c : BitVec 6) (v r : BitVec 5) (o j : BitVec 3) (sp b1 b2 : Bool) (tl : BitVec 4) (k : BitVec 2) (sc : BitVec 3) (t : State),
    let words : List Instr := [.lLdt g b1 b2 tl a b, .lLdl g b1 b2 tl a b, .lLdtg g b1 tl sp r c, .lHnew g d a o, .lHfree g a, .lRel g a, .lLds g d a b, .lSts g d a b, .lLdvs g v a b, .lStvs g v a b, .lAtom g o j a b, .lHinfo g d a b, .lLdg g d sp r c,
      .lLdvg g v sp r c, .lGatom g o j a c, .lPref g a b, .lKfork g d a, .lKfree g a, .lRatom g o j a c, .lBarr g d a b, .lBarw g d a b,
      .lBare g d a b, .lFence g k sc, .lTfence g sc]
    (∀ i ∈ words, exec i s = .next t → t.me.sameRegs s.me ∧ t.here.scratch = s.here.scratch ∧ t.mem = s.mem ∧
      ∀ x, x ≠ s.cur.cell → t.cell x = s.cell x) ∧
    (exec (.lLdk g b1 tl sp r c) s = .next t → t.me.sameRegs s.me ∧ t.here.scratch = s.here.scratch ∧
      (∀ x, x ≠ s.cur.cell → ∀ q, t.strand x q = s.strand x q) ∧
      (s.kvPending (s.vfOf s.cur.cell) = [] → t.mem = s.mem ∧ ∀ x, x ≠ s.cur.cell → t.cell x = s.cell x)) ∧
    (exec (.lStk g sp v a) s = .next t → t.me.sameRegs s.me ∧ t.here.scratch = s.here.scratch ∧ (∀ x, x ≠ s.cur.cell → t.cell x = s.cell x) ∧
      (∀ die, t.mem.view die = s.mem.view die) ∧ t.mem.home = s.mem.home ∧ t.mem.poison = s.mem.poison) ∧
    (∀ i ∈ [Instr.lStg g d a b, .lStvg g v a b], exec i s = .next t → t.me.sameRegs s.me ∧ t.here.scratch = s.here.scratch)

/-- R4, R14, R39, R188, R295, R317, R373, R384, R395: after reset VF0 is resident on cells 0 and 1 of BH0 and nothing runs: every context idle, every
register, queue, mask, accumulator, tile and byte of memory empty or 0, no launch, task, message, wait or connection but VF0's; M0 and M1 hold the
hashes of the image's body and the firmware's configuration. Points that the spec leaves to the model or to inference: log entries 8, 9, 10, 57. -/
def Obligations.ResetState : Prop :=
  let s := State.reset
  (s.cell 0).vf = some 0 ∧ (s.cell 1).vf = some 0 ∧ (∀ c, 2 ≤ c → (s.cell c).vf = none) ∧
  (∀ c sc, (s.strand c sc).st = .idle ∧ (∀ r, (s.strand c sc).readS r = { val := 0 }) ∧ (∀ r, ((s.strand c sc).readV r).val = 0) ∧
    (∀ i, i ≠ 0 → (s.strand c sc).readP i = false ∧ (s.strand c sc).readM i = 0) ∧ (∀ k, ((s.strand c sc).lc k).act = false) ∧
    (s.strand c sc).stat = 0 ∧ (s.strand c sc).srkey = 0 ∧ (s.strand c sc).tvec = 0 ∧ (s.strand c sc).cause = 0 ∧ (s.strand c sc).tinfo = 0 ∧
    (s.strand c sc).taddr = 0 ∧ (s.strand c sc).tscr = 0 ∧ (s.strand c sc).vfsel = 0 ∧ (s.strand c sc).handler = false) ∧
  (∀ c, s.ops c = [] ∧ (s.cell c).scratch = [] ∧ (s.cell c).msgs = [] ∧ (s.cell c).chain = none ∧ (∀ h, ((s.cell c).entry h).used = false) ∧
    ∀ t, ((s.cell c).tile t).st = .empty) ∧
  (∀ d a, tget 0 (s.mem.view d) a = 0 ∧ tget 0 s.mem.home a = 0 ∧ tget false s.mem.poison a = false) ∧
  (∀ b, (s.bh b).gateClosed = false ∧ (s.bh b).windows = [] ∧ ∀ n, (s.landing b n).used = false) ∧
  (∀ v, (s.vf v).live = true ↔ v = 0) ∧ (s.vf 0).cfg.shape = 0x0100 ∧ (s.vf 0).cfg.slices = 0xF ∧
  s.launches = [] ∧ s.sems = [] ∧ s.sigs = [] ∧ s.waits = [] ∧ s.groups = [] ∧ s.mgmt.run = none ∧ s.pod = none ∧ s.wall = 0 ∧
  s.boot.power = true ∧ s.wf = true ∧ s.measure 0 = nodeBytes (hashNode (Config.imageBody Config.bootImage)) ∧
  s.measure 1 = nodeBytes (hashNode Config.firmware) ∧ ∀ i, 2 ≤ i → i < 8 → s.measure i = nodeBytes 0

/-- R284 to R286: every step keeps the canonical form of device memory: in every die's sequence, in home order and in the poison bits, addresses rise
and no entry equals what an unlisted address reads as. Points that the spec leaves to the model or to inference: log entry 6. -/
def Obligations.StepKeepsDeviceMemoryCanonical : Prop :=
  ∀ (s t : State), Memory.wf s.mem = true → step s = .next t → Memory.wf t.mem = true

/-! ### The S engine -/

/-- R145, R146, R157: the results of the integer words of two sources that hold no poison, with their latency. R100, R146, R149, R152, R156: field
words, counts, moves and constants. R102, R144, R150, R151: compares and predicate words write their predicate one cycle after issue. R157, R158:
poison travels through an S word with a scalar destination, and raises its fault at a compare, s.chk and s.wrsr; without poison s.chk does
nothing. -/
def Obligations.IntegerWordsGiveTheirResults : Prop :=
  (∀ (s : State) (g : Guard) (d a b : BitVec 6),
     s.granted g → s.unprefixed → s.sources [a, b] → (s.popped [a, b]).room d = true →
     let x := s.sval a
     let y := s.sval b
     let gives (i : Instr) (lat : Nat) (v : Dword) : Prop := exec i s = .next (s.gave [a, b] lat 1 (.s d { val := v }))
     gives (.sAdd g d a b) 1 (x + y) ∧ gives (.sSub g d a b) 1 (x - y) ∧ gives (.sMul g d a b) 3 (x * y) ∧
     gives (.sMulh g d a b) 3 (BitVec.ofInt 64 (x.toInt * y.toInt / 2 ^ 64)) ∧
     gives (.sMulhn g d a b) 3 (BitVec.ofNat 64 (x.toNat * y.toNat / 2 ^ 64)) ∧
     gives (.sAnd g d a b) 1 (x &&& y) ∧ gives (.sOr g d a b) 1 (x ||| y) ∧ gives (.sXor g d a b) 1 (x ^^^ y) ∧
     gives (.sAndn g d a b) 1 (x &&& ~~~y) ∧
     gives (.sMin g d a b) 1 (if x.toInt ≤ y.toInt then x else y) ∧ gives (.sMax g d a b) 1 (if y.toInt ≤ x.toInt then x else y) ∧
     gives (.sMinn g d a b) 1 (if x.toNat ≤ y.toNat then x else y) ∧ gives (.sMaxn g d a b) 1 (if y.toNat ≤ x.toNat then x else y)) ∧
  (∀ (s : State) (g : Guard) (d a b : BitVec 6), s.granted g →
     let x := s.sval a
     let y := s.sval b
     let pos := y.toNat % 64
     let len := min (y.toNat / 256 % 128) (64 - pos)
     (s.unprefixed → s.sources [a] → (s.popped [a]).room d = true →
       exec (.sMov g d a) s = .next (s.gave [a] 1 1 (.s d { val := x })) ∧
       (∃ n, exec (.sClz g d a) s = .next (s.gave [a] 1 1 (.s d { val := BitVec.ofNat 64 n })) ∧ n ≤ 64 ∧
         (∀ k, 64 - n ≤ k → x.getLsbD k = false) ∧ (n < 64 → x.getLsbD (63 - n) = true)) ∧
       exec (.sPopc g d a) s = .next (s.gave [a] 1 1 (.s d { val := BitVec.ofNat 64 ((List.range 64).countP (fun k => x.getLsbD k)) }))) ∧
     (s.sources [a] → (s.popped [a]).room d = true →
       exec (.sAddi g d a b) s = .next (s.gave [a] 1 1 (.s d { val := x + immRI s.cur.ent b }))) ∧
     (∀ i : BitVec 12, s.room d = true →
       exec (.sLi g d i) s = .next (s.gave [] 1 1 (.s d { val := immRI12 s.cur.ent i }))) ∧
     (s.unprefixed → s.sources [a, b] → (s.popped [a, b]).room d = true →
       ∃ v : Dword, exec (.sExt g d a b) s = .next (s.gave [a, b] 1 1 (.s d { val := v })) ∧
         (∀ k, k < len → v.getLsbD k = x.getLsbD (pos + k)) ∧
         ∀ k, len ≤ k → k < 64 → v.getLsbD k = (y.getLsbD 16 && decide (0 < len) && x.getLsbD (pos + len - 1))) ∧
     (s.unprefixed → s.sources [a, b, d] → (s.popped [a, b, d]).room d = true →
       ∃ v : Dword, exec (.sIns g d a b) s = .next (s.gave [a, b, d] 1 1 (.s d { val := v })) ∧
         ∀ k, k < 64 → v.getLsbD k = if pos ≤ k ∧ k < pos + len then x.getLsbD (k - pos) else (s.sval d).getLsbD k) ∧
     (s.unprefixed → s.room d = true →
       exec (.sRdcyc g d) s = .next (s.gave [] 1 1 (.s d { val := BitVec.ofNat 64 s.now })) ∧
       exec (.sWid g d 7) s = .next (s.gave [] 1 1 (.s d { val := s.me.wid })) ∧
       ∀ k : BitVec 3, k.toNat < 6 → exec (.sWid g d k) s =
         .next (s.gave [] 1 1 (.s d { val := widField (s.hdrCtl s.me.launch) s.me.wid k.toNat })))) ∧
  (∀ (s : State) (g : Guard) (c p q r : BitVec 3) (a b : BitVec 6), s.granted g → s.unprefixed →
     let cond (x y : Dword) : Bool :=
       match c.toNat with
       | 0 => decide (x = y) | 1 => decide (x ≠ y) | 2 => decide (x.toInt < y.toInt) | 3 => decide (x.toInt ≤ y.toInt)
       | 4 => decide (y.toInt < x.toInt) | 5 => decide (y.toInt ≤ x.toInt) | 6 => decide (x.toNat < y.toNat) | _ => decide (y.toNat ≤ x.toNat)
     (s.sources [a, b] → exec (.sCmp g c p a b) s = .next (s.gave [a, b] 1 1 (.p p (cond (s.sval a) (s.sval b))))) ∧
     (s.sources [a] → exec (.sCmpi g c p a b) s = .next (s.gave [a] 1 1 (.p p (cond (s.sval a) (b.signExtend 64))))) ∧
     exec (.sPand g p q r) s = .next ((s.result 1 (.p p (s.me.readP q && s.me.readP r))).retire 1) ∧
     exec (.sPor g p q r) s = .next ((s.result 1 (.p p (s.me.readP q || s.me.readP r))).retire 1) ∧
     exec (.sPxor g p q r) s = .next ((s.result 1 (.p p (s.me.readP q ^^ s.me.readP r))).retire 1) ∧
     exec (.sPnot g p q) s = .next ((s.result 1 (.p p (!s.me.readP q))).retire 1)) ∧
  (∀ (s : State) (g : Guard) (d a b : BitVec 6) (c p : BitVec 3) (code : Code), s.granted g → s.unprefixed →
     (s.sources [a] → exec (.sChk g a) s = .next ((s.popped [a]).retire 1)) ∧
     (srcReady s.me [a, b] = true → (s.me.readS a).tag = some code →
       let va := s.sval a &&& 0x0FFFFFFFFFFFFFFF
       ((s.popped [a, b]).room d = true → exec (.sAdd g d a b) s = .next (s.gave [a, b] 1 1 (.s d { val := s.sval a, tag := some code })) ∧
         exec (.sDiv g d a b) s = .next (s.gave [a, b] 34 32 (.s d { val := s.sval a, tag := some code }))) ∧
       exec (.sCmp g c p a b) s = .next (s.raise code va) ∧ exec (.sChk g a) s = .next (s.raise code va)))

/-- R147: division and remainder, signed and unsigned, with the two special cases; no division faults. -/
def Obligations.DivisionGivesQuotientAndRemainder : Prop :=
  ∀ (s : State) (g : Guard) (d a b : BitVec 6),
    s.granted g → s.unprefixed → s.sources [a, b] → (s.popped [a, b]).room d = true →
    let x := s.sval a
    let y := s.sval b
    let gives (i : Instr) (v : Dword) : Prop := exec i s = .next (s.gave [a, b] 34 32 (.s d { val := v }))
    let edge : Prop := x.toInt = -2 ^ 63 ∧ y.toInt = -1
    let q : Int := x.toInt.tdiv y.toInt
    (y = 0 → gives (.sDiv g d a b) (BitVec.ofInt 64 (-1)) ∧ gives (.sRem g d a b) x ∧
      gives (.sDivn g d a b) 0xFFFFFFFFFFFFFFFF ∧ gives (.sRemn g d a b) x) ∧
    (y ≠ 0 → edge → gives (.sDiv g d a b) (BitVec.ofInt 64 (-2 ^ 63)) ∧ gives (.sRem g d a b) 0) ∧
    (y ≠ 0 → ¬edge → gives (.sDiv g d a b) (BitVec.ofInt 64 q) ∧ gives (.sRem g d a b) (BitVec.ofInt 64 (x.toInt - y.toInt * q))) ∧
    (y ≠ 0 → gives (.sDivn g d a b) (BitVec.ofNat 64 (x.toNat / y.toNat)) ∧ gives (.sRemn g d a b) (BitVec.ofNat 64 (x.toNat % y.toNat)))

/-- R148: the shifts and the rotate, with the count in a register (bits 5:0) or in the word. -/
def Obligations.ShiftsMoveBits : Prop :=
  ∀ (s : State) (g : Guard) (d a b : BitVec 6),
    s.granted g → s.unprefixed →
    let x := s.sval a
    let n := (s.sval b).toNat % 64
    let m := b.toNat
    (s.sources [a, b] → (s.popped [a, b]).room d = true →
      let gives (i : Instr) (v : Dword) : Prop := exec i s = .next (s.gave [a, b] 1 1 (.s d { val := v }))
      gives (.sShl g d a b) (BitVec.ofNat 64 (x.toNat * 2 ^ n)) ∧ gives (.sShr g d a b) (BitVec.ofNat 64 (x.toNat / 2 ^ n)) ∧
      gives (.sSra g d a b) (BitVec.ofInt 64 (x.toInt / 2 ^ n)) ∧
      ∃ v : Dword, gives (.sRot g d a b) v ∧ ∀ k, k < 64 → v.getLsbD ((k + n) % 64) = x.getLsbD k) ∧
    (s.sources [a] → (s.popped [a]).room d = true →
      let gives (i : Instr) (v : Dword) : Prop := exec i s = .next (s.gave [a] 1 1 (.s d { val := v }))
      gives (.sShli g d a b) (BitVec.ofNat 64 (x.toNat * 2 ^ m)) ∧ gives (.sShri g d a b) (BitVec.ofNat 64 (x.toNat / 2 ^ m)) ∧
      gives (.sSrai g d a b) (BitVec.ofInt 64 (x.toInt / 2 ^ m)))

/-- R126, R153 to R155, R157, R295: s.rdsr gives the register's value two cycles after issue, the tagged one for sr.ftb and sr.lc0 to sr.lc3; s.wrsr
is in force one cycle after issue in the bits that may be written, and changes nothing in a register marked read. Numbers 0x040 to 0x043 raise
PRIV outside VF0, and a poisoned source of s.wrsr raises its fault. Points that the spec leaves to the model or to inference: log entries 68, 77. -/
def Obligations.SystemRegistersAndPrivilege : Prop :=
  (∀ (s : State) (g : Guard) (d : BitVec 6) (r : BitVec 12), s.granted g → s.unprefixed →
    let secret : Prop := 0x040 ≤ r.toNat ∧ r.toNat ≤ 0x043
    let may : Prop := ¬secret ∨ s.vfOf s.cur.cell = 0
    let reads (n : BitVec 12) (v : Dword) : Prop := r = n → exec (.sRdsr g d r) s = .next ((s.result 2 (.s d { val := v })).retire 1)
    let sel := s.vf s.me.vfsel.toNat
    let ent : BitVec 16 := if sel.live then tget 0 sel.semMap sel.semSel.toNat else 0
    (s.room d = true → may →
      reads 0x000 (BitVec.ofNat 64 (s.vfOf s.cur.cell)) ∧ reads 0x001 (BitVec.ofNat 64 s.cur.cell) ∧
      reads 0x002 (BitVec.ofNat 64 (bhOf s.cur.cell)) ∧ reads 0x003 (BitVec.ofNat 64 s.cur.sc) ∧
      reads 0x010 (s.me.stat.zeroExtend 64) ∧ reads 0x011 s.me.srkey ∧ reads 0x012 (s.cur.ent.ftbTag.zeroExtend 64) ∧
      reads 0x020 s.me.tvec ∧ reads 0x021 (s.me.cause.zeroExtend 64) ∧ reads 0x022 (s.me.tinfo.zeroExtend 64) ∧ reads 0x023 s.me.taddr ∧
      reads 0x024 s.me.tscr ∧ reads 0x030 (s.here.dl.zeroExtend 64) ∧ reads 0x031 (BitVec.ofNat 64 s.wall) ∧
      reads 0x040 (((if ent.getLsbD 15 then (tget {} s.sems ((ent.extractLsb' 0 12).toNat)).val else 0).zeroExtend 64 <<< 32) |||
        (ent.zeroExtend 64 <<< 16) ||| sel.semSel.zeroExtend 64) ∧
      reads 0x041 (sel.gen.zeroExtend 64) ∧ reads 0x042 (if sel.live then shapeMask sel.cfg.shape else 0) ∧
      reads 0x043 (s.me.vfsel.zeroExtend 64) ∧
      ∀ n : BitVec 12, 0x050 ≤ n.toNat → n.toNat ≤ 0x053 → reads n (s.cur.ent.lcTag.zeroExtend 64)) ∧
    (s.room d = true → ¬may → exec (.sRdsr g d r) s = .next (s.raise Code.priv s.cur.ent.addr)) ∧
    (srcReady s.me [d] = true → ¬may → exec (.sWrsr g d r) s = .next (s.raise Code.priv s.cur.ent.addr)) ∧
    (srcReady s.me [d] = true → may → ∀ code, (s.me.readS d).tag = some code →
      exec (.sWrsr g d r) s = .next (s.raise code (s.sval d &&& 0x0FFFFFFFFFFFFFFF))) ∧
    (may → s.sources [d] →
      (r = 0x040 → exec (.sWrsr g d r) s = .next (s.gave [d] 1 1 (.semm s.me.vfsel ((s.sval d).truncate 8)))) ∧
      (r ∈ [0x010, 0x011, 0x020, 0x021, 0x022, 0x023, 0x024, 0x043] → exec (.sWrsr g d r) s = .next (s.gave [d] 1 1 (.sr r (s.sval d)))) ∧
      (r ≠ 0x040 → r ∉ ([0x010, 0x011, 0x020, 0x021, 0x022, 0x023, 0x024, 0x043] : List (BitVec 12)) →
        exec (.sWrsr g d r) s = .next ((s.popped [d]).retire 1)))) ∧
  (∀ (st : Strand) (v : Dword),
    st.commit1 (.sr 0x010 v) = { st with stat := v.extractLsb' 0 5 } ∧ st.commit1 (.sr 0x011 v) = { st with srkey := v } ∧
    st.commit1 (.sr 0x020 v) = { st with tvec := v } ∧ st.commit1 (.sr 0x021 v) = { st with cause := v.extractLsb' 0 24 } ∧
    st.commit1 (.sr 0x022 v) = { st with tinfo := (v.extractLsb' 8 35 ++ (0 : BitVec 3) ++ v.extractLsb' 0 5) } ∧
    st.commit1 (.sr 0x023 v) = { st with taddr := v } ∧ st.commit1 (.sr 0x024 v) = { st with tscr := v } ∧
    st.commit1 (.sr 0x043 v) = { st with vfsel := v.extractLsb' 0 7 })

/-! ### The B engine -/

/-- R118 to R120: a jump, call or return that fetch waits for sets the address at which fetch resumes in the next cycle, a call writes its link to s63
one cycle after issue, and a register target that is not a multiple of 4 raises ALIGN; an unguarded b.jmp or b.call has already redirected fetch
and leaves the program counter alone. R122, R125: b.loop starts its loop, skips an empty one, or is ILLEGAL; b.lbrk leaves the loop for the word
after its last. Points that the spec leaves to the model or to inference: log entries 51, 66. -/
def Obligations.BranchesAndLoops : Prop :=
  (∀ (s : State) (g : Guard) (i : BitVec 18) (a : BitVec 6), s.granted g →
     let dest : Dword := s.cur.ent.addr + 4 * immI18 s.cur.ent i
     let link : Pend := { due := s.now + 1, eng := s.cur.eng, ord := s.nextId, seq := s.cur.ent.seq, w := .s 63 { val := s.cur.ent.addr + 4 } }
     let goes (t : State) (pc : Dword) : Prop := t.me.pc = pc ∧ t.me.fblk = false ∧ t.me.fetchFrom = s.now + 1 ∧ s.issued t 1
     (unguarded g = false →
       answers (exec (.bJmp g i) s) (fun t => goes t dest ∧ t.me.pend = s.me.pend) ∧
       answers (exec (.bCall g i) s) (fun t => goes t dest ∧ t.me.pend = s.me.pend ++ [link])) ∧
     (unguarded g = true →
       answers (exec (.bJmp g i) s) (fun t => t.me.pc = s.me.pc ∧ t.me.pend = s.me.pend ∧ s.issued t 1) ∧
       answers (exec (.bCall g i) s) (fun t => t.me.pc = s.me.pc ∧ t.me.pend = s.me.pend ++ [link] ∧ s.issued t 1)) ∧
     (s.unprefixed → s.sources [a] → (s.sval a).extractLsb' 0 2 = 0 →
       answers (exec (.bJmpr g a) s) (fun t => goes t (s.sval a) ∧ t.me.pend = s.me.pend) ∧
       answers (exec (.bCallr g a) s) (fun t => goes t (s.sval a) ∧ t.me.pend = s.me.pend ++ [link])) ∧
     (s.unprefixed → s.sources [63] → (s.sval 63).extractLsb' 0 2 = 0 →
       answers (exec (.bRet g) s) (fun t => goes t (s.sval 63) ∧ t.me.pend = s.me.pend)) ∧
     (s.unprefixed → s.sources [a] → (s.sval a).extractLsb' 0 2 ≠ 0 →
       exec (.bJmpr g a) s = .next (s.raise Code.align (s.sval a)) ∧ exec (.bCallr g a) s = .next (s.raise Code.align (s.sval a)))) ∧
  (∀ (s : State) (g : Guard) (n : BitVec 3) (k : BitVec 2) (a i : BitVec 6), s.granted g →
     let off := immRI s.cur.ent i
     let last : Dword := s.cur.ent.addr + 4 * off
     let count : BitVec 32 := (s.sval a).truncate 32
     (off.slt 1 = true → exec (.bLoop g n k a i) s = .next (s.raise Code.illegal s.cur.ent.addr)) ∧
     (off.slt 1 = false → s.sources [a] →
       (loopRefused s.me k n s.cur.ent.addr = true → exec (.bLoop g n k a i) s = .next (s.raise Code.illegal s.cur.ent.addr)) ∧
       (loopRefused s.me k n s.cur.ent.addr = false → count ≠ 0 → answers (exec (.bLoop g n k a i) s) (fun t =>
         t.me.lc k.toNat = { act := true, start := s.cur.ent.addr + 4, last := last, n := n, lo := 0, hi := count, tgt := count, j := 0 } ∧
         t.me.pc = s.cur.ent.addr + 4 ∧ (∀ h, h ≠ k.toNat → t.me.lc h = s.me.lc h) ∧ s.issued t 1)) ∧
       (loopRefused s.me k n s.cur.ent.addr = false → count = 0 → answers (exec (.bLoop g n k a i) s) (fun t =>
         (t.me.lc k.toNat).act = false ∧ (t.me.lc k.toNat).j = 0 ∧ t.me.pc = last + 4 ∧ s.issued t 1))) ∧
     (s.unprefixed →
       ((s.me.lc k.toNat).act = true → answers (exec (.bLbrk g k) s) (fun t =>
         (t.me.lc k.toNat).act = false ∧ t.me.pc = (s.me.lc k.toNat).last + 4 ∧ s.issued t 1)) ∧
       ((s.me.lc k.toNat).act = false → answers (exec (.bLbrk g k) s) (fun t => t.me.loops = s.me.loops ∧ t.me.pc = s.me.pc ∧ s.issued t 1))))

/-- R119, R128 to R131, R133, R138: the words that stop, pause or arm a strand and select its format entries. A guarded b.yield, b.ppt or b.fmt acts
at issue, an unguarded one at its fetch. R131: a b.sleep ends when its count has expired, and fetch goes on in that cycle; before that nothing
changes. Points that the spec leaves to the model or to inference: log entry 51. -/
def Obligations.StrandControlWords : Prop :=
  (∀ (s : State) (g : Guard) (k : BitVec 2) (b a : BitVec 6) (i : BitVec 18), s.granted g →
     (s.unprefixed →
       exec (.bNop g) s = .next (s.retire 1) ∧
       (unguarded g = true → exec (.bYield g) s = .next (s.retire 1) ∧ exec (.bPpt g) s = .next (s.retire 1) ∧ exec (.bFmt g k b) s = .next (s.retire 1)) ∧
       (unguarded g = false →
         answers (exec (.bYield g) s) (fun t => t.here.lastFetch = s.cur.sc ∧ t.me.fblk = false ∧ s.issued t 1 ∧
           (s.me.swReq = true → s.me.swCut = none → t.me.swHalt = true)) ∧
         answers (exec (.bPpt g) s) (fun t => t.me.fblk = false ∧ s.issued t 1 ∧ (s.me.swReq = true → s.me.swCut = none → t.me.swHalt = true)) ∧
         answers (exec (.bFmt g k b) s) (fun t => t.me.fk = k ∧ t.me.ftb = b ∧ t.me.fblk = false ∧ s.issued t 1)) ∧
       (s.sources [a] → answers (exec (.bSleep g a) s) (fun t => t.me.sleepEnd = some (s.now + max 1 (s.sval a).toNat) ∧ s.issued t 1)) ∧
       (allIssuedBefore s.me s.cur.ent.seq = true → quiet s.here s.cur.sc = true → answers (exec (.bHalt g) s) (fun t =>
         t.me.halted = true ∧ t.me.q = [] ∧ t.me.y = [] ∧ (∀ h, h < 4 → (t.me.lc h).act = false) ∧ s.issued t 1)) ∧
       (allIssuedBefore s.me s.cur.ent.seq = false → exec (.bHalt g) s = .next (s.setHeld false))) ∧
     (allIssuedBefore s.me s.cur.ent.seq = true → answers (exec (.bArm g i) s) (fun t =>
       t.me.st = .dormant ∧ t.me.armedAt = s.now + 1 ∧ t.me.armed = s.cur.ent.addr + 4 * immI18 s.cur.ent i ∧ (∀ h, h < 4 → (t.me.lc h).act = false) ∧ s.issued t 1))) ∧
  (∀ (s : State) (c sc stop : Nat), (s.strand c sc).sleepEnd = some stop → (s.strand c sc).trap = none →
     ((s.cell c).time < stop → exec (.sleepEnd c sc) s = .next s) ∧
     (stop ≤ (s.cell c).time → answers (exec (.sleepEnd c sc) s) (fun t =>
       (t.strand c sc).sleepEnd = none ∧ (t.strand c sc).fblk = false ∧ (t.strand c sc).fetchFrom = (s.cell c).time ∧
       (t.strand c sc).sameRegs (s.strand c sc) ∧ t.mem = s.mem)))

/-! ### Traps -/

/-- R136: b.trap and b.sys leave their queue and begin a trap with the codes SWTRAP and SYS, the trap code of the word, and its address. R117, R276,
R342, R397: QDEAD begins a trap in its strand, and a report when B comes to a word of the strand. R398: after the cycle e in which the last
operation that the entry waits for has completed, the frame is written at sr.tscr by stores that are acknowledged at e + 64; registers that fail
their check, or a frame that cannot be written, make a partition reset of the VF due. In cycle e + 65, with the stores acknowledged, the handler
is entered at sr.tvec with the cause, tinfo and taddr of the fault, empty queues and no loop active, and the faults that have landed since the
frame are held. Before those cycles nothing happens. Points that the spec leaves to the model or to inference: log entries 49, 52, 65, 81. -/
def Obligations.TrapsBeginAndEnterTheHandler : Prop :=
  (∀ (s : State) (g : Guard) (i : BitVec 18), s.granted g → s.unprefixed → s.me.handler = false →
     let trap (code : Code) : Option Trap :=
       some { at' := s.now, code := code, tcode := i, taddr := s.cur.ent.addr, fpc := s.cur.ent.addr, eng := 0, late := false, rep := false }
     answers (exec (.bTrap g i) s) (fun t => t.me.trap = trap Code.swtrap) ∧ answers (exec (.bSys g i) s) (fun t => t.me.trap = trap Code.sys)) ∧
  (∀ (s : State) (c sc : Nat),
     let st := s.strand c sc
     st.trap = none → st.handler = false →
     (∀ (e : Nat) (l : List Nat) (x : Entry) (o : Option Slot), 65536 ≤ st.qdead → st.watched = e :: l → st.head e = some (x, o) →
       answers (exec (.qdead c sc) s) (fun t => (t.strand c sc).qdead = 0 ∧ (t.strand c sc).trap =
         some { at' := (s.cell c).time, code := Code.qdead, taddr := x.addr, fpc := x.addr, eng := BitVec.ofNat 3 e })) ∧
     (∀ (r : Report) (l : List Report), st.reports = r :: l → s.reachesB c sc = false → exec (.reportTaken c sc) s = .next s) ∧
     (∀ (r : Report) (l : List Report), st.reports = r :: l → st.st = .running → s.reachesB c sc = true →
       answers (exec (.reportTaken c sc) s) (fun t => (t.strand c sc).reports = l ∧ (t.strand c sc).trap =
         some { at' := (s.cell c).time, code := r.code, taddr := r.taddr, eng := r.eng, rep := true }))) ∧
  (∀ (s : State) (c sc e : Nat) (tr : Trap),
     let st := s.strand c sc
     let vf := s.vfOf c
     st.trap = some tr → st.handler = false → st.halted = false → (s.cell c).frozenOn = [] → (s.cell c).closed = false → tr.ready = some e →
     (tr.framed = none →
       ((s.cell c).time ≤ e ∨ entryReady (s.cell c) sc = false → exec (.trapEntry c sc) s = .next s) ∧
       (e < (s.cell c).time → entryReady (s.cell c) sc = true →
         (st.vectorsOk = false → answers (exec (.trapEntry c sc) s) (fun t => (t.vf vf).presetDue = true ∧ t.mem = s.mem)) ∧
         (st.vectorsOk = true →
           match s.writeVa (some c) vf (dieOf c) st.tscr.toNat (st.frame tr) with
           | .error _ => answers (exec (.trapEntry c sc) s) (fun t => (t.vf vf).presetDue = true ∧ t.mem = s.mem)
           | .ok (_, w) => answers (exec (.trapEntry c sc) s) (fun t =>
               t.mem = w.mem ∧ (t.strand c sc).sameRegs st ∧ (t.strand c sc).trap = some { tr with framed := some st.lates.length } ∧
               ∃ o, t.ops c = s.ops c ++ [o] ∧ o.sc = sc ∧ o.body = .frame ∧ o.due = e + 64)))) ∧
     (∀ n, tr.framed = some n →
       ((s.cell c).time < e + 65 ∨ frameStored (s.cell c) sc = false → exec (.trapEntry c sc) s = .next s) ∧
       (e + 65 ≤ (s.cell c).time → frameStored (s.cell c) sc = true → answers (exec (.trapEntry c sc) s) (fun t =>
         let x := t.strand c sc
         t.mem = s.mem ∧ x.handler = true ∧ x.pc = st.tvec ∧ x.cause = tr.causeOf ∧ x.tinfo = ({ st with lates := st.lates.take n } : Strand).tinfoOf tr ∧
         x.taddr = tr.taddr ∧ x.lates = st.lates.drop n ∧ x.trap = none ∧ x.q = [] ∧ x.queues = [] ∧ (∀ k, k < 4 → (x.lc k).act = false) ∧
         x.fetchFrom = e + 65 ∧ x.s = st.s ∧ x.p = st.p ∧ x.m = st.m ∧ x.v = st.v ∧ x.y = st.y ∧ x.stat = st.stat ∧
         x.tvec = st.tvec ∧ x.tscr = st.tscr))))

/-- R400: the trap frame is 10,240 bytes and holds the cause, the trap address, the fault's address, the next address, s1 to s15, m1 to m7 and p1 to
p7 at their offsets. R400, R404: what a trap frame saved of a strand whose queue registers hold at most 8 entries is what b.rfe's restore gives
back: s1 to s15 with their tags, p1 to p7, m1 to m7, the queue registers, the loop counters, the format base and counter, and the next address.
R137, R404: b.rfe outside a handler is ILLEGAL. In a handler, once every other word has issued and every operation has completed, it reads its
frame, and completes 64 cycles after issue: a frame that it accepts is restored, the handler flag is cleared, and fetch goes on 65 cycles after
issue; a frame that it refuses is ILLEGAL, and one that cannot be read raises its fault. Points that the spec leaves to the model or to inference:
log entries 49, 50, 76. -/
def Obligations.TrapFramesAreSavedAndRestored : Prop :=
  (∀ (st : Strand) (tr : Trap),
     let f := st.frame tr
     f.length = 10240 ∧ fld' f 0 8 = tr.causeOf.toNat ∧ fld' f 8 8 = (st.tinfoOf tr).toNat ∧ fld' f 16 8 = tr.taddr.toNat ∧
     fld' f 24 8 = tr.fpc.toNat ∧ fld' f 32 8 = st.npc.toNat ∧ fld' f 56 8 = (st.p &&& 0xFE).toNat ∧
     (∀ k, 1 ≤ k → k ≤ 15 → fld' f (64 + 8 * (k - 1)) 8 = (tget {} st.s k).val.toNat) ∧
     (∀ k, 1 ≤ k → k ≤ 7 → fld' f (192 + 8 * (k - 1)) 8 = (tget 0 st.m k).toNat)) ∧
  (∀ (st h : Strand) (tr : Trap) (z : Nat), (∀ j, j < 8 → (st.queue j).length ≤ 8) →
     let x := h.restore (st.frame tr) z
     (∀ k : BitVec 6, 1 ≤ k.toNat → k.toNat ≤ 15 → x.readS k = st.readS k) ∧
     (∀ i : BitVec 3, x.readP i = st.readP i) ∧ (∀ i : BitVec 3, x.readM i = st.readM i) ∧
     (∀ j, j < 8 → x.queue j = st.queue j) ∧ (∀ k, k < 4 → x.lc k = st.lc k) ∧
     x.fk = st.fk ∧ x.ftb = st.ftb ∧ x.fblk = st.fblk ∧ x.pmark = st.pmark ∧ x.pc = st.npc ∧ x.handler = false) ∧
  ((∀ (s : State) (g : Guard), s.granted g → s.unprefixed →
     (s.me.handler = false → exec (.bRfe g) s = .next (s.raise Code.illegal s.cur.ent.addr)) ∧
     (s.me.handler = true → allIssuedBefore s.me s.cur.ent.seq = true → quiet s.here s.cur.sc = true →
       answers (exec (.bRfe g) s) (fun t => s.issued t 1 ∧ t.me.sameRegs s.me ∧ t.mem = s.mem ∧ s.started t 64 (fun o =>
         match s.readVa (some s.cur.cell) (s.vfOf s.cur.cell) (dieOf s.cur.cell) s.me.tscr.toNat 10240 with
         | .error e => (∃ f, o.body = .rfe f) ∧ o.err = some e
         | .ok f => o.body = .rfe f ∧ o.err = none)))) ∧
   (∀ (s : State) (c : Nat) (o : Op) (f : List Byte), o.body = .rfe f → o.due ≤ (s.cell c).time →
     (o.id ∈ s.env.slow → o.id ∈ (s.cell c).frozenOn) →
     (∀ q ∈ s.ops c, q.sc = o.sc → q.id = o.id) →
     (∀ code a, o.err = some (code, a) → s.finishFrame c o = s.lateFault c o code a) ∧
     (o.err = none → frameOk f = false → s.finishFrame c o = s.lateFault c o Code.illegal o.ent.addr) ∧
     (o.err = none → frameOk f = true →
       let t := s.finishFrame c o
       let x := (s.strand c o.sc).restore f (o.issued + 65)
       let y := t.strand c o.sc
       y.handler = false ∧ y.s = x.s ∧ y.p = x.p ∧ y.m = x.m ∧ y.q = x.q ∧ y.fk = x.fk ∧ y.ftb = x.ftb ∧ y.fetchFrom = o.issued + 65 ∧
         t.mem = s.mem ∧ t.findOp c o.id = none)))

/-! ### The V and X engines -/

/-- R94, R161, R166, R170: lane words on vectors without poison. Every lane of the result is computed from the same lane of the sources, and the lanes
that the mask selects are in flight for the word's latency; integer and logic words raise no flag. R166, R167, R170, R182: lane words of one
source or none, the fused multiply-add, and the special functions with their latency and occupancy. R8, R57, R66, R167: an FP32 value is exact
under rounding. Every finite FP32 number, rounded to nearest even, is itself, without flags. R161, R163, R164, R168 to R170: compares into masks,
mask words, the moves between scalars and lanes, from a vector register or a result port that gives up its row; a poisoned vector raises its fault
at a compare. Points that the spec leaves to the model or to inference: log entry 67. -/
def Obligations.LaneWordsComputeEachLane : Prop :=
  (∀ (s : State) (g : Guard) (d a b : BitVec 5), s.plain → vsrcReady s.me [a, b] = true →
     let mask := guardM s.me s.cur.ent g
     let gives (i : Instr) (lat : Nat) (f : Nat → BitVec 32 × Flags) : Prop :=
       exec i s = .next (s.vgave [a, b] d mask lat 1 ((upto 64).map f))
     let x (k : Nat) : BitVec 32 := lane (s.vval a) k
     let y (k : Nat) : BitVec 32 := lane (s.vval b) k
     gives (.vFadd g d a b) 4 (fun k => rne32 ((f32 (x k)).add (f32 (y k)))) ∧
     gives (.vFsub g d a b) 4 (fun k => rne32 ((f32 (x k)).sub (f32 (y k)))) ∧
     gives (.vFmul g d a b) 4 (fun k => rne32 ((f32 (x k)).mul (f32 (y k)))) ∧
     gives (.vFmin g d a b) 4 (fun k => fminmax false (x k) (y k)) ∧ gives (.vFmax g d a b) 4 (fun k => fminmax true (x k) (y k)) ∧
     gives (.vIadd g d a b) 2 (fun k => (x k + y k, 0)) ∧ gives (.vIsub g d a b) 2 (fun k => (x k - y k, 0)) ∧
     gives (.vImul g d a b) 4 (fun k => (x k * y k, 0)) ∧
     gives (.vImin g d a b) 2 (fun k => (if (x k).toInt ≤ (y k).toInt then x k else y k, 0)) ∧
     gives (.vImax g d a b) 2 (fun k => (if (y k).toInt ≤ (x k).toInt then x k else y k, 0)) ∧
     gives (.vAnd g d a b) 2 (fun k => (x k &&& y k, 0)) ∧ gives (.vOr g d a b) 2 (fun k => (x k ||| y k, 0)) ∧
     gives (.vXor g d a b) 2 (fun k => (x k ^^^ y k, 0)) ∧
     gives (.vShl g d a b) 2 (fun k => (x k <<< ((y k).toNat % 32), 0)) ∧ gives (.vShr g d a b) 2 (fun k => (x k >>> ((y k).toNat % 32), 0)) ∧
     gives (.vSra g d a b) 2 (fun k => ((x k).sshiftRight ((y k).toNat % 32), 0)) ∧
     gives (.vPerm g d a b) 3 (fun k => (x ((y k).toNat % 64), 0))) ∧
  (∀ (s : State) (g : Guard) (d a b : BitVec 5), s.plain →
     let mask := guardM s.me s.cur.ent g
     let x (k : Nat) : BitVec 32 := lane (s.vval a) k
     let gives (vs : List (BitVec 5)) (i : Instr) (lat occ : Nat) (f : Nat → BitVec 32 × Flags) : Prop :=
       exec i s = .next (s.vgave vs d mask lat occ ((upto 64).map f))
     gives [] (.vVid g d) 2 1 (fun k => (BitVec.ofNat 32 k, 0)) ∧
     (vsrcReady s.me [a] = true →
       gives [a] (.vMov g d a) 2 1 (fun k => (x k, 0)) ∧
       gives [a] (.vFabs g d a) 4 1 (fun k => if (f32 (x k)).isNan then (0x7FC00000, Flags.nan) else (x k &&& 0x7FFFFFFF, 0)) ∧
       gives [a] (.xExp2 g d a) 12 4 (fun k => sfuExp2 (x k)) ∧ gives [a] (.xLog2 g d a) 12 4 (fun k => sfuLog2 (x k)) ∧
       gives [a] (.xRcp g d a) 12 4 (fun k => sfuRcp (x k)) ∧ gives [a] (.xRsqrt g d a) 12 4 (fun k => sfuRsqrt (x k)) ∧
       gives [a] (.xSqrt g d a) 12 4 (fun k => sfuSqrt (x k)) ∧ gives [a] (.xTanh g d a) 12 4 (fun k => sfuTanh (x k)) ∧
       gives [a] (.xSigm g d a) 12 4 (fun k => sfuSigm (x k))) ∧
     (vsrcReady s.me [a, b, d] = true →
       gives [a, b, d] (.vFfma g d a b) 4 1 (fun k =>
         rne32 (((f32 (x k)).mul (f32 (lane (s.vval b) k))).add (f32 (lane (s.vval d) k)))))) ∧
  (∀ x : BitVec 32, x.extractLsb' 23 8 ≠ 0xFF → rne32 (f32 x) = (x, 0)) ∧
  (∀ (s : State) (g : Guard) (c m p q : BitVec 3) (d a b : BitVec 5) (r u w : BitVec 6), s.plain →
     let mask := guardM s.me s.cur.ent g
     let x (k : Nat) : BitVec 32 := lane (s.vval a) k
     let y (k : Nat) : BitVec 32 := lane (s.vval b) k
     let gaveMask (t : State) (v : Dword) : State := (t.result 1 (.m m v mask)).retire 1
     (s.vsources [a, b] →
       exec (.vFcmp g c m a b) s = .next (((s.vpopped [a, b]).result 2 (.m m (maskOf (fun k => condF c (x k) (y k))) mask)).retire 1) ∧
       exec (.vIcmp g c m a b) s = .next (((s.vpopped [a, b]).result 2 (.m m (maskOf (fun k => condI c (x k) (y k))) mask)).retire 1)) ∧
     (vsrcReady s.me [a, b] = true → ∀ code va, firstVTag ([a, b].map s.me.readV) = some (code, va) →
       exec (.vIcmp g c m a b) s = .next (s.raise code (va.zeroExtend 64)) ∧ exec (.vFcmp g c m a b) s = .next (s.raise code (va.zeroExtend 64))) ∧
     exec (.vMand g m p q) s = .next (gaveMask s (s.me.readM p &&& s.me.readM q)) ∧
     exec (.vMor g m p q) s = .next (gaveMask s (s.me.readM p ||| s.me.readM q)) ∧
     exec (.vMnot g m p) s = .next (gaveMask s (~~~s.me.readM p)) ∧
     (s.room r = true →
       let ones := (List.range 64).countP (fun k => (s.me.readM p &&& mask).getLsbD k)
       exec (.vMpop g r p) s = .next ((s.result 1 (.s r { val := BitVec.ofNat 64 ones })).retire 1)) ∧
     (s.sources [u] → exec (.vBcast g d u) s =
       .next (((s.popped [u]).vresult 2 d [] mask ((upto 64).map (fun _ => ((s.sval u).truncate 32, 0)))).retire 1)) ∧
     (s.sources [u, w] → exec (.vIns g d u w) s =
       .next (((s.popped [u, w]).vresult 2 d [] (mask &&& ((1 : Dword) <<< ((s.sval w).toNat % 64)))
         ((upto 64).map (fun _ => ((s.sval u).truncate 32, 0)))).retire 1)) ∧
     (s.vsources [a] → s.sources [w] →
       let t := (s.vpopped [a]).popped [w]
       let n := (s.sval w).toNat % 64
       t.room r = true →
         (mask.getLsbD n = true → exec (.vMvs g r a w) s = .next ((t.result 2 (.s r { val := (x n).zeroExtend 64 })).retire 1)) ∧
         (mask.getLsbD n = false → isQ r = true → exec (.vMvs g r a w) s = .next ((t.result 2 (.unreserve r)).retire 1)) ∧
         (mask.getLsbD n = false → isQ r = false → exec (.vMvs g r a w) s = .next (t.retire 1))))

/-- R161, R163, R171 to R173, R183: reductions give a scalar after 14 or 8 cycles and hold V for 2, poisoned when their vector is; a scan gives its
prefixes after 16 and holds V for 4; v.chk without poison does nothing, and with poison raises its fault. R171 to R173: with every lane out of the
mask a sum is +0, a maximum −∞, its index −1 and a minimum +∞, without flags, and a scan gives +0 in every lane. A sum combines neighbours in six
levels; no number of the mask is above the maximum or below the minimum, and the index of a maximum names the lowest lane of the mask that holds
it; with every lane of the mask NaN they are the canonical NaN, and −1. A scan starts anew at the first lane of the mask and goes on from the
prefix before. Points that the spec leaves to the model or to inference: log entries 67, 78. -/
def Obligations.ReductionsScansAndChecks : Prop :=
  (∀ (s : State) (g : Guard) (d a : BitVec 5) (r : BitVec 6) (o : BitVec 2), s.plain → vsrcReady s.me [a] = true →
     let mask := guardM s.me s.cur.ent g
     let v := s.vval a
     let held (n : Dword) : Sval :=
       match (s.me.readV a).tag with | some (code, va) => { val := va.zeroExtend 64, tag := some code } | none => { val := n }
     let gives (i : Instr) (lat : Nat) (x : Dword × Flags) : Prop :=
       exec i s = .next ((((s.vpopped [a]).result lat (.s r (held x.1))).flag lat x.2).retire 2)
     ((s.vpopped [a]).room r = true →
       gives (.vRedsum g r a) 14 (redSum mask v) ∧ gives (.vRedmax g r a) 8 (redMax mask v) ∧
       gives (.vRedmaxi g r a) 8 (redMaxi mask v) ∧ gives (.vRedmin g r a) 8 (redMin mask v)) ∧
     exec (.vScan g d a o) s = .next (s.vgave [a] d mask 16 4 (scanLanes o mask v (upto 64) none)) ∧
     ((s.me.readV a).tag = none → exec (.vChk g a) s = .next ((s.vpopped [a]).retire 1)) ∧
     (∀ code va, (s.me.readV a).tag = some (code, va) → exec (.vChk g a) s = .next (s.raise code (va.zeroExtend 64)))) ∧
  ((∀ (mask : Dword) (v : Vec), ∃ x : Nat → Nat → Option (BitVec 32),
     (∀ i, x 0 i = if i < 64 ∧ mask.getLsbD i = true then some (lane v i) else none) ∧
     (∀ n i, n < 6 → x (n + 1) i = match x n (2 * i), x n (2 * i + 1) with
       | some a, some b => some (rne32 ((f32 a).add (f32 b))).1
       | none, b => b
       | a, none => a) ∧
     (redSum mask v).1 = match x 6 0 with
       | some a => if (f32 a).isNan then 0x7FC00000 else a.zeroExtend 64
       | none => 0) ∧
   (∀ (mask : Dword) (v : Vec), mask ≠ 0 → (∀ k, k < 64 → mask.getLsbD k = true → (f32 (lane v k)).isNan = true) →
     redMax mask v = (0x7FC00000, Flags.nan) ∧ redMin mask v = (0x7FC00000, Flags.nan) ∧ redMaxi mask v = (BitVec.allOnes 64, Flags.nan)) ∧
   (∀ (mask : Dword) (v : Vec) (k : Nat), k < 64 → mask.getLsbD k = true → (f32 (lane v k)).isNan = false →
     FVal.below (f32 ((redMax mask v).1.truncate 32)) (f32 (lane v k)) = false ∧
     FVal.below (f32 (lane v k)) (f32 ((redMin mask v).1.truncate 32)) = false ∧
     (redMax mask v).2 = 0 ∧ (redMin mask v).2 = 0 ∧
     ∃ i, i < 64 ∧ redMaxi mask v = (BitVec.ofNat 64 i, 0) ∧ ∀ j, j < i → mask.getLsbD j = true →
       FVal.below (f32 (lane v j)) (f32 (lane v i)) = true) ∧
   (∀ (o : BitVec 2) (mask : Dword) (v : Vec) (i : Nat) (l : List Nat) (acc : Option (BitVec 32)),
     scanLanes o mask v (i :: l) acc =
       if mask.getLsbD i then
         let x := match acc with
           | none => if (f32 (lane v i)).isNan then (0x7FC00000, Flags.nan) else (lane v i, 0)
           | some a => if o = 0 then rne32 ((f32 a).add (f32 (lane v i))) else fminmax (decide (o = 1)) a (lane v i)
         x :: scanLanes o mask v l (some x.1)
       else (0, 0) :: scanLanes o mask v l acc) ∧
   (∀ v : Vec, redSum 0 v = (0, 0) ∧ redMax 0 v = (0xFF800000, 0) ∧ redMaxi 0 v = (BitVec.allOnes 64, 0) ∧ redMin 0 v = (0x7F800000, 0)) ∧
   (∀ (o : BitVec 2) (v : Vec), scanLanes o 0 v (upto 64) none = (upto 64).map (fun _ => (0, 0))) ∧
   (∀ (mask : Dword) (v : Vec) (k : Nat), k < 64 → (redMaxi mask v).1 = BitVec.ofNat 64 k →
     mask.getLsbD k = true ∧ (redMax mask v).1 = (lane v k).zeroExtend 64))

/-- R73, R76, R161, R164, R174 to R181: conversions, packing, unpacking, scaling and drawing, by the code in the word or under .ft by the word's entry
of the format cache. A code that is no target, or any code under .ft, v.pack of 0 planes, v.unpk of 0 planes or of any under .ft, and a scale
destination v28 to v31 or d are ILLEGAL; an entry with a mark raises its fault and a reserved field of it is ILLEGAL. Points that the spec leaves
to the model or to inference: log entries 44, 79. -/
def Obligations.ConversionsAndDraws : Prop :=
  ∀ (s : State) (g : Guard) (d a b : BitVec 5) (c : BitVec 4) (k : BitVec 3) (u w : BitVec 6), s.plain →
    let mask := guardM s.me s.cur.ent g
    let v := s.vval a
    let x (n : Nat) : BitVec 32 := lane v n
    let illegal (i : Instr) : Prop := exec i s = .next (s.raise Code.illegal s.cur.ent.addr)
    let entry := s.ftEntry s.cur.cell (ftIndex s.cur.ent)
    let whole (lat occ : Nat) (r : Vec) (f : Flags) : State := ((s.vpopped [a]).vwhole lat d [s.me.readV a] mask r f).retire occ
    let lat (m : RMode) : Nat := if m = .ef then 20 else 6
    let occ (m : RMode) : Nat := if m = .ef then 4 else 1
    let narrowed (t : Target) (m : RMode) : State :=
      let rs := roundBlock t m ((upto 64).map (fun n => (f32 (x n), s.vdraw 0x1F n (x n), gExp (f32 (x n)))))
      whole (lat m) (occ m) (packElems t.width (rs.map (·.bits))) (elemFlags mask t.width (rs.map (·.flags)))
    let widened (t : Target) (m : RMode) : State := s.vgave [a] d mask (lat m) (occ m) ((roundBlock .fp32 m ((upto 64).map (fun n =>
      (t.value (elemAt v t.width n), s.vdraw 0x1F n (BitVec.ofNat 32 (elemAt v t.width n)), (0 : Int))))).map (fun r => (BitVec.ofNat 32 r.bits, r.flags)))
    let packed (j : Nat) (m : RMode) : State :=
      let rs := roundBlock (.nh j) m ((upto 64).map (fun n => (f32 (x n), s.vdraw 0x20 n (x n), gExp (f32 (x n)))))
      whole (lat m) (occ m) (packPlanes j (rs.map (·.bits))) (if (upto (2 * j)).any (fun i => mask.getLsbD i) then orFlags (rs.map (fun r => if r.sat then r.flags else r.flags &&& ~~~Flags.ovf)) else 0)
    let unpacked (j : Nat) : State :=
      s.vgave [a] d mask 6 1 ((upto 64).map (fun n => ((rne32 ((Target.nh j).value (planeCode v.toNat j n))).1, 0)))
    (∀ wide, cvtTarget c.toNat = none → illegal (.vCvt g false d wide a c)) ∧ (∀ wide, c ≠ 0 → illegal (.vCvt g true d wide a c)) ∧
    (∀ ft, illegal (.vPack g ft d a 0)) ∧ illegal (.vUnpk g false d a 0) ∧ (k ≠ 0 → illegal (.vUnpk g true d a k)) ∧
    (isY b = true ∨ b = d → illegal (.vScal g true d a b)) ∧
    (vsrcReady s.me [a] = true →
      (∀ wide t, cvtTarget c.toNat = some t →
        exec (.vCvt g false d wide a c) s = .next (if wide then widened t .rne else narrowed t .rne)) ∧
      (k ≠ 0 → exec (.vPack g false d a k) s = .next (packed (k.toNat + 1) .rne) ∧
        exec (.vUnpk g false d a k) s = .next (unpacked (k.toNat + 1))) ∧
      (∀ code va, entry = .error (code, va) → (∀ wide, exec (.vCvt g true d wide a 0) s = .next (s.raise code va)) ∧
        (k ≠ 0 → exec (.vPack g true d a k) s = .next (s.raise code va)) ∧ exec (.vUnpk g true d a 0) s = .next (s.raise code va) ∧
        (isY b = false → b ≠ d → exec (.vScal g true d a b) s = .next (s.raise code va))) ∧
      (∀ e, entry = .ok e → e.extractLsb' 26 6 ≠ 0 → (∀ wide, illegal (.vCvt g true d wide a 0)) ∧ illegal (.vPack g true d a k) ∧
        illegal (.vUnpk g true d a 0) ∧ illegal (.vScal g true d a b)) ∧
      (∀ e m, entry = .ok e → e.extractLsb' 26 6 = 0 → RMode.ofCode (ftRnd e) = some m →
        (∀ t, cvtTarget (ftOut e) = some t → exec (.vCvt g true d false a 0) s = .next (narrowed t m)) ∧
        (∀ t, cvtTarget (ftAfmt e) = some t → ftApl e = 0 → exec (.vCvt g true d true a 0) s = .next (widened t m)) ∧
        (k ≠ 0 → ftOut e = 5 → exec (.vPack g true d a k) s = .next (packed (k.toNat + 1) m))) ∧
      (∀ e, entry = .ok e → e.extractLsb' 26 6 = 0 →
        (ftAfmt e = 5 → ftApl e ≠ 0 → exec (.vUnpk g true d a 0) s = .next (unpacked (ftApl e + 1))) ∧
        (∀ t, Target.ofCode (ftOut e) 8 = some t → ftOut e ∈ [3, 4, 5] → isY b = false → b ≠ d →
          exec (.vScal g true d a b) s = .next (
            let r := scalChoose t mask v
            ((((s.vpopped [a]).vresult 6 d [s.me.readV a] mask r.2).vresult 6 b [s.me.readV a] mask
              ((upto 64).map (fun _ => (r.1.zeroExtend 32, 0)))).retire 1))))) ∧
    (vsrcReady s.me [a, b] = true → exec (.vScal g false d a b) s =
      .next (s.vgave [a, b] d mask 6 1 ((upto 64).map (fun n => scalApply (x n) (lane (s.vval b) n))))) ∧
    (s.sources [u, w] → exec (.vDraw g d u w) s =
      .next (((s.popped [u, w]).vresult 16 d [] mask ((upto 64).map (fun n => (drawLane (s.sval u) (s.sval w) n, 0)))).retire 4)) ∧
    (srcReady s.me [u, w] = true → ∀ code va, firstPoison ([u, w].map s.me.readS) = some (code, va) →
      exec (.vDraw g d u w) s = .next (s.raise code (va &&& 0x0FFFFFFFFFFFFFFF)))

/-! ### Scratchpad, handles and tile loads -/

/-- R192, R193: the layout of a descriptor places each byte of its addressable size in its lines, and no two bytes in one place. R187, R192, R203:
bytes written at an offset of an entry are read back from it, and every byte of the scratchpad outside the entry's storage, and every word's
poison there, stay as they were. R187, R202, R203, R206: a load, store or atomic through a SCRATCH handle starts its access to the lines of its
bytes, one group of 32 lines a cycle; a load gives its data 3 cycles after its last group, a store completes 1 after it, an atomic 3 after issue.
R93, R189, R198, R202: an access through a handle that names no live entry raises HANDLE, a misaligned one ALIGN and one outside the addressable
size BOUNDS, with the offset, once the waits of the word are over (through a PEER handle, for a buffer entry too); l.atom takes no PEER handle,
l.atom with op 7 and a vector load to a result port are ILLEGAL. Points that the spec leaves to the model or to inference: log entry 43. -/
def Obligations.ScratchWordsCheckAndStartTheirAccess : Prop :=
  (∀ (d : Dword) (o q : Nat), o < tdSize d → q < tdSize d →
     let at' (k : Nat) : Nat := 64 * (locate d k).1 + (locate d k).2.1
     (locate d o).1 < tdLines d ∧ (locate d o).2.1 < 64 ∧ (at' o = at' q → o = q)) ∧
  (∀ (x : Cell) (e : TEntry) (o : Nat) (l : List Byte), 0 < l.length → o + l.length ≤ tdSize e.desc →
     let y := x.entryWrite e o l
     y.entryBytes e o l.length = l ∧
     (∀ k, k < e.base ∨ e.base + 64 * tdLines e.desc ≤ k → tget 0 y.scratch k = tget 0 x.scratch k) ∧
     (∀ w, 8 * w + 8 ≤ e.base ∨ e.base + 64 * tdLines e.desc ≤ 8 * w → tget false y.spoison w = tget false x.spoison w)) ∧
  (∀ (s : State) (g : Guard) (d a b : BitVec 6) (v : BitVec 5) (o j : BitVec 3) (e : TEntry), s.granted g →
     let h := s.sval a
     let off := s.sval b + disp s.cur.ent
     let use : HUse := .scratch s.cur.cell (hdIdx h)
     let parts (n : Nat) : List Part := partsOf e.desc e.base off.toNat n
     let fits (n align : Nat) : Prop := off.toNat % align = 0 ∧ 0 ≤ off.toInt ∧ off.toNat + n ≤ tdSize e.desc
     let starts (i : Instr) (lat occ : Nat) (body : OpBody) : Prop := answers (exec i s) (fun t =>
       s.started t lat (fun p => p.body = body ∧ p.addr = some off ∧ p.uses = [use]) ∧ s.issued t occ ∧ t.mem = s.mem)
     s.cellHandle s.cur.cell h = some e → tdLvl e.desc = 0 →
     (s.sources [a, b] → (s.popped [a, b]).room d = true → fits 8 8 →
       let gs := groupParts (parts 8)
       starts (.lLds g d a b) (3 + gs.length) gs.length (.sload (.s d) none gs [] none)) ∧
     (s.sources [a, b] → isY v = false → fits 256 4 →
       let gs := groupParts (parts 256)
       starts (.lLdvs g v a b) (3 + gs.length) gs.length (.sload (.v v) none gs [] none)) ∧
     (s.sources [a, b, d] → fits 8 8 →
       let gs := groupParts (withData (parts 8) (le8 (s.sval d)))
       starts (.lSts g d a b) (1 + gs.length) gs.length (.sstore gs)) ∧
     (s.sources [a, b] → s.vsources [v] → fits 256 4 →
       let gs := groupParts (withData (parts 256) (leBytes (s.vval v).toNat 256))
       starts (.lStvs g v a b) (1 + gs.length) gs.length (.sstore gs)) ∧
     (o ≠ 7 → s.sources (a :: b :: atomSources o j) → hdLvl h = 0 → fits 8 8 →
       starts (.lAtom g o j a b) 3 1 (.satom (parts 8) off.toNat o (s.sval (8 + j.zeroExtend 6))
         (if o = 4 then s.sval (8 + j.zeroExtend 6 + 1) else 0) (8 + j.zeroExtend 6)))) ∧
  (∀ (s : State) (g : Guard) (d a b : BitVec 6) (v u : BitVec 5) (o j : BitVec 3), s.granted g →
     let off := s.sval b + disp s.cur.ent
     let entry := s.cellHandle s.cur.cell (s.sval a)
     let outside (n : Nat) : Prop := ∃ e, entry = some e ∧ (off.toInt < 0 ∨ tdSize e.desc < off.toNat + n)
     let checks (n align : Nat) (i : Instr) : Prop :=
       (entry = none → exec i s = .next (s.raise Code.handle off)) ∧
       (entry.isSome = true → off.toNat % align ≠ 0 → exec i s = .next (s.raise Code.align off)) ∧
       (off.toNat % align = 0 → outside n → exec i s = .next (s.raise Code.bounds off))
     ((∀ e, entry = some e → tdLvl e.desc = 2 → s.landingFree = true ∧ s.sendFree = true) →
       (s.sources [a, b] → (s.popped [a, b]).room d = true → checks 8 8 (.lLds g d a b)) ∧
       (s.sources [a, b, d] → checks 8 8 (.lSts g d a b)) ∧
       (s.sources [a, b] → isY v = false → checks 256 4 (.lLdvs g v a b)) ∧
       (s.sources [a, b] → s.vsources [u] → checks 256 4 (.lStvs g u a b))) ∧
     (o ≠ 7 → s.sources (a :: b :: atomSources o j) → (hdLvl (s.sval a) = 0 → checks 8 8 (.lAtom g o j a b)) ∧
       (hdLvl (s.sval a) ≠ 0 → exec (.lAtom g o j a b) s = .next (s.raise Code.handle off))) ∧
     exec (.lAtom g 7 j a b) s = .next (s.raise Code.illegal s.cur.ent.addr) ∧
     (28 ≤ v.toNat → exec (.lLdvs g v a b) s = .next (s.raise Code.illegal s.cur.ent.addr)))

/-- R46, R47, R197, R198, R308: a load, store or atomic through a PEER handle whose window admits it, with a buffer entry free, sends its request to
the owner: a load or atomic arrives its handle's (or its word's) delay after issue and holds a landing entry, a store completes 64 cycles after
issue and holds a send-buffer entry. Through a window that does not admit it the word raises WINDOW. R185, R186, R198, R308, R385: a request that
waits for no earlier one of its strand, and that its owner accepts, moves the lines that the owner's fill port takes in this cycle, in ascending
order: once no line is left, a store's bytes are in the entry and a load's bytes are the data of the operation; until then the request goes on
with the lines that are left. An atomic's old bytes are its data and its word holds the new value. A request that the owner refuses changes no
scratchpad and carries its error. Points that the spec leaves to the model or to inference: log entries 42, 47. -/
def Obligations.PeerRequestsAreSentAndApplied : Prop :=
  (∀ (s : State) (g : Guard) (d a b c : BitVec 6) (v : BitVec 5) (o j : BitVec 3) (e : TEntry), s.granted g →
     let h := s.sval a
     let off := s.sval b + disp s.cur.ent
     let fits (k : Dword) (n align : Nat) : Prop := k.toNat % align = 0 ∧ 0 ≤ k.toInt ∧ k.toNat + n ≤ tdSize e.desc
     let window (i : Instr) : Prop := exec i s = .next (s.raise Code.window s.cur.ent.addr)
     let lat : Nat := 8 + 4 * (tdArr e.desc).toNat
     let starts (i : Instr) (lat : Nat) (body : OpBody) (buf : Buf) (at' : Dword) (r : Req) : Prop := answers (exec i s) (fun t =>
       s.started t lat (fun p => p.body = body ∧ p.buf = buf ∧ p.addr = some at' ∧ p.req = some r) ∧ s.issued t 1 ∧ t.mem = s.mem)
     s.cellHandle s.cur.cell h = some e → tdLvl e.desc = 2 →
     (s.sources [a, b] → s.landingFree = true →
       ((s.popped [a, b]).room d = true → fits off 8 8 →
         (s.windowOk e.peer .load = true → starts (.lLds g d a b) lat (.timedS d none false) .landing off (.peerRead e.peer [(off.toNat, 8)] none)) ∧
         (s.windowOk e.peer .load = false → window (.lLds g d a b))) ∧
       (isY v = false → fits off 256 4 →
         (s.windowOk e.peer .load = true → starts (.lLdvs g v a b) lat (.timedV v none false) .landing off (.peerRead e.peer [(off.toNat, 256)] none)) ∧
         (s.windowOk e.peer .load = false → window (.lLdvs g v a b)))) ∧
     (s.sendFree = true →
       (s.sources [a, b, d] → fits off 8 8 →
         (s.windowOk e.peer .store = true → starts (.lSts g d a b) 64 .store .send off (.peerWrite e.peer off.toNat (le8 (s.sval d)))) ∧
         (s.windowOk e.peer .store = false → window (.lSts g d a b))) ∧
       (s.sources [a, b] → s.vsources [v] → fits off 256 4 →
         (s.windowOk e.peer .store = true →
           starts (.lStvs g v a b) 64 .store .send off (.peerWrite e.peer off.toNat (leBytes (s.vval v).toNat 256))) ∧
         (s.windowOk e.peer .store = false → window (.lStvs g v a b)))) ∧
     (o ≠ 7 → s.sources (a :: atomSources o j) → hdLvl h = 2 → fits (disp s.cur.ent) 8 8 → s.landingFree = true →
       (s.windowOk e.peer .atomic = true →
         starts (.lRatom g o j a c) (8 + 4 * c.toNat) (.timedS (8 + j.zeroExtend 6) none false) .landing (disp s.cur.ent)
           (.ratom e.peer o (disp s.cur.ent).toNat (s.sval (8 + j.zeroExtend 6)) (if o = 4 then s.sval (8 + j.zeroExtend 6 + 1) else 0))) ∧
       (s.windowOk e.peer .atomic = false → window (.lRatom g o j a c)))) ∧
  (∀ (s : State) (i c : Nat) (o : Op) (p : Peer) (e : TEntry) (code : Code) (off idx n : Nat) (l : List Byte) (op : BitVec 3) (x y : Dword)
     (d : BitVec 6) (rd : Bool) (todo : List Part) (got : Table Byte) (v : Nat),
     s.findAny i = some (c, o) → s.reqWaits c o = false →
     let w := hdCell p.target
     let served (i' : Instr) (P : State → Op → Prop) : Prop := answers (exec i' s) (fun t =>
       t.mem = s.mem ∧ ∃ q, t.findOp c i = some q ∧ P t q)
     let same (t : State) : Prop := ∀ k, (t.cell k).scratch = (s.cell k).scratch
     let move (k : Nat) (ps : List Part) : List Part × List Part × Table Nat := fillMove s.cyc (s.cell k).fill [] ps
     let put (k : Nat) (ps : List Part) : Table Byte := (ps.foldl (fun z q => z.writeBytes q.addr q.data) (s.cell k)).scratch
     (o.req = some (.peerWrite p off l) → s.ownerEntry p off l.length = .ok e →
       let m := move w (withData (partsOf e.desc e.base off l.length) l)
       served (.peerAccessAtOwner i) (fun t q => (t.cell w).fill = m.2.2 ∧ q.body = o.body ∧ q.err = o.err ∧
         (m.2.1 = [] → (t.cell w).scratch = ((s.cell w).entryWrite e off l).scratch ∧ q.req = none) ∧
         (m.2.1 ≠ [] → (t.cell w).scratch = put w m.1 ∧ q.req = some (.moving w (hdIdx p.target) false m.2.1 [] 0 none)))) ∧
     (o.req = some (.peerWrite p off l) → s.ownerEntry p off l.length = .error code →
       served (.peerAccessAtOwner i) (fun t q => same t ∧ q.req = none ∧ q.err = some (code, errAddr o code))) ∧
     (o.req = some (.peerRead p [(off, 8)] none) → o.body = .timedS d none false → s.ownerEntry p 0 0 = .ok e → s.ownerEntry p off 8 = .ok e →
       (s.cell w).entryPoisoned e off 8 = false →
       let m := move w (partsOf e.desc e.base off 8)
       served (.peerAccessAtOwner i) (fun t q => same t ∧ (t.cell w).fill = m.2.2 ∧
         (m.2.1 = [] → q.req = none ∧ q.body = .timedS d (some (BitVec.ofNat 64 (ofBytes ((s.cell w).entryBytes e off 8)))) false) ∧
         (m.2.1 ≠ [] → q.body = o.body ∧
           q.req = some (.moving w (hdIdx p.target) true m.2.1 (gather (s.cell w).scratch m.1 []) 8 none)))) ∧
     (o.req = some (.moving v idx rd todo got n none) → o.body = .timedS d none false → (rd = true → todo.any (partPoisoned (s.cell v).spoison) = false) →
       let m := move v todo
       let now := if rd = true then gather (s.cell v).scratch m.1 got else got
       served (.peerAccessAtOwner i) (fun t q => (t.cell v).fill = m.2.2 ∧
         (t.cell v).scratch = (if rd = true then (s.cell v).scratch else put v m.1) ∧
         (m.2.1 = [] → q.req = none ∧ q.body = if rd = true then .timedS d (some (BitVec.ofNat 64 (ofBytes (bytesAt now 0 n)))) false else o.body) ∧
         (m.2.1 ≠ [] → q.body = o.body ∧ q.req = some (.moving v idx rd m.2.1 now n none)))) ∧
     (o.req = some (.ratom p op off x y) → o.body = .timedS d none false → s.ownerEntry p off 8 = .ok e → (s.cell w).entryPoisoned e off 8 = false →
       let old : Dword := BitVec.ofNat 64 (ofBytes ((s.cell w).entryBytes e off 8))
       served (.remoteAtomicAtOwner i) (fun t q => q.req = none ∧
         (t.cell w).scratch = ((s.cell w).entryWrite e off (le8 (atomicNew op old x y))).scratch ∧ q.body = .timedS d (some old) false)))

/-- R194, R197, R199: l.hnew of a valid descriptor gives the handle of what was allotted and a true predicate, or all ones and false, four cycles
after issue; a SCRATCH handle that it gives names an entry of the descriptor with stripes for its lines. An invalid descriptor raises HANDLE, and
a PEER descriptor whose window does not admit the target WINDOW. R201: l.hinfo gives a handle's descriptor (a landing's with the count of
consumers left), size or target, or the free room of the cell and its bulkhead, two cycles after issue; of no live handle it raises HANDLE, and
another field number is ILLEGAL. R189, R200, R207: l.hfree and l.rel make their handle refuse accesses at once and hold L until it is free; a
refused handle that no operation uses is freed once its cycle has come, its generation advances, and the word that waited for it is over; a
landing whose last declared consumer has completed is freed. -/
def Obligations.HandlesAreAllottedReadAndFreed : Prop :=
  (∀ (s : State) (g : Guard) (d a : BitVec 6) (p : BitVec 3), s.granted g → s.unprefixed →
     let td := s.sval a
     let makes (s' : State) (peer : Peer) : Prop :=
       let (h, t) := s'.allot s.cur.cell td peer s.me.launch
       exec (.lHnew g d a p) s = .next (((t.result 4 (.s d { val := h.getD 0xFFFFFFFFFFFFFFFF })).result 4 (.p p h.isSome)).retire 2) ∧
       (tdLvl td = 0 → s.cur.cell < 128 → ∀ v, h = some v → ∃ e, t.scratchHandle s.cur.cell v = some e ∧ e.desc = td ∧
         e.stripes = ceilDiv (tdLines td) 32 ∧ hdCell v = s.cur.cell)
     (tdLvl td ≠ 2 → s.sources [a] → (s.popped [a]).room d = true →
       (descOk td = false → exec (.lHnew g d a p) s = .next (s.raise Code.handle 0)) ∧
       (descOk td = true → makes (s.popped [a]) {})) ∧
     (tdLvl td = 2 → s.sources [a, d] → (s.popped [a, d]).room d = true →
       (descOk td = false → exec (.lHnew g d a p) s = .next (s.raise Code.handle 0)) ∧
       (descOk td = true →
         match s.peerTarget s.cur.cell td (s.sval d) with
         | .ok peer => makes (s.popped [a, d]) peer
         | .error code => exec (.lHnew g d a p) s = .next (s.raise code (if code = Code.window then s.cur.ent.addr else 0))))) ∧
  (∀ (s : State) (g : Guard) (d a i : BitVec 6), s.granted g → s.unprefixed →
     let h := s.sval a
     let used := (s.here.table.filter (fun e => e.2.used)).length
     let room (k : BitVec 6) (n : Nat) : Prop := exec (.lHinfo g d 0 k) s = .next ((s.result 2 (.s d { val := BitVec.ofNat 64 n })).retire 1)
     (s.sources [a] → i.toNat < 3 → (s.popped [a]).room d = true →
       (∀ l, s.landHandle s.cur.cell h = some l →
         let v : Dword := if i = 0 then (l.desc.extractLsb' 53 11 ++ BitVec.ofNat 5 l.cons ++ l.desc.extractLsb' 0 48) else if i = 1 then 65536 else 0
         l.cons < 32 → exec (.lHinfo g d a i) s = .next (s.gave [a] 2 1 (.s d { val := v }))) ∧
       (s.landHandle s.cur.cell h = none → ∀ e, s.cellHandle s.cur.cell h = some e →
         let v := if i = 0 then e.desc else if i = 1 then BitVec.ofNat 64 (e.stripes * 2048) else e.peer.target
         exec (.lHinfo g d a i) s = .next (s.gave [a] 2 1 (.s d { val := v }))) ∧
       (s.landHandle s.cur.cell h = none → s.cellHandle s.cur.cell h = none → exec (.lHinfo g d a i) s = .next (s.raise Code.handle 0))) ∧
     (s.room d = true → room 8 (512 - used) ∧ room 9 ((3072 - s.here.usedRuns.foldl (fun n u => n + u.2) 0) * 2048) ∧
       room 10 (longestRun s.here.usedRuns * 2048) ∧
       room 11 (32 - ((s.bh (bhOf s.cur.cell)).landings.filter (fun e => e.2.used)).length)) ∧
     ((3 ≤ i.toNat ∧ i.toNat < 8) ∨ 12 ≤ i.toNat ∨ (8 ≤ i.toNat ∧ a ≠ 0) → exec (.lHinfo g d a i) s = .next (s.raise Code.illegal s.cur.ent.addr))) ∧
  (∀ (s : State) (g : Guard) (a : BitVec 6) (c idx b n : Nat), s.granted g → s.unprefixed → s.sources [a] →
     let h := s.sval a
     (∀ e, s.cellHandle s.cur.cell h = some e → answers (exec (.lHfree g a) s) (fun t =>
       (t.here.entry (hdIdx h)).refused = true ∧ s.started t (if s.inUse (.scratch s.cur.cell (hdIdx h)) then 2 else 1) (fun o =>
         o.body = .hfree (.scratch s.cur.cell (hdIdx h)) ∧ o.holds = .l) ∧ s.issued t 0)) ∧
     (s.cellHandle s.cur.cell h = none → exec (.lHfree g a) s = .next (s.raise Code.handle 0)) ∧
     (∀ l, s.landHandle s.cur.cell h = some l → answers (exec (.lRel g a) s) (fun t =>
       (t.landing (bhOf s.cur.cell) (hdIdx h)).refused = true ∧ s.started t (if s.inUse (.landing (bhOf s.cur.cell) (hdIdx h)) then 2 else 1) (fun o =>
         o.body = .hfree (.landing (bhOf s.cur.cell) (hdIdx h)) ∧ o.holds = .l) ∧ s.issued t 0)) ∧
     (∀ k o, idx < 512 → ((s.cell c).entry idx).refused = true → s.freeing (.scratch c idx) = some (k, o) → s.inUse (.scratch c idx) = false →
       o.due ≤ (s.cell k).time →
       answers (exec (.handleFree c idx) s) (fun t => (t.cell c).entry idx = { gen := ((s.cell c).entry idx).gen + 1 } ∧ t.findOp k o.id = none ∧
         (s.cell k).time < tget 0 (t.cell k).busy 4 ∧ t.mem = s.mem)) ∧
     (idx < 512 → ((s.cell c).entry idx).refused = true → s.freeing (.scratch c idx) = none → s.inUse (.scratch c idx) = false →
       s.freeAt (.scratch c idx) ≤ s.cyc →
       answers (exec (.handleFree c idx) s) (fun t => (t.cell c).entry idx = { gen := ((s.cell c).entry idx).gen + 1 } ∧ t.mem = s.mem)) ∧
     ((s.landing b n).refused = true → s.freeing (.landing b n) = none → s.inUse (.landing b n) = false → s.freeAt (.landing b n) ≤ s.cyc →
       answers (exec (.landingAutoFree b n) s) (fun t =>
         (t.landing b n).used = false ∧ (t.landing b n).gen = (s.landing b n).gen + 1 ∧ t.cells = s.cells ∧ t.mem = s.mem)))

/-- R198, R204, R205, R212, R323: a tile load whose register is empty makes it loading and starts, from a scratchpad, a landing, device memory or
through a PEER handle; the checks on its descriptor raise ILLEGAL, ALIGN or BOUNDS. R204, R205, R187: the end of a tile load from a scratchpad or
landing. Points that the spec leaves to the model or to inference: log entry 69. -/
def Obligations.TileLoadsFillARegister : Prop :=
  (∀ (s : State) (g : Guard) (bt col sp : Bool) (d : BitVec 4) (a b c : BitVec 6) (r : BitVec 5), s.granted g → (s.here.tile d.toNat).st = .empty →
     let h := s.sval a
     let off := s.sval b + disp s.cur.ent
     let row (td : Dword) : Nat := off.toNat / tdRb td
     let cb (td : Dword) : Nat := off.toNat % tdRb td
     let may (td : Dword) : Prop := let w := blockBytes (tdFmt td) (tdPl td + 1)
       tdFmt td ∉ ([0, 8, 11] : List Nat) ∧ ¬(col = true ∧ tdScaled td = true) ∧ cb td % w = 0 ∧ (bt = true → row td % 64 = 0 ∧ tdBd td = true) ∧
       0 ≤ off.toInt ∧ row td + 64 ≤ tdRows td ∧ cb td + w ≤ tdRb td
     let loads (i : Instr) (td : Dword) (base : Nat) (land : Option Nat) (use : HUse) : Prop :=
       let geo := tileGeo td col bt
       let gs := tileGroups td base geo off.toNat
       answers (exec i s) (fun t => s.started t (4 + gs.length) (fun p => p.body = .sload (.t d.toNat geo) land gs [] none ∧ p.uses = [use]) ∧
         s.issued t gs.length ∧ (t.here.tile d.toNat).st = .loading ∧ t.mem = s.mem)
     (s.sources [a, b] → ∀ e, s.cellHandle s.cur.cell h = some e → tdLvl e.desc = 0 → may e.desc →
       loads (.lLdt g bt col d a b) e.desc e.base none (.scratch s.cur.cell (hdIdx h))) ∧
     (s.sources [a, b] → ∀ l, s.landHandle s.cur.cell h = some l → may l.desc →
       loads (.lLdl g bt col d a b) l.desc 0 (some (hdIdx h)) (.landing (bhOf s.cur.cell) (hdIdx h))) ∧
     (s.sources [a, b] → ∀ e, s.cellHandle s.cur.cell h = some e → tdLvl e.desc = 2 → s.landingFree = true → may e.desc →
       let geo := tileGeo e.desc col bt
       (s.windowOk e.peer .load = true → answers (exec (.lLdt g bt col d a b) s) (fun t =>
         s.started t (8 + 4 * (tdArr e.desc).toNat) (fun p => p.body = .timedT d.toNat none false ∧ p.buf = .landing ∧ p.addr = some off ∧
           p.req = some (.peerRead e.peer (tileRanges e.desc geo off.toNat) (some geo))) ∧
         s.issued t 1 ∧ (t.here.tile d.toNat).st = .loading ∧ t.mem = s.mem)) ∧
       (s.windowOk e.peer .load = false → exec (.lLdt g bt col d a b) s = .next (s.raise Code.window s.cur.ent.addr))) ∧
     (s.sources [a, b] →
       let checks (i : Instr) (td : Dword) : Prop :=
         let w := blockBytes (tdFmt td) (tdPl td + 1)
         let bad : Prop := tdFmt td ∈ ([0, 8, 11] : List Nat) ∨ (col = true ∧ tdScaled td = true)
         let skew : Prop := cb td % w ≠ 0 ∨ (bt = true ∧ row td % 64 ≠ 0)
         (bad → exec i s = .next (s.raise Code.illegal s.cur.ent.addr)) ∧ (¬bad → skew → exec i s = .next (s.raise Code.align off)) ∧
         (¬bad → ¬skew → off.toInt < 0 ∨ tdRows td < row td + 64 ∨ tdRb td < cb td + w ∨ (bt = true ∧ tdBd td = false) →
           exec i s = .next (s.raise Code.bounds off))
       (∀ e, s.cellHandle s.cur.cell h = some e → (tdLvl e.desc = 2 → s.landingFree = true) → checks (.lLdt g bt col d a b) e.desc) ∧
       (s.cellHandle s.cur.cell h = none → exec (.lLdt g bt col d a b) s = .next (s.raise Code.handle off)) ∧
       (∀ l, s.landHandle s.cur.cell h = some l → checks (.lLdl g bt col d a b) l.desc) ∧
       (s.landHandle s.cur.cell h = none → exec (.lLdl g bt col d a b) s = .next (s.raise Code.handle off))) ∧
     (s.sources [r.zeroExtend 6] → s.landingFree = true →
       let va := s.sval (r.zeroExtend 6) + disp s.cur.ent
       va.toNat % 64 = 0 → va.toNat < 2 ^ 60 →
       answers (exec (.lLdtg g bt d sp r c) s) (fun t => s.started t (8 + 4 * c.toNat) (fun p => p.buf = .landing ∧ p.addr = some va ∧
         (∃ x, p.body = .timedT d.toNat x sp) ∧ (p.err = none → ∃ x, p.body = .timedT d.toNat (some x) sp ∧ x.st = .full)) ∧
         s.issued t 1 ∧ (t.here.tile d.toNat).st = .loading ∧ t.mem = s.mem))) ∧
  (∀ (s : State) (c id n : Nat) (o : Op) (geo : TileGeo) (land : Option Nat) (got : Table Byte) (bad : Option Nat),
     s.findOp c id = some o → o.body = .sload (.t n geo) land [] got bad → o.due ≤ (s.cell c).time →
     (bad = none → answers (exec (.tileLoadComplete c id) s) (fun t =>
       (t.cell c).tile n = fillTile geo (bytesAt got 0 (64 * geo.w + 68)) ∧ ((t.cell c).tile n).st = .full ∧ t.findOp c id = none ∧ t.mem = s.mem)) ∧
     (bad ≠ none → (s.strand c o.sc).trap = none → (s.strand c o.sc).handler = false → (s.cell c).closed = false → answers (exec (.tileLoadComplete c id) s) (fun t =>
       ((t.cell c).tile n).st = .empty ∧ t.findOp c id = none ∧ (t.strand c o.sc).trap =
         some (s.lateTrap c o Code.poison (o.addr.getD 0)))))

/-! ### Device memory -/

/-- R46, R285, R312, R322, R324: a global load takes its value at issue, from its die's sequence, and holds a register-landing entry until its
arrival; a translation failure becomes its error. A misaligned address raises ALIGN, one of 2^60 or more PAGE, and a vector load to a result port
is ILLEGAL. Points that the spec leaves to the model or to inference: log entry 14. -/
def Obligations.GlobalLoadsTakeTheirValueAtIssue : Prop :=
  ∀ (s : State) (g : Guard) (d c : BitVec 6) (v r : BitVec 5) (sp : Bool), s.granted g → s.sources [r.zeroExtend 6] →
    let va := s.sval (r.zeroExtend 6) + disp s.cur.ent
    let t' := s.popped [r.zeroExtend 6]
    let loads (i : Instr) (n : Nat) (none' : OpBody) (some' : Nat → OpBody) : Prop := answers (exec i s) (fun t =>
      s.started t (8 + 4 * c.toNat) (fun o => o.buf = .landing ∧ o.addr = some va ∧ match s.readHere va.toNat n with
        | .ok l => o.body = some' (ofBytes l) ∧ o.err = none
        | .error e => o.body = none' ∧ o.err = some e) ∧ s.issued t 1 ∧ t.mem = s.mem)
    (va.toNat % 8 = 0 → va.toNat < 2 ^ 60 → s.landingFree = true → t'.room d = true →
      loads (.lLdg g d sp r c) 8 (.timedS d none sp) (fun x => .timedS d (some (BitVec.ofNat 64 x)) sp)) ∧
    (va.toNat % 4 = 0 → va.toNat < 2 ^ 60 → s.landingFree = true → isY v = false →
      loads (.lLdvg g v sp r c) 256 (.timedV v none sp) (fun x => .timedV v (some (BitVec.ofNat 2048 x)) sp)) ∧
    (28 ≤ v.toNat → exec (.lLdvg g v sp r c) s = .next (s.raise Code.illegal s.cur.ent.addr)) ∧
    (s.landingFree = true → t'.room d = true →
      (va.toNat % 8 ≠ 0 → exec (.lLdg g d sp r c) s = .next (s.raise Code.align va)) ∧
      (va.toNat % 8 = 0 → 2 ^ 60 ≤ va.toNat → exec (.lLdg g d sp r c) s = .next (s.raise Code.page va))) ∧
    (s.landingFree = true → isY v = false →
      (va.toNat % 4 ≠ 0 → exec (.lLdvg g v sp r c) s = .next (s.raise Code.align va)) ∧
      (va.toNat % 4 = 0 → 2 ^ 60 ≤ va.toNat → exec (.lLdvg g v sp r c) s = .next (s.raise Code.page va)))

/-- R285, R316, R320, R324, R375, R396: a global store enters its die's sequence and home order at issue and completes 64 cycles later. Of one to
resident pages every byte of memory outside the stored ones reads as before on every die, and on another die all of memory does; a store whose
translation fails, or that meets a demand-zero page when the VF holds its quota, writes nothing and carries its error. A misaligned address raises
ALIGN, one of 2^60 or more PAGE. R286, R319, R320: a write enters another die's sequence once the writes that precede it have, and changes nothing
there but its bytes and the range that it zeroes; a demand-zero leaf gets the frame at the head of the free list, zeroed, while a leaf that has
changed since it was walked and is demand-zero no more gets none; a released frame joins the list's tail. Points that the spec leaves to the model
or to inference: log entries 14, 53. -/
def Obligations.GlobalStoresWriteAndPropagate : Prop :=
  (∀ (s : State) (g : Guard) (d a b : BitVec 6) (v : BitVec 5), s.granted g → s.sendFree = true →
     let va := s.sval a + s.sval b + disp s.cur.ent
     let die := dieOf s.cur.cell
     let vf := s.vfOf s.cur.cell
     let stores (i : Instr) (l : List Byte) : Prop :=
       match s.pages (some s.cur.cell) vf die va.toNat l.length .wr with
       | .error e => answers (exec i s) (fun t =>
           s.started t 64 (fun o => o.body = .store ∧ o.buf = .send ∧ o.addr = some va ∧ o.err = some e) ∧ s.issued t 1 ∧ t.mem = s.mem)
       | .ok pg => (∀ x ∈ pg, ∃ pa, x.2 = .frame pa) →
           let put := writable ((placed va.toNat l).filterMap (fun e => (paOf pg e.1).map (fun pa => (pa, e.2))))
           answers (exec i s) (fun t =>
             s.started t 64 (fun o => o.body = .store ∧ o.buf = .send ∧ o.addr = some va ∧ o.err = none) ∧ s.issued t 1 ∧
             t.mem.view die = writeAll (s.mem.view die) put ∧ t.mem.home = writeAll s.mem.home put ∧
             (∀ k, k ≠ die → t.mem.view k = s.mem.view k) ∧
             ∀ k x, (∀ e ∈ put, e.1 ≠ x) → tget 0 (t.mem.view k) x = tget 0 (s.mem.view k) x)
     let full (i : Instr) (n : Nat) : Prop := ∀ leaf w, s.pages (some s.cur.cell) vf die va.toNat n .wr = .ok [(va.toNat / frameBytes, .zero leaf w)] →
       BitVec.ofNat 64 (leRead s.mem.home leaf 8) = w → (s.vf vf).cfg.quota ≤ (s.vf vf).held → answers (exec i s) (fun t =>
         s.started t 64 (fun o => o.body = .store ∧ o.buf = .send ∧ o.addr = some va ∧ o.err = some (Code.quota, va)) ∧ s.issued t 1 ∧ t.mem = s.mem)
     let posts (i : Instr) : Prop := answers (exec i s) (fun t =>
       s.started t 64 (fun o => o.body = .store ∧ o.buf = .send ∧ o.addr = some va) ∧ s.issued t 1)
     (s.sources [a, b, d] →
       (va.toNat % 8 = 0 → va.toNat < 2 ^ 60 → stores (.lStg g d a b) (le8 (s.sval d)) ∧ full (.lStg g d a b) 8 ∧ posts (.lStg g d a b)) ∧
       (va.toNat % 8 ≠ 0 → exec (.lStg g d a b) s = .next (s.raise Code.align va)) ∧
       (va.toNat % 8 = 0 → 2 ^ 60 ≤ va.toNat → exec (.lStg g d a b) s = .next (s.raise Code.page va))) ∧
     (s.sources [a, b] → s.vsources [v] →
       (va.toNat % 4 = 0 → va.toNat < 2 ^ 60 →
         stores (.lStvg g v a b) (leBytes (s.vval v).toNat 256) ∧ full (.lStvg g v a b) 256 ∧ posts (.lStvg g v a b)) ∧
       (va.toNat % 4 ≠ 0 → exec (.lStvg g v a b) s = .next (s.raise Code.align va)) ∧
       (va.toNat % 4 = 0 → 2 ^ 60 ≤ va.toNat → exec (.lStvg g v a b) s = .next (s.raise Code.page va)))) ∧
  (∀ (s : State),
     (∀ (die i : Nat) (w : GWrite), s.mem.flight.find? (fun x => x.id == i) = some w →
       (s.mem.canEnter die w = false → exec (.writePropagation die i) s = .next s) ∧
       (s.mem.canEnter die w = true → answers (exec (.writePropagation die i) s) (fun t =>
         t.mem.view die = writeAll (w.cleared (s.mem.view die)) w.bytes ∧ (∀ k, k ≠ die → t.mem.view k = s.mem.view k) ∧ t.mem.home = s.mem.home ∧
         t.mem.poison = s.mem.poison ∧ t.cells = s.cells))) ∧
     (∀ (vf va a f n : Nat) (r : List (Nat × Nat)) (leaf : Dword), s.walkLeaf vf 0 va = .ok (a, leaf) →
       let home : Dword := BitVec.ofNat 64 (leRead s.mem.home a 8)
       let isZero (l : Dword) : Prop := l.getLsbD 63 = false ∧ l.getLsbD 58 = true ∧ l.getLsbD 59 = false
       isZero leaf →
       (home ≠ leaf → ¬isZero home → answers (exec (.demandZeroInstall vf va) s) (fun t =>
         t.vf vf = s.vf vf ∧ t.mem.home = s.mem.home ∧ t.mem.view 0 = (s.catchUp 0).mem.view 0)) ∧
       (home = leaf ∨ isZero home → (s.vf vf).free = (f, n) :: r → (s.vf vf).held < (s.vf vf).cfg.quota → f < 128 * sliceFrames →
       answers (exec (.demandZeroInstall vf va) s) (fun t =>
         let new : Dword := BitVec.ofNat 64 (leRead t.mem.home a 8)
         new.getLsbD 63 = true ∧ (new.extractLsb' 32 7).toNat = f / sliceFrames ∧ (new.extractLsb' 16 16).toNat = f % sliceFrames ∧
         new.extractLsb' 0 16 = home.extractLsb' 0 16 ∧ new.extractLsb' 39 24 = home.extractLsb' 39 24 ∧
         (t.vf vf).held = (s.vf vf).held + 1 ∧
         ∀ x, x / frameBytes = f → x < a ∨ a + 8 ≤ x → tget 0 (t.mem.view 0) x = 0 ∧ tget 0 t.mem.home x = 0))) ∧
     (∀ (vf f : Nat) (r : List Nat), (s.vf vf).returning = f :: r → answers (exec (.frameReturn vf) s) (fun t =>
       (t.vf vf).returning = r ∧ (t.vf vf).free = (s.vf vf).free ++ [(f, 1)] ∧ (t.vf vf).held = (s.vf vf).held - 1 ∧ t.mem = s.mem)))

/-- R287, R309, R325, R375: l.gatom sends its atomic to the home controller; there the word takes its new value in home order, once every write in
flight has entered the atomic's die and no other atomic of the word is still to land, and the old one is the operation's data. l.pref caches the
leaf of its page and never faults. R287: the answer of an l.gatom writes its register with the old value, and its write enters the sequence of its
own die then; where a write of the word has entered that sequence since the home step, the atomic takes its place in home order after it, with the
word as the writes before it there leave it. Points that the spec leaves to the model or to inference: log entries 14, 71. -/
def Obligations.AtomicsActAtTheirHome : Prop :=
  ((∀ (s : State) (g : Guard) (o j : BitVec 3) (a b c : BitVec 6), s.granted g →
     let va := s.sval a + disp s.cur.ent
     let data := s.sval (8 + j.zeroExtend 6)
     let next := if o = 4 then s.sval (8 + j.zeroExtend 6 + 1) else 0
     (o ≠ 7 → s.sources (a :: atomSources o j) → va.toNat % 8 = 0 → va.toNat < 2 ^ 60 → s.landingFree = true →
       answers (exec (.lGatom g o j a c) s) (fun t => s.started t (8 + 4 * c.toNat) (fun p =>
         p.body = .timedS (8 + j.zeroExtend 6) none false ∧ p.buf = .landing ∧ p.addr = some va ∧ p.req = some (.gatom o va.toNat data next)) ∧
         s.issued t 1 ∧ t.mem = s.mem)) ∧
     exec (.lGatom g 7 j a c) s = .next (s.raise Code.illegal s.cur.ent.addr) ∧
     (srcReady s.me [a, b] = true → answers (exec (.lPref g a b) s) (fun t => t.mem = s.mem ∧ t.me.trap = s.me.trap ∧ s.issued t 1))) ∧
   (∀ (s : State) (i c : Nat) (o : Op) (op : BitVec 3) (va : Nat) (x y : Dword) (d : BitVec 6) (pg : List (Nat × Xlat)) (pa : Nat),
     s.findAny i = some (c, o) → o.req = some (.gatom op va x y) → o.body = .timedS d none false →
     (∀ e, s.pages (some c) (s.vfOf c) (dieOf c) va 8 .at = .error e → answers (exec (.gatomAtHome i) s) (fun t =>
       t.mem = s.mem ∧ ∃ q, t.findOp c i = some q ∧ q.req = none ∧ q.err = some e)) ∧
     (s.pages (some c) (s.vfOf c) (dieOf c) va 8 .at = .ok pg → (∀ e ∈ pg, ∃ q, e.2 = .frame q) → paOf pg va = some pa → s.mem.poisoned pa = false →
       let old : Dword := s.homeWord pa
       let new := atomicNew op old x y
       (s.wordHeld pa = true → exec (.gatomAtHome i) s = .next s) ∧
       (s.wordHeld pa = false → answers (exec (.gatomAtHome i) s) (fun t =>
         t.mem.home = writeAll s.mem.home (writable (placed pa (le8 new))) ∧ t.mem.view (dieOf c) = (s.catchUp (dieOf c)).mem.view (dieOf c) ∧
         (∀ k, k ≠ dieOf c → t.mem.view k = s.mem.view k) ∧ { op := i, word := pa / 8, die := dieOf c, old := old } ∈ t.mem.turns ∧
         ∃ q, t.findOp c i = some q ∧ q.req = some (.gatomLand op pa x y) ∧ q.body = .timedS d (some old) false ∧ q.err = o.err))))) ∧
  (∀ (s : State) (c id pa : Nat) (o : Op) (d : BitVec 6) (op : BitVec 3) (x y old : Dword), s.findOp c id = some o → o.err = none →
     o.due ≤ (s.cell c).time → s.behindLate c o = false → s.env.slow.contains id = false → d ≠ 0 → isQ d = false →
     o.body = .timedS d (some old) false → o.req = some (.gatomLand op pa x y) → (∀ k, k < 8 → mgmtWritable (pa + k) = true) →
     let lands (v : Dword) (home : Table Byte) : Prop := answers (exec (.timedArrival c id) s) (fun t =>
       (t.strand c o.sc).readS d = { val := v } ∧ t.findOp c id = none ∧ t.mem.home = home ∧
       bytesAt (t.mem.view (dieOf c)) pa 8 = le8 (atomicNew op v x y) ∧ ∀ z ∈ t.mem.turns, z.op ≠ id)
     ((∀ z ∈ s.mem.turns, z.op = id → z.passed = false) → lands old s.mem.home) ∧
     (∀ z, s.mem.turns.find? (fun z => z.op == id && z.passed) = some z →
       lands z.old (writeAll s.mem.home (placed pa (le8 (atomicNew op z.old x y))))))

/-- R46, R48, R143, R324: in the cycle of its arrival a timed request whose data has come writes its register and ends; one that is late, or whose
data is not known, freezes the cell, and its data is written when it has come. R49, R322: an error response begins a late trap in its strand, with
its code and address (of a cell that a switch has closed, the fault stays among those that have landed), or, of a speculative load, writes a
poison tag; after 1 ms of a freeze the watchdog begins the trap, with the access address, or of a barrier release with that of its word. Points
that the spec leaves to the model or to inference: log entries 4, 75, 81. -/
def Obligations.TimedRequestsLandFreezeOrFault : Prop :=
  (∀ (s : State) (c id : Nat) (o : Op) (d : BitVec 6) (u : BitVec 5) (n : Nat) (v : Dword) (x : Vec) (z : Tile) (sp : Bool),
     s.findOp c id = some o → o.err = none → o.req = none → s.behindLate c o = false →
     let lands (P : State → Prop) : Prop :=
       (o.due ≤ (s.cell c).time → s.env.slow.contains id = false →
         answers (exec (.timedArrival c id) s) (fun t => P t ∧ t.findOp c id = none ∧ t.mem = s.mem)) ∧
       ((s.cell c).frozenOn.contains id = true →
         answers (exec (.lateDataLanding c id) s) (fun t => P t ∧ t.findOp c id = none ∧ t.mem = s.mem ∧ (t.cell c).frozenOn.contains id = false))
     (o.body = .timedS d (some v) sp → d ≠ 0 → isQ d = false → lands (fun t => (t.strand c o.sc).readS d = { val := v })) ∧
     (o.body = .timedS d (some v) sp → isQ d = true → lands (fun t => ((t.strand c o.sc).queue (qOf d)).getLast? = some { val := v })) ∧
     (o.body = .timedV u (some x) sp → isY u = false → lands (fun t => (t.strand c o.sc).readV u = { val := x })) ∧
     (o.body = .timedT n (some z) sp → lands (fun t => (t.cell c).tile n = z)) ∧
     (o.body = .timedS d none sp ∨ o.body = .timedV u none sp ∨ o.body = .timedT n none sp → o.due ≤ (s.cell c).time →
       answers (exec (.timedArrival c id) s) (fun t => (t.cell c).frozenOn.contains id = true ∧ t.findOp c id = some o ∧
         t.strand c o.sc = s.strand c o.sc)) ∧
     (o.body = .store → o.due ≤ (s.cell c).time →
       (s.env.slow.contains id = false → answers (exec (.storeAcknowledgement c id) s) (fun t => t.findOp c id = none ∧ t.mem = s.mem)) ∧
       (s.env.slow.contains id = true → answers (exec (.storeAcknowledgement c id) s) (fun t => (t.cell c).frozenOn.contains id = true)))) ∧
  (∀ (s : State) (c id : Nat) (o : Op) (code : Code) (a : Dword) (d : BitVec 6) (u : BitVec 5) (n : Nat) (x : Option Dword) (v : Option Vec)
     (z : Option Tile), s.findOp c id = some o →
     let st := s.strand c o.sc
     let trapped (t : State) (code : Code) (a : Dword) : Prop := t.findOp c id = none ∧ t.mem = s.mem ∧ (t.strand c o.sc).trap =
       some (s.lateTrap c o code a)
     (o.err = some (code, a) → o.due ≤ (s.cell c).time → s.behindLate c o = false → s.env.slow.contains id = false →
       let ends (P : State → Prop) : Prop := answers (exec (.errorResponse c id) s) (fun t => P t ∧ t.findOp c id = none ∧ t.mem = s.mem)
       (o.body = .store ∨ o.body = .timedS d x false ∨ o.body = .timedV u v false ∨ o.body = .timedT n z false → st.trap = none → st.handler = false → (s.cell c).closed = false →
         answers (exec (.errorResponse c id) s) (fun t => trapped t code a)) ∧
       (o.body = .store → st.trap = none → st.handler = false → (s.cell c).closed = true →
         ends (fun t => (t.strand c o.sc).trap = none ∧ ∃ x ∈ (t.strand c o.sc).lates, x.ent = o.ent ∧ x.code = code ∧ x.taddr = a)) ∧
       (o.body = .timedS d x true → d ≠ 0 → isQ d = false → ends (fun t =>
         (t.strand c o.sc).readS d = { val := a &&& 0x0FFFFFFFFFFFFFFF, tag := some code })) ∧
       (o.body = .timedV u v true → isY u = false → ends (fun t => (t.strand c o.sc).readV u = { val := 0, tag := some (code, a.truncate 60) })) ∧
       (o.body = .timedT n z true → ends (fun t =>
         ((t.cell c).tile n).st = .full ∧ ((t.cell c).tile n).dfault = some (code, a.truncate 60)))) ∧
     ((s.cell c).frozenOn.contains id = true → (s.cell c).frozenAt + 3000000 ≤ s.wall3 → st.trap = none → st.handler = false → (s.cell c).closed = false →
       let late (a : Dword) : Prop := answers (exec (.watchdog c id) s) (fun t =>
         trapped t Code.watchdog a ∧ (t.cell c).frozenOn.contains id = false)
       (o.body = .store ∨ o.body = .timedS d x false ∨ o.body = .timedV u v false ∨ o.body = .timedT n z false → late (o.addr.getD o.ent.addr)) ∧
       (∀ cov i off da db w p, o.body = .barRel cov i off da db w p → late o.ent.addr)))

/-! ### Messages, semaphores, fences and barriers -/

/-- R132, R134: b.msg enters its send buffer and its message starts for a cell of the VF's shape, or raises WINDOW; the message is stored in the
target's landing in order if there is room, and the entry is released 64 cycles after issue, or the cell freezes until the message is stored.
R133, R135: from the cycle after it has become dormant, the oldest stored message for its handler address starts a context, with the sender, the
count and the payload in s3 and s8 to s15, and leaves the landing. Points that the spec leaves to the model or to inference: log entry 4. -/
def Obligations.MessagesAreSentStoredAndStarted : Prop :=
  ((∀ (s : State) (g : Guard) (d a : BitVec 6) (c : BitVec 4), s.granted g → s.unprefixed → s.sources (a :: (a + 1) :: msgRegs d c.toNat) →
     let target := (s.sval a).toNat
     let m : Msg := { op := s.nextId, cell := s.cur.cell, sc := s.cur.sc, target := target, handler := s.sval (a + 1), payload := (msgRegs d c.toNat).map s.sval }
     (s.inShape (s.vfOf s.cur.cell) target = true → s.sendFree = true → answers (exec (.bMsg g d a c) s) (fun t =>
       s.started t 64 (fun o => o.body = .msg false ∧ o.buf = .send ∧ o.id = m.op) ∧ s.issued t 1 ∧ t.msgs = s.msgs ++ [m] ∧ t.mem = s.mem)) ∧
     (s.inShape (s.vfOf s.cur.cell) target = false → s.sendFree = true → exec (.bMsg g d a c) s = .next (s.raise Code.window s.cur.ent.addr))) ∧
   (∀ (s : State) (i : Nat) (m : Msg) (o : Op), s.msgs[i]? = some m → s.findOp m.cell m.op = some o →
     (∀ x ∈ s.msgs.take i, ¬(x.cell = m.cell ∧ x.sc = m.sc ∧ x.target = m.target)) →
     (s.gateOpen m.target = true → (s.cell m.target).msgs.length < 16 → answers (exec (.messageStore i) s) (fun t =>
       (t.cell m.target).msgs = (s.cell m.target).msgs ++ [m] ∧ t.msgs = removeAt s.msgs i ∧ ∃ q, t.findOp m.cell m.op = some q ∧ q.body = .msg true)) ∧
     (s.gateOpen m.target = true → 16 ≤ (s.cell m.target).msgs.length → exec (.messageStore i) s = .next s) ∧
     (s.gateOpen m.target = false → answers (exec (.messageStore i) s) (fun t =>
       t.msgs = removeAt s.msgs i ∧ ∃ q, t.findOp m.cell m.op = some q ∧ q.err = some (Code.fabric, o.ent.addr)))) ∧
   (∀ (s : State) (c id : Nat) (o : Op) (stored : Bool), s.findOp c id = some o → o.body = .msg stored → o.due ≤ (s.cell c).time → o.err = none →
     (stored = true → s.env.slow.contains id = false → answers (exec (.sendBufferRelease c id) s) (fun t => t.findOp c id = none ∧ t.mem = s.mem)) ∧
     (stored = false → answers (exec (.sendBufferRelease c id) s) (fun t => (t.cell c).frozenOn.contains id = true ∧ t.ops c = s.ops c)))) ∧
  (∀ (s : State) (c sc : Nat) (m : Msg) (older newer : List Msg),
     let st := s.strand c sc
     st.st = .dormant → st.armedAt < (s.cell c).time → (s.cell c).runs = true → st.swStop = false → (s.cell c).msgs = older ++ m :: newer → m.handler = st.armed →
     (∀ x ∈ older, x.handler ≠ st.armed) →
     (∀ k, k < sc → ¬((s.strand c k).st = .dormant ∧ (s.strand c k).armed = st.armed)) →
     answers (exec (.messageDelivery c sc) s) (fun t =>
       let x := t.strand c sc
       x.st = .running ∧ x.pc = m.handler ∧ x.fetchFrom = (s.cell c).time ∧ (t.cell c).msgs = older ++ newer ∧
       x.readS 3 = { val := BitVec.ofNat 64 (m.cell + 256 * m.payload.length + 65536 * m.sc) } ∧
       (∀ i, i < 8 → x.readS (BitVec.ofNat 6 (8 + i)) = { val := m.payload.getD i 0 }) ∧ x.v = st.v ∧ x.m = st.m ∧ x.p = st.p))

/-- R296, R298, R299: b.wait asks its semaphore for its count and holds every later word of the strand; b.sig, once every earlier word has issued,
sends its signal with the writes that its release covers; a number that the VF does not map raises SEMMAP. R297, R298: in a cycle in which signals
or requests arrive at a semaphore, the sum of the signals is added once, up to 2^32 − 1, and the requests join the tail of the queue; then the
waiters at the head whose counts are there are granted in order, each taking its count, until the head waits for more than is there. A signal
arrives when its time has come and its writes are performed, after the earlier ones of its strand. R294, R298, R299, R300: a grant that lands ends
the wait; b.smap in VF0 changes an entry of the selected VF's map once nothing is on its way to the old semaphore. In another VF it raises PRIV; a
VF that is not there, a reserved field, a semaphore that another VF maps (or will, by a change that has issued) and a move without two mappings
raise SEMMAP, a semaphore outside the VF's shape WINDOW. Points that the spec leaves to the model or to inference: log entries 48, 70. -/
def Obligations.SemaphoresWaitAndGrantInOrder : Prop :=
  (∀ (s : State) (g : Guard) (d : BitVec 6) (v : BitVec 8), s.granted g → s.unprefixed → s.sources [d] →
     let c := s.cur.cell
     let vf := s.vfOf c
     let n := (s.sval d).toNat % 2 ^ 32
     (∀ ps, s.resolve vf v = some ps →
       let due := if ps / 64 = bhOf c then s.now + 2 else s.wall3
       answers (exec (.bWait g d v) s) (fun t => s.started t 0 (fun o => o.body = .semWait v n false ∧ o.holds = .all ∧ o.id = s.nextId) ∧ s.issued t 1 ∧
         t.waits = s.waits ++ [{ ps := ps, due := due, w := { cell := c, unit := s.cur.sc, op := s.nextId, vf := vf, v := v, n := n } }]) ∧
       (allIssuedBefore s.me s.cur.ent.seq = true → answers (exec (.bSig g d v) s) (fun t => s.issued t 1 ∧ t.mem = s.mem ∧
         t.sigs = s.sigs ++ [{ ps := ps, n := n, cover := s.coverOf c s.cur.sc s.cur.ent.seq 3, cell := c, sc := s.cur.sc, vf := vf, due := due }]))) ∧
     (s.resolve vf v = none → exec (.bWait g d v) s = .next (s.raise Code.semmap s.cur.ent.addr) ∧
       (allIssuedBefore s.me s.cur.ent.seq = true → exec (.bSig g d v) s = .next (s.raise Code.semmap s.cur.ent.addr))) ∧
     (allIssuedBefore s.me s.cur.ent.seq = false → exec (.bSig g d v) s = .next (s.setHeld false))) ∧
  (∀ (s : State) (i ps : Nat),
     let a := (s.arriving ps [] s.sigs).1
     let came (w : WaitReq) : Bool := w.ps == ps && s.semCame w.w.cell ps w.due
     let queue := (s.sem ps).fifo ++ (sortBy WaitReq.before (s.waits.filter came)).map (·.w)
     let served (i : Instr) : Prop := answers (exec i s) (fun t =>
       t.sigs = (s.arriving ps [] s.sigs).2 ∧ t.waits = s.waits.filter (fun w => !came w) ∧ ∃ k, k ≤ queue.length ∧
       (t.sem ps).fifo = queue.drop k ∧
       (t.sem ps).val.toNat + ((queue.take k).map (·.n)).sum = min ((s.sem ps).val.toNat + (a.map (·.n)).sum) 0xFFFFFFFF ∧
       ((t.sem ps).val.toNat < (((queue.drop k).head?).map (·.n)).getD (2 ^ 32)))
     s.semReset ps = false →
     (∀ x, s.sigs[i]? = some x → x.ps = ps → s.sigCame x = true → served (.semaphoreSignalArrival i) ∧
       ((∀ y ∈ s.sigs.take i, ¬(y.cell = x.cell ∧ y.sc = x.sc)) → x ∈ a)) ∧
     (∀ x, s.waits[i]? = some x → came x = true → served (.semaphoreWaitArrival i)) ∧
     (∀ y ∈ a, y ∈ s.sigs ∧ y.ps = ps ∧ s.performed y.cover = true ∧
       (if ps / 64 = bhOf y.cell then y.due ≤ (s.cell y.cell).time ∨ (s.cell y.cell).closed = true else y.due ≤ s.wall3))) ∧
  ((∀ (s : State) (c u : Nat) (o : Op) (older newer : List Op) (v : BitVec 8) (n : Nat), s.ops c = older ++ o :: newer → (∀ x ∈ older, x.sc ≠ u) →
     o.sc = u → o.body = .semWait v n true → o.due ≤ (s.cell c).time →
     answers (exec (.semaphoreGrantLanding c u) s) (fun t => t.ops c = (s.ops c).filter (fun x => x.id != o.id) ∧ t.mem = s.mem)) ∧
   (∀ (s : State) (g : Guard) (a b : BitVec 6), s.granted g → s.unprefixed → s.sources [a, b] →
     let vf := s.me.vfsel.toNat
     let x := s.sval a
     let y := s.sval b
     let ent : BitVec 16 := y.truncate 16
     let fails (code : Code) : Prop := exec (.bSmap g a b) s = .next (s.raise code s.cur.ent.addr)
     let plain : Prop := (s.vf vf).live = true ∧ x.toNat < 256 ∧ y.toNat < 2 ^ 17 ∧ y.extractLsb' 12 3 = 0
     let outside : Prop := smV ent = true ∧ s.inShape vf (smPs ent / 64 * 2) = false
     let other : Prop := smV ent = true ∧ s.mappedElsewhere vf (smPs ent) = true
     let unmoved : Prop := y.getLsbD 16 = true ∧ ¬(smV ent = true ∧ smV (s.semEntry vf (x.truncate 8)) = true)
     (s.vfOf s.cur.cell ≠ 0 → fails Code.priv) ∧
     (s.vfOf s.cur.cell = 0 → (¬plain → fails Code.semmap) ∧ (plain → outside → fails Code.window) ∧
       (plain → ¬outside → other ∨ unmoved → fails Code.semmap) ∧
       (plain → ¬outside → ¬other → ¬unmoved → answers (exec (.bSmap g a b) s) (fun t =>
         s.started t 0 (fun o => o.body = .smap vf (x.truncate 8) ent (y.getLsbD 16) ∧ o.holds = .b) ∧ s.issued t 1 ∧ t.sems = s.sems ∧
         t.vfs = s.vfs)))) ∧
   (∀ (s : State) (vf ps : Nat), s.mappedElsewhere vf ps = true ↔ (∃ e ∈ s.vfs, e.1 ≠ vf ∧ e.2.mapsSem ps = true) ∨
     ∃ c ∈ s.cells, ∃ o ∈ c.2.ops, ∃ k v n move, o.body = .smap k v n move ∧ k ≠ vf ∧ smV n = true ∧ smPs n = ps) ∧
   (∀ (s : State) (c sc vf : Nat) (v : BitVec 8) (new : BitVec 16) (move : Bool) (o : Op) (older newer : List Op),
     s.ops c = older ++ o :: newer → (∀ x ∈ older, x.sc ≠ sc) → o.sc = sc → o.body = .smap vf v new move →
     let old := s.semEntry vf v
     ((s.vf vf).live = false → answers (exec (.smapApply c sc) s) (fun t => t.vfs = s.vfs ∧ t.sems = s.sems ∧ ∀ x ∈ t.ops c, x.id ≠ o.id)) ∧
     ((s.vf vf).live = true → (∀ x ∈ s.sigs, smV old = true → x.ps ≠ smPs old) → (∀ x ∈ s.waits, smV old = true → x.ps ≠ smPs old) →
     answers (exec (.smapApply c sc) s) (fun t => t.semEntry vf v = new ∧ (∀ x ∈ t.ops c, x.id ≠ o.id) ∧
       (smV old = false → smV new = true → (s.sem (smPs new)).mapped = false → move = false → t.sem (smPs new) = { mapped := true })))))

/-- R288, R292, R293: l.fence and l.tfence issue once the strand's earlier words have issued and completed as they need, wait for the writes they
cover, and hold later words until they retire, Tf or Tt after issue; a reserved kind or scope is ILLEGAL. -/
def Obligations.FencesHoldAndRetire : Prop :=
  (∀ (s : State) (g : Guard) (k : BitVec 2) (sc : BitVec 3), s.granted g → s.unprefixed →
    let cover (n : Nat) : List Nat := s.coverOf s.cur.cell s.cur.sc s.cur.ent.seq n
    let tf := [2, 8, 40, 120, 400].getD sc.toNat 0
    let tt := [8, 16, 64, 192, 400].getD sc.toNat 0
    (k ≠ 3 → sc.toNat < 5 → fenceReady s (k != 1) = true → answers (exec (.lFence g k sc) s) (fun t =>
      s.started t (if k = 0 then 1 else tf) (fun o => o.body = .fence (if k = 0 then [] else cover sc.toNat) none ∧
        o.holds = if k = 1 then .writes else .all) ∧ s.issued t 1 ∧ t.mem = s.mem)) ∧
    (sc.toNat < 5 → fenceReady s true = true → answers (exec (.lTfence g sc) s) (fun t =>
      s.started t tt (fun o => o.body = .fence (cover sc.toNat) (some sc.toNat) ∧ o.holds = .all) ∧ s.issued t 1 ∧ t.mem = s.mem)) ∧
    (k = 3 ∨ 5 ≤ sc.toNat → exec (.lFence g k sc) s = .next (s.raise Code.illegal s.cur.ent.addr)) ∧
    (5 ≤ sc.toNat → exec (.lTfence g sc) s = .next (s.raise Code.illegal s.cur.ent.addr))) ∧
  (∀ (s : State) (c u : Nat) (o : Op) (older newer : List Op) (cover : List Nat) (disc : Option Nat), s.ops c = older ++ o :: newer →
    (∀ x ∈ older, x.sc ≠ u) → o.sc = u → o.body = .fence cover disc → o.due ≤ (s.cell c).time →
    (s.performed cover = true → s.env.slow.contains o.id = false → answers (exec (.fenceRetirement c u) s) (fun t =>
      (∀ x ∈ t.ops c, x.id ≠ o.id) ∧ t.mem = s.mem ∧
      ∀ sc k, disc = some sc → inScope sc c k = true → (s.cell k).vf = some (s.vfOf c) → (t.cell k).tlb = [])) ∧
    (s.performed cover = false → answers (exec (.fenceRetirement c u) s) (fun t => (t.cell c).frozenOn.contains o.id = true ∧ t.ops c = s.ops c)))

/-- R303: an update of a barrier object subtracts the arrival and adds the byte count; when both reach zero the arrivals are reloaded and the phase
advances by one, and the phase before is given. A nonzero reserved field, a zero reload, an arrival at an object with none left, or a byte count
outside 64 bits is BARRIER. A wait that looks at an object whose reserved field is nonzero or whose reload is zero meets BARRIER too, and
otherwise sees whether the phase is another (R302, R306). R198, R304 to R306, R382: l.barr and l.bare release at the scope of their object, the
cell's for a SCRATCH handle, and then update it; through a PEER handle they hold a landing or a send-buffer entry. l.barw holds every later word
until it retires; through a PEER handle it asks the owner for a place, again 64 cycles later when there is none, and a refusal begins a late trap.
A window that does not admit the word raises WINDOW. R305, R306, R382: a barrier release whose covered writes are performed updates its object 3
cycles later, or asks the owner; a barrier wait that has seen another phase retires; a refused remote waiter is registered when there is room, or
asks again 64 cycles later, unless its owner refuses it, which begins a late trap. Points that the spec leaves to the model or to inference: log
entries 43, 47. -/
def Obligations.BarriersCountTurnAndRelease : Prop :=
  ((∀ (s : State) (w idx gen off : Nat) (ph : BitVec 12),
     let e := (s.cell w).entry idx
     e.used = true → e.gen.toNat = gen → off + 16 ≤ tdSize e.desc → (s.cell w).entryPoisoned e off 8 = false →
     let w0 : Dword := BitVec.ofNat 64 (ofBytes ((s.cell w).entryBytes e off 8))
     (w0.extractLsb' 52 12 ≠ 0 ∨ w0.extractLsb' 32 20 = 0 → s.lookBarrier w idx gen off ph = .error Code.barrier) ∧
     (w0.extractLsb' 52 12 = 0 → w0.extractLsb' 32 20 ≠ 0 → s.lookBarrier w idx gen off ph = .ok (w0.extractLsb' 0 12 != ph))) ∧
   ∀ (w0 w1 : Dword) (da : Nat) (db : Int), da ≤ 1 →
     let reload := (w0.extractLsb' 32 20).toNat
     let arr := (w0.extractLsb' 12 20).toNat
     let phase := w0.extractLsb' 0 12
     let bytes := w1.toInt + db
     let bad : Prop := w0.extractLsb' 52 12 ≠ 0 ∨ reload = 0 ∨ (da = 1 ∧ arr = 0) ∨ bytes < -2 ^ 63 ∨ 2 ^ 63 ≤ bytes
     (bad → barrierUpdate w0 w1 da db = none) ∧
     (¬bad → ∃ x y, barrierUpdate w0 w1 da db = some (x, y, phase) ∧ y.toInt = bytes ∧ x.extractLsb' 52 12 = 0 ∧
       (x.extractLsb' 32 20).toNat = reload ∧
       (arr = da ∧ bytes = 0 → (x.extractLsb' 12 20).toNat = reload ∧ x.extractLsb' 0 12 = phase + 1) ∧
       (¬(arr = da ∧ bytes = 0) → (x.extractLsb' 12 20).toNat = arr - da ∧ x.extractLsb' 0 12 = phase))) ∧
  (∀ (s : State) (g : Guard) (d a b : BitVec 6) (e : TEntry), s.granted g →
     let h := s.sval a
     let off := s.sval b + disp s.cur.ent
     let sc := objectScope s.cur.cell e
     let peer := if tdLvl e.desc = 2 then some (e.peer, 8 + 4 * (tdArr e.desc).toNat) else none
     let starts (i : Instr) (da : Nat) (db : Int) (r : Option (BitVec 6)) (buf : Buf) : Prop := answers (exec i s) (fun t =>
       s.started t ([2, 8, 40, 120].getD sc 0) (fun o =>
         o.body = .barRel (s.coverOf s.cur.cell s.cur.sc s.cur.ent.seq sc) (hdIdx h) off.toNat da db r peer ∧ o.addr = some off ∧ o.buf = buf) ∧
       s.issued t 1 ∧ t.mem = s.mem)
     s.cellHandle s.cur.cell h = some e → off.toNat % 16 = 0 → 0 ≤ off.toInt → off.toNat + 16 ≤ tdSize e.desc →
     let window (i : Instr) : Prop := exec i s = .next (s.raise Code.window s.cur.ent.addr)
     (fenceReady s false = true → s.sources [a, b] → (s.popped [a, b]).room d = true → (tdLvl e.desc = 2 → s.landingFree = true) →
       (s.windowOk e.peer .barrier = true → starts (.lBarr g d a b) 1 0 (some d) (if tdLvl e.desc = 2 then .landing else .none)) ∧
       (s.windowOk e.peer .barrier = false → window (.lBarr g d a b))) ∧
     (fenceReady s false = true → s.sources [a, b, d] → (tdLvl e.desc = 2 → s.sendFree = true) →
       (s.windowOk e.peer .barrier = true → starts (.lBare g d a b) 0 (s.sval d).toInt none (if tdLvl e.desc = 2 then .send else .none)) ∧
       (s.windowOk e.peer .barrier = false → window (.lBare g d a b))) ∧
     (s.sources [a, b, d] → s.windowOk e.peer .look = false → window (.lBarw g d a b)) ∧
     (s.sources [a, b, d] → s.windowOk e.peer .look = true →
       let obj := if tdLvl e.desc = 2 then e.peer.target else h
       let waits (lat : Nat) (peer reg : Bool) : Prop := answers (exec (.lBarw g d a b) s) (fun t =>
         s.started t lat (fun o => o.body = .barWait (hdCell obj) (hdIdx obj) (hdGen obj).toNat off.toNat ((s.sval d).truncate 12) peer reg false ∧
           o.holds = .all) ∧ s.issued t 1 ∧ t.mem = s.mem)
       (tdLvl e.desc ≠ 2 → waits 3 false false) ∧
       (tdLvl e.desc = 2 → s.findOp s.cur.cell s.nextId = none →
         (∀ x, s.ownerEntry e.peer off.toNat 16 = .ok x → (s.remoteWaiters (hdCell obj) < 32 → waits 3 true true) ∧
           (32 ≤ s.remoteWaiters (hdCell obj) → waits 64 true false)) ∧
         (∀ code, s.ownerEntry e.peer off.toNat 16 = .error code → s.me.trap = none → s.me.handler = false → s.here.closed = false →
           let at' := if code ∈ wordCodes then s.cur.ent.addr else off
           answers (exec (.lBarw g d a b) s) (fun t => t.me.trap =
             some { at' := s.now, code := code, taddr := at', fpc := s.cur.ent.addr, eng := BitVec.ofNat 3 s.cur.eng, late := true }))))) ∧
  (∀ (s : State) (c sc w idx gen off : Nat) (ph : BitVec 12) (reg met : Bool) (da : Nat) (db : Int) (d : Option (BitVec 6)) (p : Peer) (delta : Nat)
     (cover : List Nat) (o : Op) (older newer : List Op), s.ops c = older ++ o :: newer → (∀ x ∈ older, x.sc ≠ sc) → o.sc = sc → o.due ≤ (s.cell c).time →
     s.findOp c o.id = some o →
     let becomes (i : Instr) (P : Op → Prop) : Prop := answers (exec i s) (fun t => t.mem = s.mem ∧ ∃ q, t.findOp c o.id = some q ∧ P q)
     (s.performed cover = true → s.env.slow.contains o.id = false →
       (o.body = .barRel cover idx off da db d none → becomes (.fenceRetirement c sc) (fun q => q.due = o.due + 3 ∧ q.body = .barUpdate idx off da db d)) ∧
       (o.body = .barRel cover idx off da db d (some (p, delta)) → becomes (.fenceRetirement c sc) (fun q =>
         q.due = o.due + (if d.isSome then delta else 64) ∧ q.req = some (.bar p off da db)))) ∧
     (∀ peer, o.body = .barWait w idx gen off ph peer reg true → answers (exec (.barwRetirement c sc) s) (fun t =>
       (∀ x ∈ t.ops c, x.id ≠ o.id) ∧ t.mem = s.mem)) ∧
     (o.body = .barWait w idx gen off ph true false met →
       let peer := ((s.cell c).entry (hdIdx (o.ops.getD 0 0))).peer
       (∀ x, s.ownerEntry peer off 16 = .ok x →
         (s.remoteWaiters w < 32 → becomes (.remoteWaiterRetry c sc) (fun q => q.body = .barWait w idx gen off ph true true met)) ∧
         (32 ≤ s.remoteWaiters w → becomes (.remoteWaiterRetry c sc) (fun q => q.due = (s.cell c).time + 64 ∧ q.body = o.body))) ∧
       (∀ code, s.ownerEntry peer off 16 = .error code → (s.strand c sc).trap = none → (s.strand c sc).handler = false → (s.cell c).closed = false →
         answers (exec (.remoteWaiterRetry c sc) s) (fun t => (t.strand c sc).trap = some (s.lateTrap c o code (errAddr o code))))))

/-! ### The mats -/

/-- R209, R210, R212, R223, R224, R233 to R235: m.fuse sets a shape or releases its sides, m.zero empties its group's accumulators and bounds, m.tfree
empties a register, m.mwait passes when its mats are idle, m.dkr and m.dkw read and write a deckle register of the strands' side; elsewhere, and
in the score zone of an open chain, it reads 0, and there a write raises CHAIN. R81, R232, R236: m.scale takes 66 cycles; m.msave writes the image
of a mat and m.mrest reads one, in 516; a restored image gives the mat's accumulators and deckle registers, a bound in it that is no bound in the
form that R81 gives it, and one whose two registers do not agree leaves them at +0 and raises MATSHAPE. Points that the spec leaves to the model
or to inference: log entry 45. -/
def Obligations.MatWordsControlScaleAndSave : Prop :=
  (∀ (s : State) (g : Guard) (code : BitVec 5) (k i : BitVec 4) (m : BitVec 8) (half : Bool) (d a b : BitVec 6), s.granted g → s.unprefixed →
     let x := s.here
     let n := code.toNat
     let sides := fuseSides n
     (16 ≤ n → exec (.mFuse g code) s = .next (s.raise Code.matshape s.cur.ent.addr)) ∧
     (n < 13 → (∀ z ∈ sides, x.strandMode z = true) → (∀ z ∈ sides, ∀ j ∈ sideMats z, x.matBusy j = false) → x.chain = none →
       (∀ l, x.reshape n = some l → answers (exec (.mFuse g code) s) (fun t => t.here.shapes = l ∧ t.here.accs = x.accs ∧ t.here.dks = x.dks ∧ s.issued t 1)) ∧
       (x.reshape n = none → exec (.mFuse g code) s = .next (s.raise Code.matshape s.cur.ent.addr))) ∧
     (13 ≤ n → n < 16 → (∀ z ∈ sides, ∀ j ∈ sideMats z, x.matBusy j = false) → x.chain = none → answers (exec (.mFuse g code) s) (fun t =>
       s.issued t 1 ∧ ∀ z ∈ sides, t.here.strandMode z = false ∧
         (x.strandMode z = true → ∀ j, j / 8 = z → t.here.acc j = {} ∧ t.here.dk j = 0))) ∧
     (x.strandMode (sideOf k.toNat) = true → x.pendingOn (((x.group k.toNat).map (·.1)).flatMap x.pair) true = false → x.zone k.toNat = .free → x.shapeOk k.toNat = true →
       x.groupOf (k.toNat / 2) = [k.toNat / 2] → answers (exec (.mZero g k) s) (fun t =>
         t.here.acc k.toNat = {} ∧ dkBound (t.here.dk k.toNat) = 0 ∧ dkWide (t.here.dk k.toNat) = false ∧ dkThr (t.here.dk k.toNat) = dkThr (x.dk k.toNat) ∧
         (∀ j, j / 2 ≠ k.toNat / 2 → t.here.acc j = x.acc j) ∧ s.issued t 1)) ∧
     ((x.tile i.toNat).st = .full → answers (exec (.mTfree g i) s) (fun t => t.here.emptying = x.emptying ++ [i.toNat] ∧ t.here.tiles = x.tiles ∧ s.issued t 1)) ∧
     ((x.tile i.toNat).st = .empty → exec (.mTfree g i) s = .next (s.retire 1)) ∧
     ((∀ j, j < 8 → m.getLsbD j = true → x.matIdle j = true) → exec (.mMwait g m) s = .next (s.retire 1)) ∧
     (x.pendingOn (x.pair k.toNat) true = false →
       let mine : Prop := x.strandMode (sideOf k.toNat) = true
       (s.room d = true → mine → x.zone k.toNat ≠ .score →
         ((x.acc k.toNat).dpoison = false →
           exec (.mDkr g d k half) s = .next ((s.result 2 (.s d { val := (x.dk k.toNat).extractLsb' (if half then 64 else 0) 64 })).retire 1)) ∧
         ((x.acc k.toNat).dpoison = true → exec (.mDkr g d k half) s = .next (s.raise Code.poison s.cur.ent.addr))) ∧
       (s.room d = true → ¬mine ∨ x.zone k.toNat = .score → exec (.mDkr g d k half) s = .next ((s.result 2 (.s d { val := 0 })).retire 1)) ∧
       (s.sources [a, b] →
         (x.zone k.toNat = .score → exec (.mDkw g k a b) s = .next (s.raise Code.chain s.cur.ent.addr)) ∧
         (x.zone k.toNat ≠ .score → ¬mine → exec (.mDkw g k a b) s = .next ((s.popped [a, b]).retire 1)) ∧
         (x.zone k.toNat ≠ .score → mine → answers (exec (.mDkw g k a b) s) (fun t =>
           t.here.dk k.toNat = writeDeckle (x.dk k.toNat) (s.sval a) (s.sval b) ∧ t.here.accs = x.accs ∧ s.issued t 1))))) ∧
  ((∀ (s : State) (g : Guard) (k : BitVec 4) (n : BitVec 3) (a b : BitVec 6) (e : TEntry), s.granted g →
     let x := s.here
     let off := s.sval b + disp s.cur.ent
     let accs := (x.group k.toNat).map (·.1)
     let mine := [2 * n.toNat, 2 * n.toNat + 1]
     (s.unprefixed → s.sources [a] → x.strandMode (sideOf k.toNat) = true → x.pendingOn (accs.flatMap x.pair) true = false →
       (∀ m ∈ x.group k.toNat, x.pathFree m.2.1 = true) → x.zone k.toNat = .free → x.shapeOk k.toNat = true →
       (∀ j ∈ accs.flatMap x.pair, (x.acc j).poison = false ∧ (x.acc j).dpoison = false) → answers (exec (.mScale g k a) s) (fun t =>
         s.started t 66 (fun o => o.body = .scale accs ((s.sval a).truncate 32)) ∧ s.issued t 1 ∧ t.here.accs = x.accs)) ∧
     (s.sources [a, b] → x.strandMode (n.toNat / 4) = true → x.pendingOn mine true = false → x.pathFree n.toNat = true →
       s.scratchHandle s.cur.cell (s.sval a) = some e → off.toNat % 64 = 0 → 0 ≤ off.toInt → off.toNat + 32800 ≤ tdSize e.desc →
       ((∀ j ∈ mine, (x.acc j).poison = false ∧ (x.acc j).dpoison = false) → answers (exec (.mMsave g n a b) s) (fun t =>
         s.started t 516 (fun o => o.body = .mlines false (s.now + 4) (imageGroups e off.toNat 32800 (some (x.matImage n.toNat))) [] .msave) ∧ s.issued t 1 ∧
         t.mem = s.mem)) ∧
       ((n.toNat < 4 → x.chain = none) → answers (exec (.mMrest g n a b) s) (fun t =>
         s.started t 516 (fun o => o.body = .mlines true (s.now + 4) (imageGroups e off.toNat 32800 none) [] (.mrest n.toNat)) ∧ s.issued t 1 ∧
         t.mem = s.mem)))) ∧
   (∀ (s : State) (c id st n : Nat) (o : Op) (got : Table Byte), s.findOp c id = some o → o.id = id → o.body = .mlines true st [] got (.mrest n) →
     o.err = none → o.due ≤ (s.cell c).time →
     let dk (at' : Nat) : Deckle := let d : Deckle := BitVec.ofNat 128 (leRead got at' 16 % 2 ^ 105); Deckle.setBound d (takeBound (dkBound d))
     (imageRefused (dk 32768) (dk 32784) = false → answers (exec (.mrestCompletion c id) s) (fun t =>
       ((t.cell c).acc (2 * n)).val = BitVec.ofNat 131072 (leRead got 0 16384) ∧
       ((t.cell c).acc (2 * n + 1)).val = BitVec.ofNat 131072 (leRead got 16384 16384) ∧
       (t.cell c).dk (2 * n) = dk 32768 ∧ (t.cell c).dk (2 * n + 1) = dk 32784 ∧ t.findOp c id = none ∧ t.mem = s.mem)) ∧
     (imageRefused (dk 32768) (dk 32784) = true → (s.strand c o.sc).trap = none → (s.strand c o.sc).handler = false → (s.cell c).closed = false →
       answers (exec (.mrestCompletion c id) s) (fun t => (t.cell c).acc (2 * n) = {} ∧ (t.cell c).acc (2 * n + 1) = {} ∧
         (t.strand c o.sc).trap = some (s.lateTrap c o Code.matshape o.ent.addr)))))

/-- R17, R211, R212, R219, R225, R226, R322: a chunk word issues when its side is the strands', its registers are full, its arrays and accumulators
free; its chunk is written occ + 20 cycles later, its arrays are busy for occ cycles, and the registers that its flags release become empty in the
next cycle. A register with a deferred fault raises it before any other check of the registers. R70, R77, R80, R82, R215, R217, R225: at its end a
chunk on one accumulator adds its products to the accumulator and raises its bound; a chunk that widens the accumulator discards its partner's
contents and bound first; the flags, with the overflow of the bound, are added to sr.stat. R77, R225: in a chunk each element of the accumulator
gets the 64 products of its own row and column, added as R77 says, and no other element enters it. Points that the spec leaves to the model or to
inference: log entry 45. -/
def Obligations.ChunksIssueAndAreAdded : Prop :=
  (∀ (s : State) (g : Guard) (wop : Bool) (sel : Option (BitVec 32)) (k i j : BitVec 4) (ri rj : Bool), s.granted g → s.unprefixed →
     let x := s.here
     let gr := x.group k.toNat
     let dblA := gr.any (fun m => m.2.2.1 != 0)
     let dblB := gr.any (fun m => m.2.2.2 != 0)
     let ra := operandRegs i.toNat dblA
     let rb := operandRegs j.toNat dblB
     let ts := ra.map x.tile ++ rb.map x.tile
     let accs := gr.map (·.1)
     let wide := wop || (match sel with | some e => ftWide e | none => false)
     let word : Instr := if wop then .mMmaw g sel.isSome k ri i rj j else .mMma g sel.isSome k ri i rj j
     x.strandMode (sideOf k.toNat) = true → (∀ r ∈ ra ++ rb, r < 16 ∧ (x.tile r).st = .full) → (∀ m ∈ gr, tget 0 x.array m.2.1 ≤ s.now) →
     x.pendingOn (if wide then accs ++ accs.map partner else accs.flatMap x.pair) false = false → x.chain = none →
     (∀ e, sel = some e → s.ftEntry s.cur.cell (ftIndex s.cur.ent) = .ok e ∧ ftReserved e = false) →
     (∀ z, deferredFault ts = some z → exec word s = .next (s.raise z.1 z.2)) ∧
     (deferredFault ts = none → operandFault s (ra.map x.tile) (rb.map x.tile) sel = none → x.shapeOk k.toNat = true → (dblA = true → i.toNat % 2 = 0) → (dblB = true → j.toNat % 2 = 0) →
     (wide = true → ∀ m ∈ gr, dkWide (x.dk (partner m.1)) = false) → tileFault s ts = none →
     (∀ k ∈ gr.flatMap (fun m => x.pair m.1), (x.acc k).poison = false ∧ (x.acc k).dpoison = false) →
     let occ := ((ra.map x.tile).map (fun t => occOf t.fmt.toNat (readPlanes t sel ftApl)) ++
       (rb.map x.tile).map (fun t => occOf t.fmt.toNat (readPlanes t sel ftBpl))).foldl max 0
     answers (exec word s) (fun t =>
       s.started t (occ + 20) (fun o => ∃ ms, o.body = .chunk ms ∧ ms.map (·.acc) = accs ∧ ms.length = gr.length) ∧ s.issued t 1 ∧
       (∀ m ∈ gr, tget 0 t.here.array m.2.1 = s.now + occ) ∧ t.here.tiles = x.tiles ∧ t.here.accs = x.accs ∧
       t.here.emptying = x.emptying ++ ((if ri then ra else []) ++ (if rj then rb else [])) ∧ t.mem = s.mem))) ∧
  (∀ (s : State) (c id : Nat) (o : Op) (m : Staged), s.findOp c id = some o → o.body = .chunk [m] → o.due ≤ (s.cell c).time →
     let x := s.cell c
     let b := dkBound (x.dk m.acc)
     let xs := (upto 64).map (m.x.rowVals m.px)
     let ys := (upto 64).map (m.y.rowVals m.py)
     let lo := if m.widens then 0 else (x.acc (partner m.acc)).val
     let r := chunkTile m.wide (accList (x.acc m.acc).val) (accList lo) xs ys
     let b' := chunkBound m.wide r.1 b m.x.beta m.y.beta xs ys
     answers (exec (.chunkResult c id) s) (fun t =>
       ((t.cell c).acc m.acc).val = ofAccList r.1 ∧ dkBound ((t.cell c).dk m.acc) = b' ∧
       (m.wide = true → ((t.cell c).acc (partner m.acc)).val = ofAccList r.2.1) ∧
       (m.wide = false → ((t.cell c).acc (partner m.acc)).val = lo) ∧ (m.widens = true → dkBound ((t.cell c).dk (partner m.acc)) = 0) ∧
       (∀ j, j ≠ m.acc → j ≠ partner m.acc → (t.cell c).acc j = x.acc j) ∧
       (t.strand c o.sc).stat = (s.strand c o.sc).stat ||| (r.2.2 ||| chunkOvf r.1 b m.x.beta m.y.beta b') ∧ t.findOp c id = none ∧ t.mem = s.mem)) ∧
  (∀ (hi lo : List (BitVec 32)) (xs ys : List (List FVal)), hi.length = 4096 → xs.length = 64 → ys.length = 64 →
     ∀ r n, r < 64 → n < 64 →
       (chunkTile false hi lo xs ys).1[64 * r + n]? = (hi[64 * r + n]?).map (fun h =>
         (addChunk h (((xs.getD r []).zip (ys.getD n [])).map (fun e => e.1.mul e.2))).1))

/-- R218, R220, R227 to R229: a drain whose entry, shape, place and accumulators are in order starts: to a scratch handle it moves its rows from issue
+ 8, its bound words last, and completes 72 cycles after issue, to a result queue its first row comes 8 cycles after issue. R48, R70, R215, R218,
R227, R229: a drain that completes empties its accumulator, sets dk.last and dk.exc, and dkx in sr.stat if its bound passed its threshold, and the
overflow of its bound; a row enters a result queue while there is room and the cell's time goes on, one a cycle, and the last one completes the
drain. R221, R230, R231: a peer drain sends its values and bound with a send-buffer entry; at the target the addition takes its place behind the
operations on its accumulator, starts when nothing is before it, or is refused where the side is not the strands', and 66 cycles later the values
are added; the acknowledgement empties the sender's accumulator, or raises the refusal. Points that the spec leaves to the model or to inference:
log entries 18, 42. -/
def Obligations.DrainsStartAndComplete : Prop :=
  (∀ (s : State) (g : Guard) (k : BitVec 4) (y : BitVec 2) (a b : BitVec 6) (e : BitVec 32) (z : TEntry), s.granted g → s.unprefixed →
     let x := s.here
     let gr := x.group k.toNat
     let all := (gr.map (·.1)).flatMap x.pair
     let h := s.sval a
     let off := s.sval b
     x.strandMode (sideOf k.toNat) = true → x.pendingOn all true = false → (∀ m ∈ gr, x.pathFree m.2.1 = true) → x.zone k.toNat = .free →
     x.shapeOk k.toNat = true → s.ftEntry s.cur.cell (ftIndex s.cur.ent) = .ok e → ftReserved e = false → ftRnd e < 6 →
     (∀ j ∈ gr.flatMap (fun m => x.pair m.1), (x.acc j).poison = false ∧ (x.acc j).dpoison = false) → (∀ m ∈ gr, dkMode (x.dk m.1) < 2) →
     (s.sources [a, b] → ftOut e = 0 → s.scratchHandle s.cur.cell h = some z → tdFmt z.desc = 0 → gr = [(k.toNat, k.toNat / 2, 0, 0)] →
       off.toNat % tdRb z.desc % 256 = 0 → (tdBd z.desc = true → off.toNat / tdRb z.desc % 64 = 0) → 0 ≤ off.toInt →
       off.toNat / tdRb z.desc + 64 ≤ tdRows z.desc → off.toNat % tdRb z.desc + 256 ≤ tdRb z.desc →
       answers (exec (.mDrain g k a b) s) (fun t => s.started t 72 (fun o => ∃ gs m, o.body = .mlines false (s.now + 8) gs [] (.drain [m]) ∧
         gs.length = (if tdBd z.desc then 65 else 64) ∧ m.acc = k.toNat ∧ o.uses = [.scratch s.cur.cell (hdIdx h)]) ∧ s.issued t 1 ∧
         tget 0 t.here.path (k.toNat / 2) = s.now + 64 ∧ t.here.accs = x.accs ∧ t.mem = s.mem)) ∧
     ((s.me.yq y.toNat).length < 16 → ftOut e < 12 → queueFmt (ftOut e) ((ftScale e).getLsbD 1) = true →
       answers (exec (.mDrainQ g k y) s) (fun t => s.started t 8 (fun o => ∃ rows ms, o.body = .drainQ y rows ms ∧ ms.map (·.acc) = gr.map (·.1)) ∧
         s.issued t 1 ∧ t.here.accs = x.accs ∧ t.mem = s.mem)) ∧
     (ftOut e = 12 → s.sources [a, b] → exec (.mDrain g k a b) s = .next (s.raise Code.illegal s.cur.ent.addr))) ∧
  (∀ (s : State) (c id : Nat) (o : Op), s.findOp c id = some o → o.id = id →
     let x := s.cell c
     let emptied (t : State) (m : DrainMem) : Prop := (t.cell c).acc m.acc = {} ∧ dkField ((t.cell c).dk m.acc) 72 32 = (storedBound m.bound m.exc).toNat ∧
       ((t.cell c).dk m.acc).getLsbD 67 = m.exc ∧ dkBound ((t.cell c).dk m.acc) = 0 ∧ t.findOp c id = none ∧ t.mem = s.mem
     (∀ st got m, o.body = .mlines false st [] got (.drain [m]) → o.due ≤ x.time → answers (exec (.drainCompletion c id) s) (fun t =>
       emptied t m ∧ (t.strand c o.sc).stat = (s.strand c o.sc).stat ||| ((if m.exc then Flags.dkx else 0) ||| m.ovf))) ∧
     (∀ y v fl rest m, o.body = .drainQ y ((v, fl) :: rest) [m] → x.runs = true → o.due ≤ x.time → ((s.strand c o.sc).yq y.toNat).length < 16 →
       answers (exec (.resultQueueRowPush c id) s) (fun t => (t.strand c o.sc).yq y.toNat = (s.strand c o.sc).yq y.toNat ++ [v] ∧
         (rest = [] → emptied t m) ∧
         (rest ≠ [] → (t.cell c).accs = x.accs ∧ ∃ q, t.findOp c id = some q ∧ q.body = .drainQ y rest [m] ∧ q.due = x.time + 1))) ∧
     (∀ y r m, o.body = .drainQ y r [m] → x.runs = false ∨ 16 ≤ ((s.strand c o.sc).yq y.toNat).length → exec (.resultQueueRowPush c id) s = .next s)) ∧
  ((∀ (s : State) (g : Guard) (k : BitVec 4) (a b : BitVec 6) (e : BitVec 32), s.granted g →
     let x := s.here
     let off := s.sval b + disp s.cur.ent
     let target := (s.sval a).toNat % 128
     s.sources [a, b] → x.group k.toNat = [(k.toNat, k.toNat / 2, 0, 0)] → x.strandMode (sideOf k.toNat) = true → x.pendingOn (x.pair k.toNat) true = false →
     x.pathFree (k.toNat / 2) = true → s.sendFree = true → x.zone k.toNat = .free → x.shapeOk k.toNat = true →
     s.ftEntry s.cur.cell (ftIndex s.cur.ent) = .ok e → ftReserved e = false → ftRnd e < 6 → ftOut e = 0 → off.toNat < 16 →
     (∀ j ∈ x.pair k.toNat, (x.acc j).poison = false ∧ (x.acc j).dpoison = false) → dkMode (x.dk k.toNat) < 2 →
     (s.inShape (s.vfOf s.cur.cell) target = true → answers (exec (.mDrainPeer g k a b) s) (fun t =>
       s.started t 136 (fun o => o.buf = .send ∧ (∃ m, o.body = .drainP [m] ∧ m.acc = k.toNat) ∧
         ∃ vals bound, o.req = some (.peerDrain target off.toNat vals bound)) ∧ s.issued t 1 ∧ t.here.accs = x.accs)) ∧
     (s.inShape (s.vfOf s.cur.cell) target = false → exec (.mDrainPeer g k a b) s = .next (s.raise Code.window s.cur.ent.addr))) ∧
   (∀ (s : State) (i c : Nat) (o : Op), s.findAny i = some (c, o) →
     (∀ tc p vals bound, o.req = some (.peerDrain tc p vals bound) → s.gateOpen tc = true →
       ((s.cell tc).strandMode (sideOf p) = true → dkLo ((s.cell tc).dk p) = false → (s.cell tc).pendingOn ((s.cell tc).pair p) true = false →
         answers (exec (.peerAddition i) s) (fun t => ∃ q, q ∈ t.ops tc ∧ q.body = .peerAdd p vals bound c i ∧ q.waits = false ∧
           q.due = (s.cell tc).time + 66)) ∧
       ((s.cell tc).strandMode (sideOf p) = true → (s.cell tc).pendingOn ((s.cell tc).pair p) true = true →
         answers (exec (.peerAddition i) s) (fun t => ∃ q, q ∈ t.ops tc ∧ q.body = .peerAdd p vals bound c i ∧ q.waits = true ∧
           q.accs = (s.cell tc).pair p)) ∧
       ((s.cell tc).strandMode (sideOf p) = false → answers (exec (.peerAddition i) s) (fun t =>
         ∃ q, t.findOp c i = some q ∧ q.req = none ∧ q.err = some (Code.matshape, o.ent.addr)))) ∧
     (∀ p vals bound sc sid, o.req = none → o.body = .peerAdd p vals bound sc sid → o.waits = true →
       ((s.cell c).pendingBefore i o.accs = true → exec (.peerAddition i) s = .next s) ∧
       ((s.cell c).pendingBefore i o.accs = false → (s.cell c).strandMode (sideOf p) = true → dkLo ((s.cell c).dk p) = false →
         answers (exec (.peerAddition i) s) (fun t => ∃ q, t.findOp c i = some q ∧ q.body = o.body ∧ q.waits = false ∧ q.due = (s.cell c).time + 66)) ∧
       (∀ z, (s.cell c).pendingBefore i o.accs = false → (s.cell c).strandMode (sideOf p) = false → s.findOp sc sid = some z → sid ≠ i →
         answers (exec (.peerAddition i) s) (fun t => t.findOp c i = none ∧
           ∃ q, t.findOp sc sid = some q ∧ q.err = some (Code.matshape, z.ent.addr)))) ∧
     (∀ p vals bound sc sid, o.req = none → o.body = .peerAdd p vals bound sc sid → o.waits = false → o.due ≤ (s.cell c).time →
       dkWide ((s.cell c).dk p) = false →
       let r := addTile false (accList ((s.cell c).acc p).val) [] (dkBound ((s.cell c).dk p)) (accList vals) bound
       answers (exec (.peerAddition i) s) (fun t => ((t.cell c).acc p).val = ofAccList r.1 ∧ dkBound ((t.cell c).dk p) = r.2.2 ∧ t.findOp c i = none))) ∧
   (∀ (s : State) (c id : Nat) (o : Op) (m : DrainMem), s.findOp c id = some o → o.body = .drainP [m] → o.due ≤ (s.cell c).time →
     (o.err = none → o.req = none → s.peerDone c id = true → s.env.slow.contains id = false → answers (exec (.peerDrainAck c id) s) (fun t =>
       (t.cell c).acc m.acc = {} ∧ t.findOp c id = none ∧ t.mem = s.mem)) ∧
     (∀ code a, o.err = some (code, a) → (s.strand c o.sc).trap = none → (s.strand c o.sc).handler = false → (s.cell c).closed = false →
       answers (exec (.peerDrainAck c id) s) (fun t => (t.cell c).accs = (s.cell c).accs ∧ (t.strand c o.sc).trap =
         some (s.lateTrap c o code a)))))

/-! ### The chain -/

/-- R209, R239, R241: m.chb opens a chain on the cell's two sides: every row at its initial state, the queries taken from their registers, a0 to a7
and the O bank at +0, and the quads in force. With a chain open or a scale that is not finite it raises CHAIN, with a register index off its
alignment MATSHAPE; a register with a deferred fault raises it (R322). A side that is claimed becomes the strands' in the cycle after the first
without a task. R214, R242, R243, R246, R247: m.chs adds a step to the open chain: its value phase begins no earlier than the key phase ends and
than the step before has left, and it ends Tv + 20 cycles after. Without a chain it raises CHAIN, on a poisoned one or a poisoned O bank POISON,
and without live handles HANDLE. R242, R246, R247, R256: a step's value phase begins at vs, and at its end the rows and the O members are what the
step's arithmetic gives; a poisoned step poisons the chain and raises POISON. Points that the spec leaves to the model or to inference: log
entries 40, 41. -/
def Obligations.ChainsOpenAndStep : Prop :=
  ((∀ (s : State) (g : Guard) (o q : Bool) (i : BitVec 4) (a : BitVec 6), s.granted g → s.unprefixed → s.sources [a] →
     let x := s.here
     let regs := qRegs i.toNat q
     let c : BitVec 32 := (s.sval a).truncate 32
     let ts := regs.map x.tile
     let bank := [8, 10, 12, 14].map (fun k => if o then k + 1 else k)
     x.strandMode 0 = true → x.strandMode 1 = true → (∀ j, j < 8 → x.matBusy j = false) → (∀ r ∈ regs, r < 16 → (x.tile r).st = .full) →
     (∀ z, x.chain = none → (f32 c).isFin = true → deferredFault ((regs.filter (fun r => decide (r < 16))).map x.tile) = some z →
       exec (.mChb g o q i a) s = .next (s.raise z.1 z.2)) ∧
     (x.chain = none → (f32 c).isFin = true → deferredFault ((regs.filter (fun r => decide (r < 16))).map x.tile) = none →
       i.toNat % (if q then 4 else 2) ≠ 0 → exec (.mChb g o q i a) s = .next (s.raise Code.matshape s.cur.ent.addr)) ∧
     (x.chain = none → (f32 c).isFin = true → i.toNat % (if q then 4 else 2) = 0 →
       (∀ t ∈ ts, isMatFmt t.fmt.toNat = true ∧ t.fmt = (x.tile i.toNat).fmt ∧ t.planes = (x.tile i.toNat).planes) → (∀ k ∈ bank, dkLo (x.dk k) = false) →
       deferredFault ts = none → tileFault s ts = none → (∀ k, k < 16 → (x.acc k).poison = false ∧ (x.acc k).dpoison = false) →
       answers (exec (.mChb g o q i a) s) (fun t => s.issued t 1 ∧ t.mem = s.mem ∧ t.here.tiles = x.tiles ∧ t.here.shapes = [9, 10] ∧
         (∀ k, k < 8 → t.here.acc k = {} ∧ t.here.dk k = 0) ∧ (∀ k ∈ bank, t.here.acc k = {} ∧ dkBound (t.here.dk k) = 0) ∧
         ∃ ch, t.here.chain = some ch ∧ ch.d128 = q ∧ ch.bank = o ∧ ch.c = c ∧ ch.q = ts ∧ ch.m = RowState.init.m ∧ ch.l = RowState.init.l ∧
           ch.f = RowState.init.f ∧ ch.steps = [] ∧ ch.poison = false)) ∧
     (x.chain ≠ none ∨ (f32 c).isFin = false → exec (.mChb g o q i a) s = .next (s.raise Code.chain s.cur.ent.addr))) ∧
   (∀ (s : State) (c side : Nat), (s.cell c).strandMode side = false → s.claimed c side = true → tfind side (s.cell c).sideTask = none →
     (tfind side (s.cell c).claim = none → answers (exec (.sideClaim c side) s) (fun t =>
       tfind side (t.cell c).claim = some (s.cell c).time ∧ (t.cell c).strandMode side = false)) ∧
     (∀ z, tfind side (s.cell c).claim = some z → z < (s.cell c).time → answers (exec (.sideClaim c side) s) (fun t =>
       (t.cell c).strandMode side = true ∧ (t.cell c).accs = (s.cell c).accs)))) ∧
  (∀ (s : State) (g : Guard) (d a b : BitVec 6), s.granted g → s.unprefixed → s.sources [a, b, d] →
     let cw := s.sval d
     let row := cw.toNat % 4096
     let nk := cw.toNat / 65536 % 128 + 1
     (s.here.chain = none → exec (.mChs g d a b) s = .next (s.raise Code.chain s.cur.ent.addr)) ∧
     (∀ ch, s.here.chain = some ch → ch.busy ≤ s.now → ch.steps.length ≤ 2 → s.here.rowsBusy = false → s.here.bankBusy ch = false →
       let sound : Prop := ch.poison = false ∧ ∀ k ∈ ch.allAccs, (s.here.acc k).poison = false ∧ (s.here.acc k).dpoison = false
       (¬sound → exec (.mChs g d a b) s = .next (s.raise Code.poison s.cur.ent.addr)) ∧
       (sound → cw &&& 0xFFFFFFFFFE80F000 ≠ 0 → exec (.mChs g d a b) s = .next (s.raise Code.chain s.cur.ent.addr)) ∧
       (sound → cw &&& 0xFFFFFFFFFE80F000 = 0 → s.chHandle s.cur.cell (s.sval a) = none ∨ s.chHandle s.cur.cell (s.sval b) = none →
         exec (.mChs g d a b) s = .next (s.raise Code.handle 0)) ∧
       (∀ k v, sound → cw &&& 0xFFFFFFFFFE80F000 = 0 → s.chHandle s.cur.cell (s.sval a) = some k →
         s.chHandle s.cur.cell (s.sval b) = some v → stepChecks ch k v row nk = none →
         let ts := ch.blocks * max ch.qOcc (occOf (tdFmt k.desc) (tdPl k.desc + 1))
         let tv := 2 * occOf (tdFmt v.desc) 8
         let vs := if ch.fresh then s.now + ts + 44 else max (s.now + ts + 44) (ch.vs + ch.tv)
         answers (exec (.mChs g d a b) s) (fun t => s.issued t 1 ∧ t.mem = s.mem ∧
           (∃ o, t.ops s.cur.cell = s.ops s.cur.cell ++ [o] ∧ o.due = vs + tv + 20 ∧ o.sc = s.cur.sc ∧ o.body = .chainStep) ∧
           ∃ ch' st, t.here.chain = some ch' ∧ ch'.steps = ch.steps ++ [st] ∧ st.nk = nk ∧ st.diag = cw.getLsbD 24 ∧ st.vs = vs ∧ st.started = false ∧
             ch'.m = ch.m ∧ ch'.l = ch.l ∧ ch'.busy = s.now + ts)))) ∧
  (∀ (s : State) (c : Nat) (ch : Chain) (st : ChStep) (rest : List ChStep), (s.cell c).chain = some ch → ch.steps = st :: rest →
     (st.started = false → st.vs ≤ (s.cell c).time → answers (exec (.chainValuePhase c) s) (fun t =>
       (t.cell c).chain = some { ch with steps := { st with started := true } :: rest } ∧ t.mem = s.mem)) ∧
     (st.vs + st.tv + 20 ≤ (s.cell c).time → ∀ o, s.findOp c st.op = some o → o.id = st.op →
       (st.key.bad = false → st.val.bad = false → ch.poison = false →
         let r := ch.apply st ((s.cell c).oTiles ch)
         answers (exec (.chainStepCompletion c) s) (fun t =>
           (t.cell c).chain = some { r.1 with steps := rest } ∧ (t.cell c).accs = ((s.cell c).setOTiles ch r.2.1).accs ∧
           (t.strand c o.sc).stat = (s.strand c o.sc).stat ||| r.2.2 ∧ t.findOp c st.op = none ∧ t.mem = s.mem)) ∧
       (st.key.bad = true ∨ st.val.bad = true ∨ ch.poison = true → (s.strand c o.sc).trap = none → (s.strand c o.sc).handler = false → (s.cell c).closed = false →
         answers (exec (.chainStepCompletion c) s) (fun t => (t.cell c).chain = some { ch with steps := rest, poison := true } ∧
           (∀ k ∈ ch.allAccs, ((t.cell c).acc k).poison = true) ∧ (t.strand c o.sc).trap =
             some (s.lateTrap c o Code.poison o.ent.addr)))))

/-- R246, R248, R251, R256: m.che closes a chain without steps in flight in 72 cycles, with (m, l) to a scratch handle or a result queue; then O is
divided, the chain is gone, and the sides stay the strands' as quads. A poisoned chain is closed at once, with POISON and the word's access
address; without a chain it is CHAIN. R252, R253: m.chsv writes the image of the row state and m.chld reads one; an image whose flags, scale and
reserved bytes are the open chain's replaces the row state and cures its poison, and another raises CHAIN. Points that the spec leaves to the
model or to inference: log entry 41. -/
def Obligations.ChainsCloseAndKeepTheirRows : Prop :=
  ((∀ (s : State) (g : Guard) (y : BitVec 2) (a b : BitVec 6) (ch : Chain), s.granted g → s.here.chain = some ch → ch.steps = [] → s.here.rowsBusy = false →
     s.here.bankBusy ch = false → (∀ m, 4 ≤ m → m < 8 → s.here.pathFree m = true) →
     let off := s.sval b + disp s.cur.ent
     let fails (i : Instr) (at' : Dword) : Prop := answers (exec i s) (fun t => t.here.chain = none ∧ (∀ k, k < 8 → t.here.acc k = {} ∧ t.here.dk k = 0) ∧
       ∃ tr, t.me.trap = some tr ∧ tr.code = Code.poison ∧ tr.taddr = at')
     (ch.poison = true → (s.unprefixed → (s.me.yq y.toNat).length < 16 → fails (.mCheQ g y) s.cur.ent.addr) ∧
       (s.sources [a, b] → fails (.mChe g a b) off)) ∧
     (ch.poison = false → (∀ k ∈ ch.allAccs, (s.here.acc k).poison = false ∧ (s.here.acc k).dpoison = false) →
     let closes (i : Instr) (body : OpBody) : Prop := answers (exec i s) (fun t =>
       s.started t 72 (fun o => o.body = body) ∧ s.issued t 1 ∧ t.here.accs = s.here.accs ∧ t.mem = s.mem)
     (s.unprefixed → (s.me.yq y.toNat).length < 16 → closes (.mCheQ g y) (.che (some y) ch.mlRows none)) ∧
     (∀ e, s.sources [a, b] → s.scratchHandle s.cur.cell (s.sval a) = some e → off.toNat % 64 = 0 → 0 ≤ off.toInt → off.toNat + 1024 ≤ tdSize e.desc →
       closes (.mChe g a b) (.che none [] (some (withData (partsOf e.desc e.base off.toNat 1024) ch.mlBytes)))))) ∧
   (∀ (s : State) (g : Guard) (y : BitVec 2) (a b : BitVec 6), s.granted g → s.here.chain = none →
     (s.unprefixed → exec (.mCheQ g y) s = .next (s.raise Code.chain s.cur.ent.addr)) ∧
     (s.sources [a, b] → exec (.mChe g a b) s = .next (s.raise Code.chain s.cur.ent.addr))) ∧
   (∀ (s : State) (c id : Nat) (o : Op) (ch : Chain) (y : Option (BitVec 2)) (rows : List Vec) (out : Option (List Part)), s.findOp c id = some o →
     (s.cell c).chain = some ch → o.body = .che y rows out → o.due ≤ (s.cell c).time → o.accs ≠ [] →
     answers (exec (.chainClose c id) s) (fun t => (t.cell c).chain = none ∧ (t.cell c).shapes = [9, 10] ∧
       (∀ k, k < 8 → (t.cell c).acc k = {} ∧ (t.cell c).dk k = 0) ∧ (rows = [] → t.findOp c id = none) ∧
       (rows ≠ [] → ∃ q, t.findOp c id = some q ∧ q.accs = [] ∧ q.body = o.body) ∧ t.mem = s.mem))) ∧
  ((∀ (s : State) (g : Guard) (a b : BitVec 6) (ch : Chain) (e : TEntry), s.granted g → s.here.chain = some ch → ch.steps = [] → s.here.rowsBusy = false →
     s.sources [a, b] → s.scratchHandle s.cur.cell (s.sval a) = some e →
     let off := s.sval b + disp s.cur.ent
     off.toNat % 64 = 0 → 0 ≤ off.toInt → off.toNat + 1600 ≤ tdSize e.desc →
     let starts (i : Instr) (rd : Bool) (gs : List (List Part)) (w : MDone) (ch' : Chain) : Prop := answers (exec i s) (fun t =>
       s.started t (6 + gs.length) (fun o => o.body = .mlines rd (s.now + 4) gs [] w) ∧ s.issued t 1 ∧ t.here.chain = some ch' ∧ t.mem = s.mem)
     (ch.poison = true → exec (.mChsv g a b) s = .next (s.raise Code.poison off)) ∧
     (ch.poison = false → starts (.mChsv g a b) false (groupParts (withData (partsOf e.desc e.base off.toNat 1600) ch.image)) .chsv ch) ∧
     starts (.mChld g a b) true (groupParts (partsOf e.desc e.base off.toNat 1600)) .chld { ch with fresh := true }) ∧
   (∀ (s : State) (c id st : Nat) (o : Op) (ch : Chain) (got : Table Byte), s.findOp c id = some o → o.id = id → (s.cell c).chain = some ch →
     o.body = .mlines true st [] got .chld → o.err = none → o.due ≤ (s.cell c).time →
     let fits : Prop := leRead got 1548 4 = ch.flagBits ∧ imageWord got 1536 = ch.c ∧ leRead got 1552 48 = 0
     (fits → answers (exec (.chldCompletion c id) s) (fun t => t.findOp c id = none ∧ t.mem = s.mem ∧ ∃ ch', (t.cell c).chain = some ch' ∧
       ch'.poison = false ∧ ch'.c = ch.c ∧ ch'.q = ch.q ∧ ch'.ntile = imageWord got 1544 ∧
       ∀ i, i < 128 → ch'.m[i]? = some (imageWord got (4 * i)) ∧ ch'.l[i]? = some (imageWord got (512 + 4 * i)) ∧
         ch'.f[i]? = some (imageWord got (1024 + 4 * i)))) ∧
     (¬fits → (s.strand c o.sc).trap = none → (s.strand c o.sc).handler = false → (s.cell c).closed = false → answers (exec (.chldCompletion c id) s) (fun t =>
       (t.cell c).chain = some ch ∧ (t.strand c o.sc).trap = some (s.lateTrap c o Code.chain o.ent.addr)))))

/-! ### The KV space and the flume engines -/

/-- R331 to R335: l.ldk takes its place at issue, after every KV request issued before it, and holds its tile register LOADING until its arrival; the
write of an l.stk takes its place in its die's sequence at issue, before its bytes are known; l.stk, l.kfork and l.kfree are posted to the KV unit
and hold a send-buffer entry; a misaligned position raises ALIGN. R328, R330, R331, R333 to R335: the KV unit serves the requests of a strand, and
the stores of a row, in order. A store beyond the sequence's slots or head dimension is BOUNDS, below its freeze point PROT, to a demoted page
PAGE; one to a resident frame, or to a new one for a page that the sequence does not own, fills its write with the row and raises the length; a
fork makes a child of the parent's length that shares its pages and freezes them, at depth 4 it is FORKDEPTH, and all-ones when no number is free;
a free marks the sequence dead, and releases it when it has no child. Points that the spec leaves to the model or to inference: log entries 21,
22, 23, 71. -/
def Obligations.KvRequestsArePostedAndApplied : Prop :=
  (∀ (s : State) (g : Guard) (v sp : Bool) (d : BitVec 4) (b w : BitVec 5) (c e a : BitVec 6), s.granted g → s.unprefixed →
     let ptr := s.sval (b.zeroExtend 6)
     let u := (s.popped [b.zeroExtend 6]).kvDrain (s.vfOf s.cur.cell)
     let va := s.sval a
     let posts (i : Instr) (body : OpBody) (r : Req) : Prop := answers (exec i s) (fun t =>
       s.started t 64 (fun o => o.body = body ∧ o.buf = .send ∧ o.addr = some va ∧ o.req = some r) ∧ s.issued t 1 ∧ t.mem = s.mem)
     (s.sources [b.zeroExtend 6] → ptr.toNat % 64 = 0 → s.landingFree = true → (s.here.tile d.toNat).st = .empty →
       answers (exec (.lLdk g v d sp b c) s) (fun t =>
         u.started t (8 + 4 * c.toNat) (fun o => o.buf = .landing ∧ o.addr = some ptr ∧ match u.kvTile (s.vfOf s.cur.cell) (dieOf s.cur.cell) ptr v with
           | .ok x => o.body = .timedT d.toNat (some x) sp ∧ o.err = none
           | .error code => o.body = .timedT d.toNat none sp ∧ o.err = some (code, ptr)) ∧
         u.issued t 1 ∧ (t.here.tile d.toNat).st = .loading ∧ t.mem = u.mem)) ∧
     (s.sources [b.zeroExtend 6] → s.landingFree = true → (s.here.tile d.toNat).st = .empty → ptr.toNat % 64 ≠ 0 →
       exec (.lLdk g v d sp b c) s = .next (s.raise Code.align ptr)) ∧
     (s.sources [a] → s.sendFree = true →
       (s.vsources [w] → answers (exec (.lStk g v w a) s) (fun t =>
         s.started t 64 (fun o => o.body = .stk 0 ∧ o.buf = .send ∧ o.addr = some va ∧ o.req = some (.kvStore v va (s.vval w) s.nextId)) ∧
         s.issued t 1 ∧ (∀ k, t.mem.view k = s.mem.view k) ∧ t.mem.home = s.mem.home ∧ ∃ x, t.mem.flight = s.mem.flight ++ [x] ∧
           x.id = s.nextId ∧ x.die = dieOf s.cur.cell ∧ x.bytes = [] ∧ x.deps = s.mem.clock x.die)) ∧
       ((s.popped [a]).room e = true → posts (.lKfork g e a) (.kfork e none) (.kvFork va)) ∧
       posts (.lKfree g a) .store (.kvFree va))) ∧
  (∀ (s : State) (i c : Nat) (o : Op) (a : Dword) (e : SeqE), s.findAny i = some (c, o) → o.id = i →
     (∀ q ∈ s.ops c, q.sc = o.sc → q.kvReq = true → i ≤ q.id) →
     (∀ x ∈ s.kvPending (s.vfOf c), x.2.id < i → o.sameRow x.2 = false) →
     let vf := s.vfOf c
     let answered (x : Instr) (t : State) (f : Op → Op) : Prop := exec x s = .next (t.modOp c i (fun q => f { q with req := none }))
     let fails (x : Instr) (code : Code) : Prop := answered x s (fun q => { q with err := some (code, o.addr.getD 0) })
     (∀ (v : Bool) (row : Vec) (w : Nat), o.req = some (.kvStore v a row w) →
       let beyond := e.nslot < kvSlot a ∨ e.d ≤ 64 * kvCb a
       (∀ code, s.seqLive vf (kvSeq a) = .error code → fails (.kvStoreApply i) code) ∧
       (s.seqLive vf (kvSeq a) = .ok e →
         (beyond → fails (.kvStoreApply i) Code.bounds) ∧
         (¬beyond → kvPos a < e.frz → fails (.kvStoreApply i) Code.prot) ∧
         (¬beyond → e.frz ≤ kvPos a → ∀ n, s.kvFind vf e.root (kvKey (kvSlot a) (kvPos a / 64)) = .ok (some (.demoted n)) →
           fails (.kvStoreApply i) Code.page) ∧
         (¬beyond → e.frz ≤ kvPos a →
           let found := s.kvFind vf e.root (kvKey (kvSlot a) (kvPos a / 64))
           let page := s.kvNewPage vf e (kvSlot a) (kvPos a / 64)
           let stored (x : SeqE) (pa : Nat) (u : State) : Prop := ∀ t, u.seqWrite vf (kvSeq a) { x with len := max x.len (kvPos a + 1) } = .ok t →
             let r := kvRow x v row
             answered (.kvStoreApply i) (t.fillWrite w
               (placed (x.rowAt pa v (kvPos a % 64) (kvCb a)) (rowBytes (if v then x.vfmt else x.kfmt) (x.kpl + 1) r.codes) ++
                 if !v && x.ksc then [(x.scaleAt pa (kvPos a % 64) (kvCb a), r.e)] else []))
               (fun q => { q with body := .stk r.flags })
           (∀ pa, found = .ok (some (.frame pa)) → stored e pa s) ∧
           (found = .ok none → (∀ code, page = .error code → fails (.kvStoreApply i) code) ∧ ∀ x pa u, page = .ok (x, pa, u) → stored x pa u)))) ∧
     (∀ (d : BitVec 6), o.req = some (.kvFork a) → o.body = .kfork d none → a.extractLsb' 52 11 = 0 → a.extractLsb' 24 8 = 0 →
       let par := (a.extractLsb' 0 24).toNat
       let child : SeqE := { e with
         par := par, v := true, dead := false, depth := e.depth + 1, fork := e.len, frz := 0, root := 0, nchild := 0, own := 0,
         br := if a.getLsbD 63 then 2 ^ 31 + (a.extractLsb' 32 20).toNat else 0 }
       let free := s.freeSeq vf ((s.vf vf).cfg.nseq - (s.vf vf).cfg.nroot) (s.vf vf).cfg.nroot
       s.seqLive vf par = .ok e →
       (e.depth = 4 → fails (.kvForkApply i) Code.forkdepth) ∧
       (e.depth ≠ 4 → free = .ok none → exec (.kvForkApply i) s = .next (s.modOp c i (fun q =>
         { q with req := none, body := match q.body with | .kfork d _ => .kfork d (some (BitVec.allOnes 64)) | b => b }))) ∧
       (e.depth ≠ 4 → ∀ id t u, free = .ok (some id) → s.seqWrite vf id child = .ok t →
         t.seqWrite vf par { e with frz := max e.frz e.len, nchild := e.nchild + 1 } = .ok u →
         exec (.kvForkApply i) s = .next (u.modOp c i (fun q =>
           { q with req := none, body := match q.body with | .kfork d _ => .kfork d (some (BitVec.ofNat 64 id)) | b => b })))) ∧
     (o.req = some (.kvFree a) →
       (a.extractLsb' 24 40 ≠ 0 → fails (.kvFreeApply i) Code.handle) ∧
       (a.extractLsb' 24 40 = 0 → s.seqLive vf a.toNat = .ok e → ∀ t, s.seqWrite vf a.toNat { e with dead := true } = .ok t →
         (e.nchild ≠ 0 → answered (.kvFreeApply i) t (fun q => q)) ∧
         (e.nchild = 0 → (∀ code, t.kvRelease vf 6 a.toNat = .error code → fails (.kvFreeApply i) code) ∧
           ∀ u, t.kvRelease vf 6 a.toNat = .ok u → answered (.kvFreeApply i) u (fun q => q)))))

/-- R336 to R338, R355, R411: KV_PAGE_OPERATION serves one request of an f.kvcp, by slot and then page, but none of a cell that a switch has closed: a
copy whose range reaches below the destination's freeze point moves no page and is PROT, a flatten counts the pages that it copies; a demotion
passes over a page that is not resident, a promotion over one that is not demoted; a demotion without room in the tier is QUOTA, a page outside
the sequence BOUNDS; a promoted page whose tag fails is KVINTEG; and the cipher of the second tier under a VF's key undoes itself. Points that the
spec leaves to the model or to inference: log entries 22, 24, 25, 73, 74. -/
def Obligations.KvPagesMoveBetweenTiers : Prop :=
  (∀ (v : Vf) (vf serial : Nat) (l : List Byte), tierCipher v.tierKeys vf serial (tierCipher v.tierKeys vf serial l) = l) ∧
  ∀ (s : State) (c id : Nat) (o : Op) (f : FState) (e : SeqE), s.findOp c id = some o → o.body = .flume f → f.kind = .kvcp → f.code = none →
    ((s.cell c).closed = true → exec (.kvPageOperation c id) s = .next s) ∧
    ((s.cell c).closed = false →
    let vf := s.vfOf c
    let slot := f.kcSlot f.piece
    let page := f.kcPage f.piece
    let becomes (t : State) (g : FState) : Prop := exec (.kvPageOperation c id) s = .next (t.setFlume c id g)
    let done : FState := { f with piece := f.piece + 1, count := f.count + 1 }
    (f.kcCount ≤ f.piece → (f.kcOp ≠ 0 → becomes s (f.finish 0)) ∧ (f.kcOp = 0 → ∀ t, s.kvCopyEnd vf f = .ok t → becomes t (f.finish 0))) ∧
    (f.piece < f.kcCount → f.kcOp = 0 → ∀ d, s.seqLive vf f.kcDst = .ok d →
      (f.piece = 0 → 64 * f.w 4 4 < d.frz → becomes s (f.fail Code.prot)) ∧
      (f.piece ≠ 0 ∨ d.frz ≤ 64 * f.w 4 4 → ∀ t, s.kvCopyPage vf f.kcSeq f.kcDst slot page = .ok t → becomes t done)) ∧
    (f.piece < f.kcCount → f.kcOp = 1 → ∀ n t, s.kvFlatten vf f.kcSeq = .ok (n, t) →
      becomes t { f with piece := f.piece + 1, count := f.count + n }) ∧
    (f.piece < f.kcCount → s.seqLive vf f.kcSeq = .ok e → (f.kcOp = 2 ∨ f.kcOp = 3) →
      (e.lacks slot page = true → becomes s (f.fail Code.bounds)) ∧
      (e.lacks slot page = false →
        (s.kvFind vf e.root (kvKey slot page) = .ok none → becomes s done) ∧
        (∀ pa, s.kvFind vf e.root (kvKey slot page) = .ok (some (.frame pa)) →
          (f.kcOp = 3 → becomes s done) ∧
          (f.kcOp = 2 → (s.vf vf).cfg.tier2 ≤ (s.vf vf).tier.length → becomes s (f.fail Code.quota)) ∧
          (f.kcOp = 2 → ∀ t, s.kvDemote vf f.kcSeq slot page = .ok t → becomes t done)) ∧
        (∀ n, s.kvFind vf e.root (kvKey slot page) = .ok (some (.demoted n)) →
          let x := tget {} (s.vf vf).tier n
          let bad := tierTag (s.vf vf).tierKeys vf x.serial (tierLabel vf f.kcSeq slot page) x.cipher ≠ x.tag
          (f.kcOp = 2 → becomes s done) ∧
          (f.kcOp = 3 → s.allocFrame vf (s.kvDie vf) = none → becomes s (f.fail Code.quota)) ∧
          (f.kcOp = 3 → ∀ b t, s.kvPromote vf f.kcSeq slot page = .ok (b, t) → (b = true ↔ bad) ∧
            (bad → becomes t (f.fail Code.kvinteg)) ∧ (¬bad → becomes t done))))))

/-- R340, R343 to R345: the control words of a stream write f registers, its program counter and its loops, and leave device memory as it was; a word
waits while an operation has yet to write the status of a register that it reads or writes, and f.end until every operation has ended. R307, R346
to R348: f.wait asks its semaphore for the cell's flume engine; f.sig and f.fence wait for every operation before them and cover their writes;
f.bar releases the writes before it, waits for the fill port of its object and updates it; a reserved fence is ILLEGAL, an unmapped semaphore
SEMMAP. R38, R339, R342, R344: a stream starts on a cell whose engine is free, with f1 and f2 set, for the launch that started there first; its
fetch takes one word at a time, keeps a prefix for the next word, and follows the loops that end there. Points that the spec leaves to the model
or to inference: log entry 42. -/
def Obligations.FlumeStreamsRunTheirWords : Prop :=
  (∀ (s : State) (d a b : BitVec 4) (i18 : BitVec 18) (i12 : BitVec 12) (i6 : BitVec 6),
     let x := s.flume s.cur.cell
     let f (r : BitVec 4) : Dword := tget 0 x.regs r.toNat
     let idle (r : BitVec 4) : Prop := s.fpending r = false
     let to' : Dword := s.cur.ent.addr + 4 * immI18 s.cur.ent i18
     let off : Dword := immRI s.cur.ent i6
     let last : Dword := s.cur.ent.addr + 4 * off
     let n := (f a).toNat % 2 ^ 32
     let leaves (i : Instr) (y : Flume) : Prop := answers (exec i s) (fun t => t.flume s.cur.cell = y ∧ t.mem = s.mem ∧
       (t.cell s.cur.cell).strands = (s.cell s.cur.cell).strands ∧ t.ops s.cur.cell = s.ops s.cur.cell)
     (idle d → leaves (.fLi d i12) { x with word := none, regs := tset 0 x.regs d.toNat (immRI12 s.cur.ent i12) }) ∧
     (s.fpending d = true → exec (.fLi d i12) s = .next s) ∧
     leaves (.fJmp i18) { x with word := none, pc := to', loops := x.loops.filter (fun l => l.covers to') } ∧
     (idle a → (off.toInt < 1 ∨ 4 ≤ x.loops.length ∨ (∃ l r, x.loops = l :: r ∧ l.last.ult last = true) →
         exec (.fLoop a i6) s = .next (s.streamFault s.cur.cell Code.illegal s.cur.ent.addr)) ∧
       (1 ≤ off.toInt → x.loops.length < 4 → (∀ l r, x.loops = l :: r → l.last.ult last = false) →
         (n = 0 → leaves (.fLoop a i6) { x with word := none, pc := last + 4 }) ∧
         (n ≠ 0 → leaves (.fLoop a i6) { x with word := none, loops := { start := s.cur.ent.addr + 4, last := last, left := n - 1 } :: x.loops }))) ∧
     (s.cur.ent.pfx = none →
       (idle d → idle a → idle b → leaves (.fAdd d a b) { x with word := none, regs := tset 0 x.regs d.toNat (f a + f b) }) ∧
       (s.streamOps s.cur.cell ≠ [] → exec .fEnd s = .next s) ∧
       (s.streamOps s.cur.cell = [] → ∀ l, x.launch = some l → answers (exec .fEnd s) (fun t =>
         t.flume s.cur.cell = {} ∧ t.mem = s.mem ∧ ∀ k, t.launchAt l = some k → (tget {} k.shares s.cur.cell).stream = .done))) ∧
     (s.cur.ent.pfx.isSome = true → ∀ i ∈ [Instr.fAdd d a b, .fEnd], exec i s = .next (s.streamFault s.cur.cell Code.prefixFault s.cur.ent.addr))) ∧
  (∀ (s : State) (d h o : BitVec 4) (v : BitVec 8) (k : BitVec 2) (sc : BitVec 3), s.cur.ent.pfx = none →
     let c := s.cur.cell
     let vf := s.vfOf c
     let f (r : BitVec 4) : Dword := tget 0 (s.flume c).regs r.toNat
     let n := (f d).toNat % 2 ^ 32
     let quiet' := s.streamOps c = []
     let taken (t : State) : Prop := t.flume c = { s.flume c with word := none } ∧ t.mem = s.mem
     (s.fpending d = false →
       (s.resolve vf v = none → exec (.fWait d v) s = .next (s.streamFault c Code.semmap s.cur.ent.addr)) ∧
       (∀ ps, s.resolve vf v = some ps →
         answers (exec (.fWait d v) s) (fun t => taken t ∧ s.started t 0 (fun p => p.body = .semWait v n false ∧ p.id = s.nextId) ∧
           t.waits = s.waits ++ [{ ps := ps, due := s.semDue c ps, w := { cell := c, unit := 4, op := s.nextId, vf := vf, v := v, n := n } }]) ∧
         (quiet' → answers (exec (.fSig d v) s) (fun t => taken t ∧
           t.sigs = s.sigs ++ [{ ps := ps, n := n, cover := s.cover (dieOf c) 3, cell := c, sc := 4, vf := vf, due := s.semDue c ps }]))) ∧
       (¬quiet' → exec (.fSig d v) s = .next s)) ∧
     (k ≠ 3 → sc.toNat < 5 →
       (¬quiet' → exec (.fFence k sc) s = .next s) ∧
       (quiet' → answers (exec (.fFence k sc) s) (fun t => taken t ∧
         s.started t (if k = 0 then 1 else [2, 8, 40, 120, 400].getD sc.toNat 0)
           (fun p => p.body = .fence (if k = 0 then [] else s.cover (dieOf c) sc.toNat) none)))) ∧
     (k = 3 ∨ 5 ≤ sc.toNat → exec (.fFence k sc) s = .next (s.streamFault c Code.illegal s.cur.ent.addr)) ∧
     (s.fpending d = false → s.fpending h = false → s.fpending o = false →
       (¬quiet' → exec (.fBar d h o) s = .next s) ∧
       (quiet' → s.cellHandle c (f h) = none → exec (.fBar d h o) s = .next (s.streamFault c Code.handle s.cur.ent.addr)) ∧
       (quiet' → ∀ e, s.cellHandle c (f h) = some e →
         let cover := (s.flume c).cover.getD (s.cover (dieOf c) (objectScope c e))
         let ready : Bool := s.performed cover && s.fillOk (s.objectLines c (f h) ((f o).toNat : Int))
         (ready = false → answers (exec (.fBar d h o) s) (fun t => t.flume c = { s.flume c with cover := some cover } ∧ t.mem = s.mem)) ∧
         (ready = true → ∀ t, s.barrierAt c (f h) ((f o).toNat : Int) (if f d = 0 then 1 else 0) (f d).toInt = .ok t →
           exec (.fBar d h o) s = .next (t.modFlume c (fun x => { x with cover := none, word := none }))) ∧
         (ready = true → ∀ code, s.barrierAt c (f h) ((f o).toNat : Int) (if f d = 0 then 1 else 0) (f d).toInt = .error code →
           exec (.fBar d h o) s = .next (s.streamFault c code s.cur.ent.addr))))) ∧
  (∀ (s : State) (c id : Nat) (l : Launch) (h : Share), (s.cell c).runs = true →
     ((s.flume c).launch = none → tfind id s.launches = some l → tfind c l.shares = some h → (s.cell c).vf = some l.vf → h.started = true →
       h.stream = .pending → (∀ e ∈ s.launches, e.1 ≠ id → ∀ x, tfind c e.2.shares = some x → x.stream ≠ .pending) →
       (s.launches.filter (fun e => e.1 == id)).length = 1 →
       answers (exec (.flumeStreamStart c) s) (fun t =>
         (t.flume c).launch = some id ∧ (t.flume c).pc = l.fentry ∧ (t.flume c).word = none ∧ (t.flume c).loops = [] ∧
         tget 0 (t.flume c).regs 1 = l.args ∧ tget 0 (t.flume c).regs 2 = BitVec.ofNat 64 h.total ∧
         (∀ r, r ≠ 1 → r ≠ 2 → tget 0 (t.flume c).regs r = 0) ∧ t.mem = s.mem)) ∧
     ((s.flume c).launch.isSome = true → (s.flume c).stopped = false → (s.flume c).word = none →
       let x := s.flume c
       let fetches (P : Flume → Prop) : Prop := answers (exec (.flumeFetch c) s) (fun t => P (t.flume c) ∧ t.mem = s.mem)
       (∀ w, s.fetchWord c x.pc = .ok w →
         (w.extractLsb' 29 3 ≠ 7 → fetches (fun y => y.word = some { word := w, pfx := x.pfx, addr := x.pc } ∧ y.pfx = none ∧ y.regs = x.regs)) ∧
         (w.extractLsb' 29 3 = 7 → x.pfx = none → fetches (fun y => y.word = none ∧ y.pfx = some (w.extractLsb' 0 29) ∧ y.regs = x.regs)) ∧
         (w.extractLsb' 29 3 = 7 → x.pfx.isSome = true → fetches (fun y => ∃ e, y.word = some e ∧ e.marker = some Code.prefixFault)) ∧
         ((∀ k ∈ x.loops, k.last ≠ x.pc) → fetches (fun y => y.pc = x.pc + 4 ∧ y.loops = x.loops)) ∧
         (∀ k r, x.loops = k :: r → k.last = x.pc → k.left ≠ 0 → fetches (fun y =>
           y.pc = k.start ∧ y.loops = { k with left := k.left - 1 } :: r))) ∧
       (∀ code, s.fetchWord c x.pc = .error code →
         fetches (fun y => y.pc = x.pc ∧ ∃ e, y.word = some e ∧ e.marker = some code))))

/-- R340, R349, R352 to R357, R362, R363: a data word starts its operation with the 64-byte descriptor that it reads, unless sixteen are in flight,
or, of an f.svm, four of the VF at the stack that holds W (R27, R383); a misaligned or unreadable descriptor ends it with its code, and a
descriptor outside its rules ends it with ILLEGAL or ALIGN; mode 3 of f.coll is ILLEGAL. R185, R307, R340, R341, R350 to R354, R357: a piece of an
f.copy, f.xlist, f.gath or f.scat waits for the fill ports of its lines, moves its bytes and is counted; one that fails leaves each of its bytes
old or new, which is a free value, and ends the operation with its code; a stack serves the next f.svm queued for it; an ended operation writes
count, auxiliary field and code into its f register and leaves. Points that the spec leaves to the model or to inference: log entries 13, 19, 20. -/
def Obligations.FlumeOperationsStartMoveAndEnd : Prop :=
  (∀ (s : State) (d a : BitVec 4) (m : BitVec 2), s.cur.ent.pfx = none → s.fpending d = false → s.fpending a = false →
     (s.cell s.cur.cell).vf.isSome = true →
     let c := s.cur.cell
     let va := tget 0 (s.flume c).regs a.toNat
     let check (k : FKind) (f : FState) : Option Code :=
       match k with | .copy => f.checkCopy | .xlist => f.checkXlist | .kvcp => f.checkKv | _ => f.checkGs
     let words : List (Instr × FKind) := [(.fCopy d a, .copy), (.fXlist d a, .xlist), (.fGath d a, .gath), (.fScat d a, .scat), (.fKvcp d a, .kvcp),
       (.fSvm d a, .svm), (.fRing d a, .ring)] ++ (if m = 3 then [] else [(.fColl d a m, .coll)])
     (∀ w ∈ words, 16 ≤ s.fops c ∨ w.2 = .svm ∧ s.svmFull c va = true → exec w.1 s = .next s) ∧
     (s.fops c < 16 → ∀ w ∈ words, (w.2 = .svm → s.svmFull c va = false) →
       let begins (P : FState → Prop) : Prop := answers (exec w.1 s) (fun t => (t.flume c).word = none ∧ t.mem = s.mem ∧
         (t.ops c).length = (s.ops c).length + 1 ∧ ∃ o f, (t.ops c).getLast? = some o ∧ o.sc = s.cur.sc ∧ o.due = s.now + 1 ∧
           o.body = .flume f ∧ f.kind = w.2 ∧ f.d = d ∧ f.piece = 0 ∧ f.count = 0 ∧ P f)
       (va.toNat % 64 ≠ 0 → begins (fun f => f.code = some (Code.align.zeroExtend 8))) ∧
       (va.toNat % 64 = 0 → ∀ code x, s.readVa (some c) (s.vfOf c) (dieOf c) va.toNat 64 = .error (code, x) →
         begins (fun f => f.code = some (code.zeroExtend 8))) ∧
       (va.toNat % 64 = 0 → ∀ l, s.readVa (some c) (s.vfOf c) (dieOf c) va.toNat 64 = .ok l → begins (fun f => f.desc = l ∧
         (w.2 ≠ .svm → w.2 ≠ .ring → w.2 ≠ .coll → f.code = (check w.2 f).map (fun (e : Code) => e.zeroExtend 8)))))  ∧
     exec (.fColl d a 3) s = .next (s.streamFault c Code.illegal s.cur.ent.addr)) ∧
  (∀ (s : State) (c id : Nat) (o : Op) (f : FState), s.findOp c id = some o → o.id = id → o.body = .flume f →
     let becomes (i : Instr) (t : State) (g : FState) : Prop := exec i s = .next (t.setFlume c id g)
     let counted (g : FState) (n : Nat) (w : List Nat) : FState := if f.accounts then { g with due := some (n, w) } else { g with count := g.count + n }
     (f.code = none → (s.cell c).closed = false →
       let src := f.endpoint 0 (f.w 24 1 % 4)
       let dst := f.endpoint 8 (f.w 24 1 / 4 % 4)
       let moves (lines : List (HUse × List Part)) (n : Nat) (g : FState) (r : Except Code (List Nat × State)) (bad : State) : Prop :=
         (s.fillOk lines = false → exec (.flumePiece c id) s = .next s) ∧
         (s.fillOk lines = true →
           (∀ code, r = .error code → becomes (.flumePiece c id) bad (f.fail code)) ∧
           ∀ w t, r = .ok (w, t) → becomes (.flumePiece c id) (t.fillPass lines) (counted g n w))
       let old (x : End) (o : Int) (n : Nat) : List (Except Code Byte) := (upto n).map (fun (k : Nat) =>
         (s.endRead c x (o + k) 1).map (fun l => l.headD 0))
       let moved (x : End) (o : Int) (y : End) (q : Int) (n : Nat) (g : FState) : Prop :=
         moves (s.endLines c x o n ++ s.endLines c y q n) n g (s.moveBytes c x o y q n) (s.failedPiece c (old x o n) y q)
       (f.due = none → f.kind = .copy → f.transposes = false → 0 < f.w 28 4 →
         let cuts := ceilDiv (f.w 28 4) 2048
         let row := f.piece / cuts
         let b0 := 2048 * (f.piece % cuts)
         let from' : Int := (f.w 16 4 : Int) + (row % f.n1 : Nat) * signed32 (f.w 40 4) + (row / f.n1 : Nat) * signed32 (f.w 44 4) + b0
         let to' : Int := (f.w 20 4 : Int) + (row % f.n1 : Nat) * signed32 (f.w 48 4) + (row / f.n1 : Nat) * signed32 (f.w 52 4) + b0
         (f.n2 ≤ row / f.n1 → becomes (.flumePiece c id) s (f.finish 0)) ∧
         (row / f.n1 < f.n2 → moved src from' dst to' (min 2048 (f.w 28 4 - b0)) { f with piece := f.piece + 1 })) ∧
       (f.due = none → f.kind = .copy → f.transposes = true → 0 < f.n1 →
         let e := f.elem
         let cuts := ceilDiv (f.n1 * e) 2048
         let i := f.piece / cuts
         let b0 := 2048 * (f.piece % cuts)
         let n := min 2048 (f.n1 * e - b0)
         let from' (j : Nat) : Int := (f.w 16 4 : Int) + j * signed32 (f.w 40 4) + (i * e : Nat)
         let to' : Int := (f.w 20 4 : Int) + i * signed32 (f.w 48 4) + b0
         let js := span (b0 / e) (n / e)
         (f.w 28 4 / e ≤ i → becomes (.flumePiece c id) s (f.finish 0)) ∧
         (i < f.w 28 4 / e → moves (js.flatMap (fun (j : Nat) => s.endLines c src (from' j) e) ++ s.endLines c dst to' n) n
           { f with piece := f.piece + 1 }
           (js.mapM (fun (j : Nat) => s.endRead c src (from' j) e) >>= fun rows => s.endWrite c dst to' rows.flatten)
           (s.failedPiece c (js.flatMap (fun (j : Nat) => old src (from' j) e)) dst to'))) ∧
       (f.due = none → f.kind = .gath ∨ f.kind = .scat →
         let tab := f.endpoint 0 (f.w 48 1 % 4)
         let vec := f.endpoint 8 (f.w 48 1 / 4 % 4)
         (f.w 32 4 ≤ f.piece → becomes (.flumePiece c id) s (f.finish 0)) ∧
         (f.piece < f.w 32 4 → ∀ l, s.readVa (some c) (s.vfOf c) (dieOf c) ((f.w 16 8 + 4 * f.piece) % 2 ^ 64) 4 = .ok l →
           let at' : Int := ((f.w 24 4 + ofBytes l * f.w 40 4 : Nat) : Int)
           let row : Int := ((f.w 28 4 + f.piece * f.w 36 4 : Nat) : Int)
           (f.w 44 4 ≤ ofBytes l → becomes (.flumePiece c id) s (f.fail Code.bounds)) ∧
           (ofBytes l < f.w 44 4 → (f.kind = .gath → moved tab at' vec row (f.w 36 4) { f with piece := f.piece + 1 }) ∧
             (f.kind = .scat → moved vec row tab at' (f.w 36 4) { f with piece := f.piece + 1 })))) ∧
       (f.due = none → f.kind = .xlist →
         (f.w 8 4 ≤ f.piece → becomes (.flumePiece c id) s (f.finish 0)) ∧
         (f.piece < f.w 8 4 → ∀ l, (f.sub = 0 → s.readVa (some c) (s.vfOf c) (dieOf c) ((f.w 0 8 + 32 * f.piece) % 2 ^ 64) 32 = .ok l) →
           (f.sub ≠ 0 → l = f.seg) →
           let w (o n : Nat) : Nat := recField l o n
           let illegal : Prop := w 24 4 = 0 ∨ w 28 1 / 16 ≠ 0 ∨ 1 < w 28 1 % 4 ∨ 1 < w 28 1 / 4 ∨ w 29 3 ≠ 0 ∨
             (w 28 1 % 4 = 0 ∧ w 16 4 ≠ 0) ∨ (w 28 1 / 4 = 0 ∧ w 20 4 ≠ 0)
           let x : End := { space := w 28 1 % 4, base := BitVec.ofNat 64 (w 0 8), held := f.held }
           let y : End := { space := w 28 1 / 4, base := BitVec.ofNat 64 (w 8 8), held := f.held }
           let b0 := 2048 * f.sub
           let n := min 2048 (w 24 4 - b0)
           (illegal → becomes (.flumePiece c id) s (f.fail Code.illegal)) ∧
           (¬illegal → moved x ((w 16 4 + b0 : Nat) : Int) y ((w 20 4 + b0 : Nat) : Int) n
             (if w 24 4 ≤ b0 + n then { f with piece := f.piece + 1, sub := 0, seg := [], held := [] }
              else { f with sub := f.sub + 1, seg := l, held := if f.sub = 0 then s.endUse c x ++ s.endUse c y else f.held })))) ∧
       (∀ n w, f.due = some (n, w) →
         let ready : Bool := s.performed w && s.fillOk (s.objectLines c f.barrier.1 f.barrier.2)
         (ready = false → exec (.flumePiece c id) s = .next s) ∧
         (ready = true → ∀ t, s.barrierAt c f.barrier.1 f.barrier.2 0 (-(n : Int)) = .ok t →
           becomes (.flumePiece c id) t { f with due := none, count := f.count + n }))) ∧
     (∀ stack, f.kind = .svm → s.svmNext stack = some (c, id) →
       let u : State := { s with svmq := tset [] s.svmq stack ((tget [] s.svmq stack).filter (fun x => x != (c, id))),
                                 svmLast := tput stack (s.vfOf c) s.svmLast }
       (u.svmServe c f = .waits → exec (.svmRun stack) s = .next s) ∧
       (∀ code t, u.svmServe c f = .fail code t → becomes (.svmRun stack) t (f.fail code)) ∧
       (∀ n w t g, u.svmServe c f = .moved n w t g → becomes (.svmRun stack) t ({ g with count := n }.finish 0))) ∧
     (∀ code, f.code = some code → answers (exec (.flumeOperationEnd c id) s) (fun t => t.findOp c id = none ∧ t.mem = s.mem ∧
       ((s.flume c).stopped = false → (∀ r, r ≠ f.d.toNat → tget 0 (t.flume c).regs r = tget 0 (s.flume c).regs r) ∧
         (let w := tget 0 (t.flume c).regs f.d.toNat
          w.extractLsb' 0 8 = code ∧ (w.extractLsb' 8 8).toNat = f.aux % 256 ∧ (w.extractLsb' 16 48).toNat = f.count % 2 ^ 48)))))

/-! ### The torus -/

/-- R185, R307, R358 to R364, R385, R411: a packet in transit leaves on its link, or is answered with FABRIC when that link is out of service; one for
this package is refused with a NAK by a bulkhead in reset or a VF that is not there, with WINDOW without a peer-table entry for its source, and
else waits for its target, or, of a collective, is acknowledged and kept for its rank unless that holds it or has taken its data; there a ring
piece waits for those before it of its source, for its VF to be resident, and for the fill ports of its landing and barrier object, and its bytes
enter the landing, its barrier object after them. R350, R358, R361, R362: an f.ring sends its landing's bytes piece by piece, each after the
answer to the one before it: a piece for this package goes to its target, another leaves on its link, and one whose link is out of service is
FABRIC; an answer with an error ends the operation with its code. A hop to the far side of a ring goes the shorter way round. Points that the spec
leaves to the model or to inference: log entries 13, 26, 30, 42. -/
def Obligations.TorusPacketsReachTheirTarget : Prop :=
  (∀ (s : State) (p : Packet), s.pod.isSome = true →
     let answered (i : Instr) (t : State) (code : Option (BitVec 8)) : Prop := exec i s = .next (t.answer p code)
     (s.isOwn p.dst = false →
       (s.linkUp p = true → answers (exec (.torusPacketArrival p) s) (fun t => t.out = s.out ++ [.packet p] ∧ t.mem = s.mem ∧ t.cells = s.cells)) ∧
       (s.linkUp p = false → (∀ x, p.body ≠ .answer x) → answered (.torusPacketArrival p) s (some (Code.fabric.zeroExtend 8))) ∧
       (s.linkUp p = false → (∃ x, p.body = .answer x) → exec (.torusPacketArrival p) s = .next s)) ∧
     (∀ x, p.body = .answer x → s.isOwn p.dst = true → exec (.torusPacketArrival p) s = .next { s with torus := s.torus ++ [p] }) ∧
     (∀ land off l acc, p.body = .ring land off l acc →
       (s.isOwn p.dst = true →
         (s.answersNak p.dst = true → answered (.torusPacketArrival p) s (some (Code.fabric.zeroExtend 8))) ∧
         (s.answersNak p.dst = false → s.hasPeer p.dst.vf.toNat (placeBits p.src) = false →
           answered (.torusPacketArrival p) s (some (Code.window.zeroExtend 8))) ∧
         (s.answersNak p.dst = false → s.hasPeer p.dst.vf.toNat (placeBits p.src) = true →
           exec (.torusPacketArrival p) s = .next { s with rings := s.rings ++ [p] })) ∧
       (∀ i, s.rings[i]? = some p →
         let c := p.dst.cell.toNat
         let u : State := { s with rings := removeAt s.rings i }
         let h : Dword := land.zeroExtend 64
         let dst : End := { space := 1, base := h }
         let lines := s.endLines c dst (off : Int) l.length ++
           (match acc with | some (k, o) => s.objectLines c (k.zeroExtend 64) (o : Int) | none => [])
         ((∃ q ∈ s.rings.take i, q.src = p.src ∧ q.dst = p.dst) → exec (.ringPieceAtTarget i) s = .next s) ∧
         ((∀ q ∈ s.rings.take i, ¬(q.src = p.src ∧ q.dst = p.dst)) →
           (s.answersNak p.dst = true → answered (.ringPieceAtTarget i) u (some (Code.fabric.zeroExtend 8))) ∧
           (s.answersNak p.dst = false → (s.cell c).vf = some p.dst.vf.toNat →
             (hdLvl h ≠ 1 → answered (.ringPieceAtTarget i) u (some (Code.handle.zeroExtend 8))) ∧
             (hdLvl h = 1 → s.fillOk lines = false → exec (.ringPieceAtTarget i) s = .next s) ∧
             (hdLvl h = 1 → s.fillOk lines = true →
               (∀ code, u.endWrite c dst (off : Int) l = .error code →
                 answered (.ringPieceAtTarget i) (u.failedPiece c (l.map .ok) dst (off : Int)) (some (code.zeroExtend 8))) ∧
               (∀ w v, u.endWrite c dst (off : Int) l = .ok (w, v) →
                 let t := v.fillPass (u.endLines c dst (off : Int) l.length)
                 (acc = none → answered (.ringPieceAtTarget i) t none) ∧
                 (∀ k o, acc = some (k, o) →
                   let update := t.barrierAt c (k.zeroExtend 64) (o : Int) 0 (-(l.length : Int))
                   (t.scratchHandle c (k.zeroExtend 64) = none → answered (.ringPieceAtTarget i) t (some (Code.handle.zeroExtend 8))) ∧
                   ((t.scratchHandle c (k.zeroExtend 64)).isSome = true →
                     (∀ code, update = .error code → answered (.ringPieceAtTarget i) t (some (code.zeroExtend 8))) ∧
                     ∀ x, update = .ok x → answered (.ringPieceAtTarget i) x none))))) ∧
           (s.answersNak p.dst = false → (s.cell c).vf ≠ some p.dst.vf.toNat →
             let mine : Prop := (s.vf p.dst.vf.toNat).cfg.shape ≠ 0 ∧ c ∈ shapeCells (s.vf p.dst.vf.toNat).cfg.shape
             (mine → exec (.ringPieceAtTarget i) s = .next s) ∧
             (¬mine → answered (.ringPieceAtTarget i) u (some (Code.handle.zeroExtend 8))))))) ∧
     (∀ hdr tag k src n l, p.body = .coll hdr tag k src n l → s.isOwn p.dst = true →
       (s.answersNak p.dst = true → answered (.torusPacketArrival p) s (some 0x40)) ∧
       (s.answersNak p.dst = false → s.hasPeer p.dst.vf.toNat (placeBits p.src) = false →
         answered (.torusPacketArrival p) s (some (Code.window.zeroExtend 8))) ∧
       (s.answersNak p.dst = false → s.hasPeer p.dst.vf.toNat (placeBits p.src) = true →
         let held : Prop :=
           (∃ q ∈ s.collPackets p.dst tag, q.hdr = hdr ∧ q.src = p.src ∧ q.step = k ∧ q.rank = src ∧ q.piece = n) ∨
           ∃ o ∈ (s.cellFor p.dst.vf.toNat p.dst.cell.toNat).ops,
             o.tookPacket tag { src := p.src, hdr := hdr, step := k, rank := src, piece := n, data := l } = true
         (held → answered (.torusPacketArrival p) s none) ∧
         (¬held → answered (.torusPacketArrival p) { s with torus := s.torus ++ [p] } none)))) ∧
  ((∀ a b n : Nat, a < n → b < n → (goesDown a b n = true ↔ (a + n - b) % n < (b + n - a) % n)) ∧
   ∀ (s : State) (c id : Nat) (op : Op) (f : FState), s.findOp c id = some op → op.body = .flume f → f.kind = .ring → f.code = none → f.due = none →
     (s.cell c).closed = false →
     let off := 2048 * f.piece
     let n := min 2048 (f.w 24 4 - off)
     let lines := s.endLines c f.rgSrc ((f.w 4 4 + off : Nat) : Int) n
     let read := s.endRead c f.rgSrc ((f.w 4 4 + off : Nat) : Int) n
     let becomes (t : State) (g : FState) : Prop := exec (.flumePiece c id) s = .next (t.setFlume c id g)
     let counted : FState := { f with acked := f.acked + 1, piece := f.piece + 1, count := f.count + n }
     (f.acked < f.sent →
       (s.answerFor id = none → exec (.flumePiece c id) s = .next s) ∧
       (s.answerFor id = some none → becomes (s.dropAnswers id) (if f.w 24 4 ≤ off + n then counted.finish 0 else counted)) ∧
       (∀ code, s.answerFor id = some (some code) → becomes (s.dropAnswers id) (f.finish code))) ∧
     (f.sent ≤ f.acked →
       (s.fillOk lines = false → exec (.flumePiece c id) s = .next s) ∧
       (s.fillOk lines = true →
         (∀ code, read = .error code → becomes s (f.fail code)) ∧
         (∀ l o, read = .ok l → s.ownPlace (s.vfOf c) c = some o →
           let p : Packet :=
             { src := o, dst := placeOfTarget (BitVec.ofNat 64 (f.w 8 8)), id := id,
               body := .ring (BitVec.ofNat 32 (f.w 16 4)) (f.w 20 4 + off) l (if f.w 28 1 = 1 then some (BitVec.ofNat 32 (f.w 32 4), f.w 36 4) else none) }
           let sent := (s.setFlume c id { f with sent := f.sent + 1 }).fillPass lines
           (s.isOwn p.dst = true → exec (.flumePiece c id) s = .next { sent with rings := sent.rings ++ [p] }) ∧
           (s.isOwn p.dst = false → sent.linkUp p = true → exec (.flumePiece c id) s = .next { sent with out := sent.out ++ [.packet p] }) ∧
           (s.isOwn p.dst = false → sent.linkUp p = false → exec (.flumePiece c id) s = .next (sent.setFlume c id (f.fail Code.fabric)))))))

/-- R8, R70, R86 to R89, R350, R358, R360, R363, R364, R411: in every step of a collective a rank sends to another exactly when that one awaits its
data, and the exact sum does not depend on the order of its terms; step 0 reads the input, and in each later one a rank sends its data once, in
packets, waits until those that left the package have been answered and the data of its step are whole, and then combines them, with OVF where a
sum overflows, while cl.out stays as it was until the rank has its result; a NAK ends it with its code, and a packet that disagrees with its
descriptor or its schedule ends it with ILLEGAL; the collective of a cell that a switch has closed stands still. R358, R366, R367, R380: a gone
notice ends every collective whose group names its peer with PEERGONE, an abort notice the one of its tag at its place; a link that leaves service
is reported to VF0, and an f.ring or a collective, of a resident VF or of one switched out, that awaits an answer over it ends with FABRIC; the
reset or loss of a package sends gone notices for each of its VFs. Points that the spec leaves to the model or to inference: log entries 27, 28,
29, 72, 80. -/
def Obligations.CollectivesFollowTheirSchedule : Prop :=
  ((∀ (f : FState) (mode r q k : Nat), r < f.clP → q < f.clP → f.clRoot < f.clP → k ≤ f.clLast mode →
     (q ∈ (f.turn mode r k).dst ↔ r ∈ (f.turn mode q k).src)) ∧
   (∀ a b c : Nat, a < 2 ^ 320 → b < 2 ^ 320 → c < 2 ^ 320 →
     addExact a b = addExact b a ∧ addExact (addExact a b) c = addExact a (addExact b c)) ∧
   (∀ (s : State) (c id : Nat) (f : FState) (was co : Coll), f.clOp = 3 ∨ co.mode = 0 → co.step < f.clLast co.mode →
     let r := s.collWork c { f with coll := some co } co
     r.err = none → s.collAdvance c id f was co = r.s.setFlume c id
       { f with sub := 0, aux := min 255 (f.aux + 1), coll := some { co with step := co.step + 1 } }) ∧
   ∀ (s : State) (c id vf : Nat) (op : Op) (f : FState) (co : Coll) (o : Place), s.findOp c id = some op → op.body = .flume f → f.code = none →
     f.coll = some co → (s.cell c).vf = some vf → s.ownPlace vf c = some o →
     ((s.cell c).closed = true → exec (.collectiveStep c id) s = .next s) ∧
     ((s.cell c).closed = false →
     let ends (code : BitVec 8) : Prop := answers (exec (.collectiveStep c id) s) (fun t =>
       (∃ x g, t.findOp c id = some x ∧ x.body = .flume g ∧ g.code = some code) ∧ t.collPackets o f.clTag = [] ∧ t.mem = s.mem)
     let turn := f.turn co.mode co.rank co.step
     let strange (q : CollPkt) : Prop := q.hdr ≠ f.clHdr co.mode ∨ f.clLast co.mode < q.step ∨
       q.rank ∉ (f.turn co.mode co.rank q.step).src ∨ placeOfTarget (co.group.getD q.rank 0) ≠ q.src
     let data := if f.clOp = 3 then co.x else if f.clOp = 2 ∨ f.clTop co.mode < co.step then co.res.getD [] else co.x
     let sending : Except (BitVec 8) State := if f.sub = 0 then turn.dst.foldlM (fun s q => s.sendColl c id f co data q) s else .ok s
     (∀ code, s.refusalFor id = some code → ends code) ∧
     (s.refusalFor id = none →
       ((∃ q ∈ s.collPackets o f.clTag, strange q) → ends (Code.illegal.zeroExtend 8)) ∧
       ((∀ q ∈ s.collPackets o f.clTag, ¬strange q) →
         (co.step = 0 →
           (∀ code, s.collInput c f = .error code → exec (.collectiveStep c id) s = .next (s.failColl vf c id f (code.zeroExtend 8))) ∧
           ∀ l, s.collInput c f = .ok l →
             let begins (new : Coll) : Prop := exec (.collectiveStep c id) s = .next (s.collAdvance c id f co new)
             (f.clOp = 3 → begins { co with x := l, got := [(co.rank, l)] }) ∧
             (f.clOp = 2 → begins { co with res := if co.rank = f.clRoot then some l else none }) ∧
             (f.clOp ≤ 1 → begins (f.settleTop { co with
               x := (f.widenAll co.mode l).map (fun v => v.1), flags := co.flags ||| orFlags ((f.widenAll co.mode l).map (fun v => v.2)) }))) ∧
         (co.step ≠ 0 →
           (∀ code, sending = .error code → exec (.collectiveStep c id) s = .next (s.failColl vf c id f code)) ∧
           ∀ u, sending = .ok u →
             let g : FState := { f with
               sub := 1, sent := f.sent + (if f.sub = 0 then u.packetsOut f co data turn.dst else 0), acked := f.acked + u.answersFor id }
             let v := (u.dropAnswers id).setFlume c id g
             let from' (r : Nat) : List CollPkt := (v.collPackets o f.clTag).filter (fun q => q.step == co.step && q.rank == r)
             (g.acked < g.sent ∨ (∃ r ∈ turn.src, ((from' r).flatMap (fun q => q.data)).length ≠ f.clLen) → exec (.collectiveStep c id) s = .next v) ∧
             (g.sent ≤ g.acked → f.clOp ≤ 1 → co.mode ≠ 0 → co.step ≤ f.clTop co.mode → ∀ r d, turn.src = [r] →
               f.arrived (v.collPackets o f.clTag) co.step r = some (r, d) →
               exec (.collectiveStep c id) s = .next ((v.dropColl o f.clTag (fun k => k == co.step)).collAdvance c id g co
                 (f.settleTop { co with x := (f.combAll co.mode co.x d).1, flags := co.flags ||| (f.combAll co.mode co.x d).2 })))))))) ∧
  (∀ (s : State),
     let ended (t : State) (c id : Nat) (code : BitVec 8) : Prop := ∃ q g, t.findOp c id = some q ∧ q.body = .flume g ∧ g.code = some code
     (∀ b, answers (exec (.goneNotice b) s) (fun t => t.gones = s.gones.erase b ∧ t.mem = s.mem ∧
       (∀ e ∈ s.colls, (s.cell e.2.1).vf = some e.1 → (s.findOp e.2.1 e.2.2.1).isSome = true → e.2.2.2.names b = true → ended t e.2.1 e.2.2.1 0x40) ∧
       ((∀ e ∈ s.colls, e.2.2.2.names b = false) → t = { s with gones := s.gones.erase b }))) ∧
     (∀ p tag,
       (s.isOwn p = false → exec (.abortNotice p tag) s = .next { s with out := s.out ++ [.abort p tag] }) ∧
       (s.isOwn p = true → answers (exec (.abortNotice p tag) s) (fun t => t.mem = s.mem ∧
         (∀ e ∈ s.colls, (s.cell e.2.1).vf = some e.1 → (s.findOp e.2.1 e.2.2.1).isSome = true → e.1 = p.vf.toNat → e.2.1 = p.cell.toNat → e.2.2.2.clTag = tag →
           ended t e.2.1 e.2.2.1 0x40)))) ∧
     (∀ link, 12 ≤ link → exec (.linkdown link) s = .next s) ∧
     (∀ link, link < 12 → answers (exec (.linkdown link) s) (fun t => tget false t.linksDown link = true ∧
       (∀ k, k ≠ link → tget false t.linksDown k = tget false s.linksDown k) ∧
       (let tail := s.mgmtWord 0x908
        (tail + 2 ^ 64 - s.mgmtWord 0x900) % 2 ^ 64 < 4096 → t.mgmtWord 0x908 = (tail + 1) % 2 ^ 64 ∧
          bytesAt (t.mem.view 0) (0x1000 + 32 * (tail % 4096)) 32 = eventBytes 7 255 255 s.wall [BitVec.ofNat 8 link]) ∧
       (let overLink (vf c : Nat) (o : Op) (f : FState) : Prop := o.body = .flume f ∧ f.code = none ∧ f.acked < f.sent ∧
          ∃ a, s.ownPlace vf c = some a ∧ ∃ z ∈ f.awaited,
            s.firstLink { src := a, dst := placeOfTarget z, id := o.id, body := .answer none } = some link
        (∀ c vf o f, (s.cell c).vf = some vf → o ∈ (s.cell c).ops → overLink vf c o f → ended t c o.id (Code.fabric.zeroExtend 8)) ∧
        (∀ c vf o f x w, (s.cell c).vf ≠ some vf → (s.vf vf).saved = some w → (c, x) ∈ w.cells → o ∈ x.ops → overLink vf c o f →
          ∃ y z, (t.vf vf).saved = some y ∧ (c, z) ∈ y.cells ∧ ∃ q ∈ z.ops, q.id = o.id ∧ ∃ g, q.body = .flume g ∧
            g.code = some (Code.fabric.zeroExtend 8))))) ∧
     (∀ place o, s.ownPlace 0 0 = some o → answers (exec (.packageResetOrLoss place) s) (fun t =>
       t.gones = s.gones ++ (upto 128).map (fun v => BitVec.ofNat 7 v ++ place) ∧ t.mem = s.mem ∧
       ∀ v < 128, ∀ b ∈ s.packages, b ≠ place → b ≠ packageBits o → Out.gone b (BitVec.ofNat 7 v ++ place) ∈ t.out)))

/-! ### Launches and items -/

/-- R33, R35 to R37: the launch unit polls each queue, stops one whose tail is more than its size ahead (LQOVERRUN) and copies as many new records as
there are in ring order, the head word after each, until an access fails, which stops the queue (LQFAULT); the next record of a queue without a
launch in progress starts when its header is valid, and is refused when it is not. R139 to R141: b.launch sends its header's address to the launch
unit, which takes it once the strand's writes are performed, starts it, lists it behind 64 others or refuses it, and acknowledges it 64 cycles
after issue or after a freeze; b.cancel_l sends the cancellation of a group; a misaligned header raises ALIGN, a level above 6 ILLEGAL, an
unmapped semaphore SEMMAP. Points that the spec leaves to the model or to inference: log entries 15, 16. -/
def Obligations.LaunchesArePolledStartedAndCancelled : Prop :=
  ((∀ (s : State), (s.wall < s.nextPoll → exec .launchQueuePoll s = .next s) ∧
     (s.nextPoll ≤ s.wall → exec .launchQueuePoll s = .next (s.liveVfs.foldl (fun t vf => (upto (t.vf vf).lqs.length).foldl (fun u q => u.pollQueue vf q) t)
       { s with nextPoll := s.wall / 1000 * 1000 + 1000 }))) ∧
   (∀ (s : State) (vf q : Nat) (l raw : List Byte) (n : Nat) (u : State),
     let x := s.lq vf q
     (x.stopped = true ∨ x.held = true ∨ x.replay = true → s.pollQueue vf q = s) ∧
     (x.stopped = false → x.held = false → x.replay = false → s.readVa none vf 0 x.tail.toNat 8 = .ok l →
       let ahead := (ofBytes l + 2 ^ 64 - x.count) % 2 ^ 64
       (2 ^ x.lsize < ahead → s.pollQueue vf q = (s.modLq vf q (fun y => { y with stopped := true })).event 2 vf 0xFF [BitVec.ofNat 8 q]) ∧
       (ahead = 0 → s.pollQueue vf q = s) ∧
       (ahead ≤ 2 ^ x.lsize → s.pollQueue vf q = s.copyRecords vf q ahead) ∧
       (ahead ≤ 2 ^ x.lsize → q < (s.vf vf).lqs.length →
         let t := s.pollQueue vf q
         let y := t.lq vf q
         y.stopped = false → y.waiting.length = x.waiting.length + ahead ∧ y.waiting.take x.waiting.length = x.waiting ∧
           (ahead ≠ 0 → y.count = (x.count + ahead) % 2 ^ 64) ∧
           ∀ i, i < ahead → (y.waiting[x.waiting.length + i]?).map (fun e => e.2) = some ((x.count + i + 1) % 2 ^ 64))) ∧
     (s.copyRecords vf q 0 = s) ∧
     (∀ k, (∀ code a, s.readVa none vf 0 (x.ring.toNat + 64 * (x.count % 2 ^ x.lsize)) 64 = .error (code, a) →
         s.copyRecords vf q (k + 1) = (s.modLq vf q (fun y => { y with stopped := true })).event 9 vf 0xFF [BitVec.ofNat 8 q, code.zeroExtend 8]) ∧
       (s.readVa none vf 0 (x.ring.toNat + 64 * (x.count % 2 ^ x.lsize)) 64 = .ok raw →
         (∀ code a, s.writeVa none vf 0 x.head.toNat (leBytes ((x.count + 1) % 2 ^ 64) 8) = .error (code, a) →
           s.copyRecords vf q (k + 1) = (s.modLq vf q (fun y => { y with stopped := true })).event 9 vf 0xFF [BitVec.ofNat 8 q, code.zeroExtend 8]) ∧
         (s.writeVa none vf 0 x.head.toNat (leBytes ((x.count + 1) % 2 ^ 64) 8) = .ok (n, u) →
           s.copyRecords vf q (k + 1) = (u.modLq vf q (fun y =>
             { y with count := (x.count + 1) % 2 ^ 64, waiting := y.waiting ++ [(raw, (x.count + 1) % 2 ^ 64)] })).copyRecords vf q k)))) ∧
   (∀ (s : State) (vf q : Nat) (raw : List Byte) (count : Nat) (rest : List (List Byte × Nat)),
     let x := s.lq vf q
     let l := Launch.ofHeader vf (some q) count raw
     (x.busy = true ∨ x.waiting = [] → exec (.launchStart vf q) s = .next s) ∧
     (x.busy = false → x.waiting = (raw, count) :: rest →
       let u := s.modLq vf q (fun y => { y with waiting := rest })
       (u.headerOk l raw = false → exec (.launchStart vf q) s = .next (u.refuseLaunch l)) ∧
       (u.headerOk l raw = true → answers (exec (.launchStart vf q) s) (fun t => ∃ id k, t.launchAt id = some k ∧
         k.vf = vf ∧ k.queue = some q ∧ k.entry = BitVec.ofNat 64 (recField raw 0 8) ∧ k.args = BitVec.ofNat 64 (recField raw 48 8) ∧
         (t.lq vf q).busy = true ∧ (t.lq vf q).waiting = rest ∧ t.mem = s.mem ∧
         ∀ c p, c ∈ shapeCells (s.vf vf).cfg.shape → seatOf (s.vf vf).cfg.shape c = some p →
           (l.share p = 0 → tfind c k.shares = none) ∧
           (l.share p ≠ 0 → ∃ h, tfind c k.shares = some h ∧ h.total = l.share p ∧ h.next = 0 ∧ h.finished = 0)))))) ∧
  ((∀ (s : State) (g : Guard) (a b : BitVec 6), s.granted g → s.unprefixed →
     let va := s.sval a
     let c := s.cur.cell
     let v := (s.sval b).toNat
     let mapped := v = 0xFFFF ∨ v ≤ 255 ∧ (s.resolve (s.vfOf c) (BitVec.ofNat 8 v)).isSome = true
     ((∃ o ∈ s.ops c, o.sc = s.cur.sc ∧ ∃ x y z, o.body = .launch x y z) → exec (.bLaunch g a) s = .next (s.setHeld false)) ∧
     ((∀ o ∈ s.ops c, o.sc = s.cur.sc → ∀ x y z, o.body ≠ .launch x y z) → s.sources [a] →
       (va.toNat % 64 = 0 → answers (exec (.bLaunch g a) s) (fun t =>
         s.started t 64 (fun o => o.body = .launch va (s.coverOf c s.cur.sc s.me.seq 3) false) ∧ s.issued t 1 ∧ t.mem = s.mem)) ∧
       (va.toNat % 64 ≠ 0 → exec (.bLaunch g a) s = .next (s.raise Code.align va))) ∧
     (s.sources [a, b] →
       (6 < va.toNat → exec (.bCancelL g a b) s = .next (s.raise Code.illegal s.cur.ent.addr)) ∧
       (va.toNat ≤ 6 → ¬mapped → exec (.bCancelL g a b) s = .next (s.raise Code.semmap s.cur.ent.addr)) ∧
       (va.toNat ≤ 6 → mapped → answers (exec (.bCancelL g a b) s) (fun t => s.issued t 1 ∧ t.mem = s.mem ∧ t.launches = s.launches ∧
         t.itemCancels = s.itemCancels ++ [{ vf := s.vfOf c, sem := if v = 0xFFFF then none else some (BitVec.ofNat 8 v), cell := c,
                                             sc := s.cur.sc, launch := s.me.launch, idx := s.me.idx, lvl := va.toNat }])))) ∧
   (∀ (s : State) (c id : Nat) (o : Op) (va : Dword) (cover : List Nat), s.findOp c id = some o → o.id = id →
     let i := Instr.launchAcknowledgement c id
     let took (t : State) (e : Option (Code × Dword)) : Prop := exec i s = .next (t.modOp c id (fun q => { q with body := .launch va [] true, err := e }))
     (o.body = .launch va cover false →
       (s.performed cover = false → (s.cell c).time < o.due → exec i s = .next s) ∧
       (s.performed cover = false → o.due ≤ (s.cell c).time → answers (exec i s) (fun t => (t.cell c).frozenOn.contains id = true ∧ t.ops c = s.ops c)) ∧
       (s.performed cover = true → ∀ code a, s.readVa none (s.vfOf c) (dieOf c) va.toNat 64 = .error (code, a) → took s (some (code, a))) ∧
       (s.performed cover = true → ∀ raw, s.readVa none (s.vfOf c) (dieOf c) va.toNat 64 = .ok raw →
         let l := Launch.ofHeader (s.vfOf c) none 0 raw
         let v := s.vf (s.vfOf c)
         (s.headerOk l raw = false → took (s.refuseLaunch l) none) ∧
         (s.headerOk l raw = true → v.overflow = [] → s.deviceLaunches (s.vfOf c) < 64 → took (s.startLaunch l) none) ∧
         (s.headerOk l raw = true → ¬(v.overflow = [] ∧ s.deviceLaunches (s.vfOf c) < 64) → v.overflow.length < listEntries * v.overFrames.length →
           took (s.modVf (s.vfOf c) (fun w => { w with overflow := w.overflow ++ [(raw, c)] })) none) ∧
         (s.headerOk l raw = true → ¬(v.overflow = [] ∧ s.deviceLaunches (s.vfOf c) < 64) → listEntries * v.overFrames.length ≤ v.overflow.length →
           (s.allocFrame (s.vfOf c) (dieOf c) = none → took s (some (Code.quota, va))) ∧
           (∀ f u, s.allocFrame (s.vfOf c) (dieOf c) = some (f, u) → took ((u.modVf (s.vfOf c) (fun w => { w with overFrames := w.overFrames ++ [f] })).modVf
             (s.vfOf c) (fun w => { w with overflow := w.overflow ++ [(raw, c)] })) none)))) ∧
     (o.body = .launch va cover true →
       ((s.cell c).time < o.due → exec i s = .next s) ∧
       (o.due ≤ (s.cell c).time → s.env.slow.contains id = true → (s.cell c).frozenOn.contains id = false → exec i s = .next (s.freezeOn c id)) ∧
       (o.due ≤ (s.cell c).time → s.env.slow.contains id = false ∨ (s.cell c).frozenOn.contains id = true →
         (∀ code a, o.err = some (code, a) → exec i s = .next (s.lateFault c o code a)) ∧
         (o.err = none → answers (exec i s) (fun t => t.findOp c id = none ∧ t.mem = s.mem))))) ∧
   (∀ (s : State) (vf : Nat) (raw : List Byte) (c : Nat) (rest : List (List Byte × Nat)), (s.vf vf).overflow = (raw, c) :: rest →
     (64 ≤ s.deviceLaunches vf → exec (.overflowLaunchStart vf) s = .next s) ∧
     (s.deviceLaunches vf < 64 → answers (exec (.overflowLaunchStart vf) s) (fun t => (t.vf vf).overflow = rest ∧ t.mem = s.mem ∧
       ∃ id k, t.launchAt id = some k ∧ k.vf = vf ∧ k.queue = none ∧ k.entry = BitVec.ofNat 64 (recField raw 0 8)))) ∧
   (∀ (s : State) (i : Nat) (x : Cancel), s.itemCancels[i]? = some x →
     (x.stopped = none → ∀ id l, x.launch = some id → s.launchAt id = some l → answers (exec (.itemCancellation i) s) (fun t =>
       (∃ k, t.launchAt id = some k ∧ k.drops = l.drops ++ [{ level := x.lvl, idx := x.idx }] ∧ k.entry = l.entry) ∧
       ∀ c sc, sc < 4 → (s.cell c).vf = some l.vf → (tfind c s.cells).isSome = true →
         let st := s.strand c sc
         (st.st ≠ .idle → st.halted = false → st.launch = some id → l.sameGroup x.lvl x.idx st.idx = true → st.idx ≠ x.idx →
           (t.strand c sc).halted = true ∧ (t.strand c sc).launch = some id))) ∧
     (∀ hits, x.stopped = some hits →
       (s.cancelDone x.launch hits = false → exec (.itemCancellation i) s = .next s) ∧
       (s.cancelDone x.launch hits = true → answers (exec (.itemCancellation i) s) (fun t => t.itemCancels = removeAt s.itemCancels i ∧
         t.cells = s.cells ∧ ∀ v ps, x.sem = some v → s.resolve x.vf v = some ps → ∃ y, t.sigs = s.sigs ++ [y] ∧ y.ps = ps ∧ y.n = 1)))))

/-- R28, R29: placement gives every item of a launch to one cell of its shape, once, as the t-th item of that cell; the linear index of an item has
its coordinates as mixed-radix digits, and its work identifier has them in its fields. R32, R40, R52 to R54, R128, R417: the lowest idle context
takes the untaken item of the highest effective priority, with s1 and s2 set and every other register 0, also while a switch request is pending,
which is then pending for it; an item ages a level for each 4,096 cycles; a halted strand with nothing in flight becomes idle and its item counts;
a share reports when its items and its stream have completed; a launch whose shares have all reported and whose writes are performed completes
with its completion word, its signal, which is counted when its number is not mapped any more, and its checkpoint record. Points that the spec
leaves to the model or to inference: log entries 17, 18. -/
def Obligations.ItemsAreTakenAndLaunchesComplete : Prop :=
  (∀ (l : Launch) (ncells nsets : Nat), 0 < ncells → 0 < nsets → l.ext.length = 6 → ctlLc l.ctl ≤ ctlLb l.ctl → ctlLb l.ctl ≤ 6 →
     let seat (set pos : Nat) : Seat := { set := set, pos := pos, ncells := ncells, nsets := nsets }
     (∀ set pos t, set < nsets → pos < ncells → t < l.share (seat set pos) → l.itemAt (seat set pos) t < l.prodE 0 6) ∧
     (∀ idx, idx < l.prodE 0 6 → ∃ set pos t, set < nsets ∧ pos < ncells ∧ t < l.share (seat set pos) ∧ l.itemAt (seat set pos) t = idx ∧
       ∀ set' pos' t', set' < nsets → pos' < ncells → t' < l.share (seat set' pos') → l.itemAt (seat set' pos') t' = idx →
         set' = set ∧ pos' = pos ∧ t' = t) ∧
     ((∀ k, k < 6 → l.ext.getD k 1 ≤ 2 ^ (ctlWidths l.ctl).getD k 0) → ∀ idx, idx < l.prodE 0 6 → ∀ k, k < 6 →
       l.widAt idx / 2 ^ ((ctlWidths l.ctl).take k).sum % 2 ^ (ctlWidths l.ctl).getD k 0 = idx / l.prodE 0 k % l.ext.getD k 1)) ∧
  (∀ (s : State) (c : Nat),
     (∀ (sc id : Nat) (l : Launch) (h : Share) (rest : List (Nat × Launch × Share)) (p : Seat), (s.cell c).runs = true →
       sc < 4 → (s.strand c sc).st = .idle → (∀ k, k < sc → (s.strand c k).st ≠ .idle) →
       let u := (s.launches.map (fun e => e.1)).foldl (fun t k => t.passDropped k c) s
       let level (x : Nat × Launch × Share) : Nat := min 7 (ctlPrio x.2.1.ctl + max x.2.2.age (((s.cell c).time - x.2.2.startTime) / 4096))
       u.pendingItems c = (id, l, h) :: rest → u.launchAt id = some l → tfind c l.shares = some h → seatOf (u.vf l.vf).cfg.shape c = some p →
       (∀ x ∈ rest, level x ≤ level (id, l, h)) ∧
       answers (exec (.itemTake c) s) (fun t =>
         let x := t.strand c sc
         x.st = .running ∧ x.swReq = ((s.cell c).dl != 0) ∧ x.launch = some id ∧ x.pc = l.entry ∧ x.ftb = l.ftb ∧ x.readS 1 = { val := l.args } ∧
         x.readS 2 = { val := BitVec.ofNat 64 (l.widAt (l.itemAt p h.next)) } ∧ x.wid = BitVec.ofNat 64 (l.widAt (l.itemAt p h.next)) ∧
         (∀ r, r ≠ 1 → r ≠ 2 → isQ r = false → x.readS r = { val := 0 }) ∧ (∀ r, isY r = false → (x.readV r).val = 0) ∧
         (∃ k g, t.launchAt id = some k ∧ tfind c k.shares = some g ∧ g.next = h.next + 1) ∧ t.mem = s.mem)) ∧
     (∀ (id : Nat) (l : Launch) (h : Share), s.launchAt id = some l → tfind c l.shares = some h →
       answers (exec (.itemAging id c) s) (fun t => t.mem = s.mem ∧ t.cells = s.cells ∧ ∃ k g, t.launchAt id = some k ∧ tfind c k.shares = some g ∧
         g.age = if h.started = true ∧ h.next < h.total ∧ h.age < 7 ∧ h.startTime + 4096 * (h.age + 1) ≤ (s.cell c).time then h.age + 1 else h.age) ∧
       (∀ sc, (s.strand c sc).halted = true → quiet (s.cell c) sc = true → (s.strand c sc).launch = some id →
         answers (exec (.itemCompletion c sc) s) (fun t => t.strand c sc = {} ∧ t.mem = s.mem ∧
           ∃ k g, t.launchAt id = some k ∧ tfind c k.shares = some g ∧ g.finished = h.finished + 1)) ∧
       (l.drops = [] → h.reported = false →
         let ended := h.started = true ∧ h.next = h.total ∧ h.finished = h.total ∧ (h.stream = .none ∨ h.stream = .done)
         (¬ended → exec (.shareComplete id c) s = .next s) ∧
         (ended → answers (exec (.shareComplete id c) s) (fun t => t.mem = s.mem ∧ ∃ k g, t.launchAt id = some k ∧ tfind c k.shares = some g ∧
           g.reported = true ∧ ∀ w ∈ s.mem.flight, w.id ∈ k.cover)))) ∧
     (∀ (id : Nat) (l : Launch), s.launchAt id = some l →
       let ready := l.reported = true ∧ s.holdsHandles id l.vf = false ∧ s.performed l.cover = true
       (¬ready → exec (.launchCompletion id) s = .next s) ∧
       (ready → answers (exec (.launchCompletion id) s) (fun t => t.launchAt id = none ∧
         (∀ q, l.queue = some q → (t.lq l.vf q).busy = false) ∧
         (∀ ps, l.hasSem = true → s.resolve l.vf (l.csem.truncate 8) = some ps → ∃ y, t.sigs = s.sigs ++ [y] ∧ y.ps = ps ∧ y.n = 1) ∧
         (l.hasSem = true → s.resolve l.vf (l.csem.truncate 8) = none →
           (t.vf l.vf).counters.signals = (s.vf l.vf).counters.signals + 1 ∧ t.sigs = s.sigs) ∧
         (∀ pg pa, s.pages none l.vf 0 (l.args + l.cwoff).toNat 8 .wr = .ok pg → (∀ e ∈ pg, ∃ f, e.2 = .frame f) →
           paOf pg (l.args + l.cwoff).toNat = some pa → l.hasWord = true → pa % 8 = 0 → mgmtWritable pa = true → l.queue = none ∨ ctlCkpt l.ctl = false →
           leRead (t.mem.view 0) pa 8 = s.wall % 2 ^ 48 * 2 ^ 16 + (if l.cancelled then 2 else 0)) ∧
         (∀ q, l.queue = some q → ctlCkpt l.ctl = true →
           leRead (t.mem.view 0) ((s.vf l.vf).saveBase + 0xFFF000 + 32 * q) 8 = l.count % 2 ^ 64)))))

/-! ### Tasks -/

/-- R280, R281: b.post, b.tdec and b.cancel hand their request to the scheduler of their bulkhead with the item that runs, b.post with the strand's
writes that it covers; a record that is not 64-byte aligned is ALIGN, one outside the task table, a number above 65534 or a branch above 2^20
TASKREC, an unmapped semaphore SEMMAP. R76, R262, R267 to R272, R276, R281, R282, R431: a record enters after the earlier ones of its strand, once
the writes that b.post covers are performed, while its VF is resident; one that fails its checks is reported with its code, one of a cancelled
branch gets status 2; one that passes takes the lowest free slot, or a place in the overflow list, whose frame may be QUOTA, and is ready when
nothing is awaited; a decrement makes a task ready at zero, and below zero it is DEPUNDER; a ready task ages a level for each 4,096 cycles of its
scheduler. Points that the spec leaves to the model or to inference: log entries 36, 38. -/
def Obligations.TasksEnterAndBecomeReady : Prop :=
  (∀ (s : State) (g : Guard) (a b : BitVec 6), s.granted g → s.unprefixed →
     let c := s.cur.cell
     let vf := s.vfOf c
     let base := (s.vf vf).cfg.tasks
     let x := s.sval a
     let v := (s.sval b).toNat
     let mapped := v = 0xFFFF ∨ v ≤ 255 ∧ (s.resolve vf (BitVec.ofNat 8 v)).isSome = true
     let sent (i : Instr) (P : State → Prop) : Prop := answers (exec i s) (fun t => P t ∧ s.issued t 1 ∧ t.mem = s.mem ∧ t.vfs = s.vfs)
     (s.sources [a] →
       (x.toNat % 64 ≠ 0 → exec (.bPost g a) s = .next (s.raise Code.align x)) ∧
       (x.toNat % 64 = 0 → x.toNat < base ∨ base + 64 * 65535 ≤ x.toNat → exec (.bPost g a) s = .next (s.raise Code.taskrec x)) ∧
       (x.toNat % 64 = 0 → base ≤ x.toNat → x.toNat < base + 64 * 65535 → sent (.bPost g a) (fun t =>
         t.posts = s.posts ++ [{ vf := vf, va := x, cover := s.coverOf c s.cur.sc s.me.seq 3, cell := c, sc := s.cur.sc, launch := s.me.launch, idx := s.me.idx, srkey := s.me.srkey }])) ∧
       (65534 < x.toNat → exec (.bTdec g a) s = .next (s.raise Code.taskrec (BitVec.ofNat 64 (base + 64 * x.toNat)))) ∧
       (x.toNat ≤ 65534 → sent (.bTdec g a) (fun t =>
         t.tdecs = s.tdecs ++ [{ vf := vf, n := x.toNat, cell := c, sc := s.cur.sc, launch := s.me.launch, idx := s.me.idx }]))) ∧
     (s.sources [a, b] →
       (2 ^ 20 ≤ x.toNat → exec (.bCancel g a b) s = .next (s.raise Code.taskrec s.cur.ent.addr)) ∧
       (x.toNat < 2 ^ 20 → ¬mapped → exec (.bCancel g a b) s = .next (s.raise Code.semmap s.cur.ent.addr)) ∧
       (x.toNat < 2 ^ 20 → mapped → sent (.bCancel g a b) (fun t =>
         t.cancels = s.cancels ++ [{ vf := vf, branch := x.truncate 20, sem := if v = 0xFFFF then none else some (BitVec.ofNat 8 v), cell := c,
                                     sc := s.cur.sc, launch := s.me.launch, idx := s.me.idx }])))) ∧
  ((∀ (s : State) (i : Nat) (p : Post), s.posts[i]? = some p →
     let u : State := { s with posts := removeAt s.posts i }
     let n := (p.va.toNat - (s.vf p.vf).cfg.tasks) / 64
     let is := Instr.taskEntry i
     let report (code : Code) : State := u.reportItem p.cell p.sc p.launch p.idx { eng := 7, code := code, taddr := p.va }
     let waits : Prop := (∃ q ∈ s.posts.take i, q.cell = p.cell ∧ q.sc = p.sc) ∨ s.performed p.cover = false ∨ (s.cell p.cell).vf ≠ some p.vf
     (waits → exec is s = .next s) ∧
     (¬waits →
       (∀ code a, u.readVa none p.vf (dieOf p.cell) p.va.toNat 64 = .error (code, a) → exec is s = .next (report code)) ∧
       (∀ raw, u.readVa none p.vf (dieOf p.cell) p.va.toNat 64 = .ok raw →
         (∀ code a t, u.entryCheck p n raw = .fails code a t → exec is s = .next (u.taskFault p.vf n t code a false)) ∧
         (∀ t, u.entryCheck p n raw = .drops t → exec is s = .next (u.taskStatus p.vf (bhDie t.bh) n 2)) ∧
         (u.entryCheck p n raw = .pending → exec is s = .next (report Code.taskrec)) ∧
         (∀ t, u.entryCheck p n raw = .enters t →
           let w := u.refreshSlots p.vf t.bh
           let x : State := { w with nextId := w.nextId + 1 }
           let t' : Task := { t with order := w.nextId, ready := if t.deps = 0 then some (w.vf p.vf).clock else none }
           let put (y : State) (t : Task) : Prop := exec is s = .next ((y.modVf p.vf (fun v => { v with
             tasks := tput n t v.tasks, cancelledTasks := v.cancelledTasks.filter (· != n) })).taskStatus p.vf (bhDie t.bh) n 0)
           let frames := tget [] (w.vf p.vf).listFrames t.bh
           (∀ k, (w.vf p.vf).freeSlot t.bh = some k → put x { t' with slot := some k }) ∧
           ((w.vf p.vf).freeSlot t.bh = none → ((w.vf p.vf).listed t.bh).length < 1024 * frames.length → put x t') ∧
           ((w.vf p.vf).freeSlot t.bh = none → 1024 * frames.length ≤ ((w.vf p.vf).listed t.bh).length →
             (x.allocFrame p.vf (bhDie t.bh) = none → exec is s = .next (x.taskFault p.vf n t' Code.quota (x.recVa p.vf n) false)) ∧
             ∀ f y, x.allocFrame p.vf (bhDie t.bh) = some (f, y) →
               put (y.modVf p.vf (fun v => { v with listFrames := tset [] v.listFrames t.bh (frames ++ [f]) })) t'))))) ∧
   (∀ (v : Vf) (bh k : Nat), v.freeSlot bh = some k → k < 256 ∧ (∀ e ∈ v.tasks, e.2.bh = bh → e.2.slot ≠ some k) ∧
     (∀ x ∈ v.slotFree, x.1 = bh → x.2.1 = k → x.2.2 ≤ v.clock) ∧
     ∀ j, j < k → (∃ e ∈ v.tasks, e.2.bh = bh ∧ e.2.slot = some j) ∨ ∃ x ∈ v.slotFree, x.1 = bh ∧ x.2.1 = j ∧ v.clock < x.2.2) ∧
   (∀ (s : State) (i : Nat) (d : Tdec), s.tdecs[i]? = some d → (∀ q ∈ s.tdecs.take i, ¬(q.cell = d.cell ∧ q.sc = d.sc)) →
     let u : State := { s with tdecs := removeAt s.tdecs i }
     let is := Instr.taskDecrement i
     (∀ t, s.task d.vf d.n = some t →
       (t.dead = true → exec is s = .next u) ∧
       (t.dead = false → t.deps = 0 → exec is s = .next (u.reportPoster t Code.depunder (u.recVa d.vf d.n))) ∧
       (t.dead = false → t.deps ≠ 0 → answers (exec is s) (fun x => x.tdecs = removeAt s.tdecs i ∧ x.mem = s.mem ∧
         x.task d.vf d.n = some { t with deps := t.deps - 1, ready := if t.deps = 1 then some (s.vf d.vf).clock else t.ready }))) ∧
     (s.task d.vf d.n = none → (s.vf d.vf).cancelledTasks.contains d.n = true → exec is s = .next u) ∧
     (s.task d.vf d.n = none → (s.vf d.vf).cancelledTasks.contains d.n = false → exec is s = .next (u.reportItem d.cell d.sc d.launch d.idx
       { eng := 7, code := Code.depunder, taddr := BitVec.ofNat 64 (u.recVa d.vf d.n) }))) ∧
   (∀ (s : State) (i : Nat) (d : Tdec), s.tdecs[i]? = some d → (∃ q ∈ s.tdecs.take i, q.cell = d.cell ∧ q.sc = d.sc) →
     exec (.taskDecrement i) s = .next s) ∧
   (∀ (s : State) (vf n r : Nat) (t : Task), s.task vf n = some t → t.ready = some r →
     answers (exec (.taskAging vf n) s) (fun x => x.mem = s.mem ∧ x.cells = s.cells ∧ x.task vf n = some { t with
       age := if t.run = none ∧ 4096 * (t.age + 1) + r ≤ (s.vf vf).clock ∧ t.prio + t.age < 7 then t.age + 1 else t.age })))

/-- R267, R269, R272 to R274: listed tasks take the free slots; a ready task starts no earlier than the cycle after it became ready, in ready order by
its priority at that time, on the lowest-numbered group of free sides that may run it: a chain task on both sides of one cell, the others on one
side; a side that has been free for 64 cycles without work of its own steals the first task of the busiest bulkhead that it can run, unless its
cell is kept for a chain task that stands first. R5, R48, R50, R263, R265, R266, R275 to R277, R279, R410, R419, R421, R434: a running task counts
its cell's time, and goes beyond it after a close that drains it, and else stands still while the cell does; it issues its next chunk, later by
the delay of its lines, or step, or stops there when it is cancelled; after the last result its drain is checked, TRAP fails it, REISSUE runs it
again once, wide; its outputs are written as they fall due, and 72 cycles after the check, once they are performed, its status, its successors are
decremented in slot order, its flags go to its poster and its semaphore is signalled; an access that fails ends it with its code. Points that the
spec leaves to the model or to inference: log entries 4, 34, 36, 37, 39. -/
def Obligations.TasksStartRunAndComplete : Prop :=
  ((∀ (s : State) (vf : Nat) (t : Task) (cells : List Nat) (c side : Nat), s.groupFor vf t cells = some (c, side) →
     c ∈ cells ∧ (∀ b ∈ t.ties, b = bhOf c) ∧
     (t.kind = 1 → side = 2 ∧ s.sideFree vf c 0 = true ∧ s.sideFree vf c 1 = true) ∧ (t.kind ≠ 1 → side < 2 ∧ s.sideFree vf c side = true)) ∧
   (∀ (s : State) (vf bh : Nat), (s.readyTasks vf bh).Pairwise (fun x y => y.2.before (s.vf vf).clock x.2 = false) ∧
     ∀ e ∈ s.readyTasks vf bh, e ∈ (s.vf vf).tasks ∧ e.2.bh = bh ∧ e.2.run = none ∧ ∃ r, e.2.ready = some r ∧ r < (s.vf vf).clock) ∧
   (∀ (x y : Task) (now : Nat), (x.level now = min 7 (x.prio + max x.age (match x.ready with | some r => (now - r) / 4096 | none => 0))) ∧
     (y.level now < x.level now → x.before now y = true)) ∧
   (∀ (s : State) (bh vf : Nat), (s.cell (2 * bh)).vf = some vf →
     let u := s.refreshSlots vf bh
     (u.readyTasks vf bh = [] → exec (.taskStart bh) s = .next u) ∧
     (∀ n t r, u.readyTasks vf bh = (n, t) :: r →
       (∀ c side, u.groupFor vf t [2 * bh, 2 * bh + 1] = some (c, side) →
         exec (.taskStart bh) s = .next ((u.startTask vf n c side).walkReady vf bh false r)) ∧
       (u.groupFor vf t [2 * bh, 2 * bh + 1] = none → exec (.taskStart bh) s = .next (u.walkReady vf bh (t.kind == 1) r)))) ∧
   (∀ (s : State) (vf n c side : Nat) (t : Task), s.task vf n = some t → side ≤ 2 →
     let u := s.startTask vf n c side
     u.task vf n = some { t with run := some (newRun t.kind c side (s.cell c).time), flags := 0 } ∧ u.mem = s.mem ∧
     (∀ k, k < 2 → side = 2 ∨ side = k → tfind k (u.cell c).sideTask = some (vf, n)) ∧
     (∀ m, m ≠ n → u.task vf m = s.task vf m) ∧ (∀ d, d ≠ c → u.cell d = s.cell d)) ∧
   (∀ (s : State) (c side vf : Nat), (s.cell c).vf = some vf →
     let mine (e : Nat × Task) : Prop := e.2.kind ≠ 1 ∧ ∀ b ∈ e.2.ties, b = bhOf c
     let may := s.sideFree vf c side = true ∧ s.keptForChain vf c = false ∧ tget 0 (s.cell c).freeSince side + 64 ≤ (s.cell c).time ∧ ∀ e ∈ s.readyTasks vf (bhOf c), ¬mine e
     (¬may → exec (.taskSteal c side) s = .next s) ∧
     (may → ∀ b, s.busiest vf = some b → ∀ n t older newer, s.readyTasks vf b = older ++ (n, t) :: newer → t.kind ≠ 1 → t.ties = [] →
       (∀ e ∈ older, e.2.kind = 1 ∨ e.2.ties ≠ []) → exec (.taskSteal c side) s = .next (s.startTask vf n c side)))) ∧
  (∀ (s : State) (vf n : Nat) (t : Task) (r : TaskRun), s.task vf n = some t → t.run = some r →
     let now := s.groupTime r.cell
     let runs (i : Instr) (f : Task → Task) : Prop := exec i s = .next (s.modTask vf n f)
     let fails (i : Instr) (code : Code) : Prop := exec i s = .next (s.failTask vf n t code)
     let issue := Instr.taskChunkIssue vf n
     let check := Instr.taskDrainCheck vf n
     let done := Instr.taskCompletion vf n
     (s.groupRuns vf r = false → exec issue s = .next s ∧ exec check s = .next s ∧ exec done s = .next s) ∧
     (s.groupRuns vf r = true →
       (now < r.free ∨ r.checked.isSome = true → exec issue s = .next s) ∧
       (r.free ≤ now → r.checked = none → t.dead = true →
         (r.atBoundary now = true → exec issue s = .next (s.endCancelled vf n t)) ∧ (r.atBoundary now = false → exec issue s = .next s)) ∧
       (r.free ≤ now → r.checked = none → t.dead = false →
         (t.kind = 0 → t.blocks ≤ r.next → exec issue s = .next s) ∧
         (t.kind = 0 → r.next < t.blocks →
           (∀ code, s.chunk0 vf t r = .error code → fails issue code) ∧
           (∀ q fl, s.chunk0 vf t r = .ok (q, fl) → q.next = r.next + 1 ∧ q.free = now + max (occOf t.opA.fmt t.opA.planes) (occOf t.opB.fmt t.opB.planes) + s.lateness ∧
             exec issue s = .next (s.useLateness.modTask vf n (fun t => { t with run := some q, flags := t.flags ||| fl })))) ∧
         (t.kind = 1 → r.next ≤ t.steps → exec issue s = .next (s.chunk1 vf n t r)) ∧
         (2 ≤ t.kind → r.next = 0 → exec issue s = .next (s.chunk23 vf n t r))) ∧
       (now ≤ r.last ∨ r.checked.isSome = true ∨ t.issued r = false ∨ t.dead = true → exec check s = .next s) ∧
       (r.last < now → r.checked = none → t.issued r = true → t.dead = false → t.kind < 2 →
         let ps := t.drain r
         let exceeded := ∃ p ∈ ps, p.exc = true
         (exceeded → 2 ≤ t.mode → t.mode = 3 → t.rcnt = 0 → runs check (fun t => { t with
           rcnt := 1, flags := 0, run := some { newRun t.kind r.cell r.side now with free := now + 1 } })) ∧
         (exceeded → 2 ≤ t.mode → ¬(t.mode = 3 ∧ t.rcnt = 0) → fails check Code.deckle) ∧
         (¬(exceeded ∧ 2 ≤ t.mode) → runs check (fun t => { t with
           flags := t.flags ||| t.outFlags ps, run := some { r with checked := some now, writes := t.outWrites ps ++ r.writes } }))) ∧
       (r.last < now → r.checked = none → t.issued r = true → t.dead = false → 2 ≤ t.kind →
         (r.next = 2 → fails check Code.deckle) ∧
         (r.next ≠ 2 → runs check (fun t => { t with run := some { r with checked := some now } }))) ∧
       (r.checked = none → exec done s = .next s) ∧
       (∀ k, r.checked = some k →
         let rest := r.writes.filter (fun w => decide (now < k + w.1))
         let writes := s.taskWrites vf (dieOf r.cell) (r.writes.filter (fun w => decide (k + w.1 ≤ now))) r.cover
         (∀ code u, writes = .error (code, u) → exec done s = .next (if t.dead then u.endCancelled vf n t else u.failTask vf n t code)) ∧
         (∀ cover u, writes = .ok (cover, u) →
           let ready : Prop := k + 72 ≤ now ∧ rest = [] ∧ u.performed cover = true
           (¬ready → exec done s = .next (u.modTask vf n (fun t => { t with run := some { r with writes := rest, cover := cover } }))) ∧
           (ready → t.dead = true → exec done s = .next (u.endCancelled vf n t)) ∧
           (ready → t.dead = false →
             let w := (u.taskStatus vf (dieOf r.cell) n (if t.rcnt = 0 then 1 else 3)).settle.dropTask vf n
             let step (x : State) (k : Nat) : State := if t.succ k = 0xFFFF then x else
               x.decrement vf (t.succ k) (fun y => y.reportPoster t Code.depunder (y.recVa vf (t.succ k)))
             let x := (step (step (step (step w 0) 1) 2) 3).posterFlags t
             (t.sem = 0xFFFF → exec done s = .next x) ∧
             (∀ y, t.sem ≠ 0xFFFF → x.taskSignal vf r.cell (dieOf r.cell) t.sem t.inc = some y → exec done s = .next y) ∧
             (t.sem ≠ 0xFFFF → x.taskSignal vf r.cell (dieOf r.cell) t.sem t.inc = none →
               exec done s = .next (x.reportPoster t Code.semmap (x.recVa vf n))))))))

/-- R261, R278, R279, R281: a cancellation waits for the earlier ones of its strand; when its branch is valid and of its generation the branch is
marked cancelled for every die at once, every task of its subtree that does not run goes, one that runs stops at its next boundary, and every
sequence of the subtree is freed; a stale or invalid one changes nothing; when every cancelled task has stopped its semaphore is signalled, either
way, with the writes of every die before it. Points that the spec leaves to the model or to inference: log entry 37. -/
def Obligations.BranchesAreCancelled : Prop :=
  ∀ (s : State) (i : Nat) (k : Cancel), s.cancels[i]? = some k →
    let is := Instr.branchCancellation i
    let die := dieOf k.cell
    let b := k.branch.toNat % 4096
    let va := (s.vf k.vf).cfg.branch + 8 * b
    let marked (l : List (Nat × Nat)) (t : State) : Prop :=
      exec is s = .next { t with cancels := modifyAt (fun (k : Cancel) => { k with stopped := some l }) t.cancels i }
    let waits : Prop := (∃ q ∈ s.cancels.take i, q.stopped = none ∧ q.cell = k.cell ∧ q.sc = k.sc) ∨ (s.cell k.cell).vf ≠ some k.vf
    (waits → exec is s = .next s) ∧
    (¬waits → k.stopped = none →
      (s.branchEntry k.vf die b = .ok none → marked [] s) ∧
      (∀ e, s.branchEntry k.vf die b = .ok (some e) → e / 4096 % 256 ≠ k.branch.toNat / 4096 → marked [] s) ∧
      (∀ code a, s.branchEntry k.vf die b = .error (code, a) →
        marked [] (s.reportItem k.cell k.sc k.launch k.idx { eng := 7, code := code, taddr := BitVec.ofNat 64 va })) ∧
      (∀ e n u, s.branchEntry k.vf die b = .ok (some e) → e / 4096 % 256 = k.branch.toNat / 4096 →
        s.writeVa none k.vf die va (leBytes (if e / 2 ^ 30 % 2 = 1 then e else e + 2 ^ 30) 8) = .ok (n, u) →
        let w := u.settle
        let hit := (w.vf k.vf).tasks.filter (fun x => w.inSubtree k.vf die b (x.2.br % 4096))
        let cancel (x : State) (e : Nat × Task) : State :=
          if e.2.run.isSome then x.modTask k.vf e.1 (fun t => { t with dead := true }) else x.endCancelled k.vf e.1 e.2
        let t := hit.foldl cancel w
        marked ((hit.filter (fun x => x.2.run.isSome)).map (fun x => (x.1, x.2.order)))
          (t.kvFreeTagged k.vf (fun br => w.inSubtree k.vf die b (br % 4096))))) ∧
    (¬waits → ∀ l, k.stopped = some l →
      let u : State := { s with cancels := removeAt s.cancels i }
      let stopping : Prop := ∃ x ∈ l, ∃ t, s.task k.vf x.1 = some t ∧ t.order = x.2
      (stopping → exec is s = .next s) ∧
      (¬stopping →
        (k.sem = none → exec is s = .next u) ∧
        (∀ v, k.sem = some v → s.resolve k.vf v = none → exec is s = .next u) ∧
        (∀ v ps, k.sem = some v → s.resolve k.vf v = some ps → answers (exec is s) (fun t => ∃ y, t = { u with sigs := u.sigs ++ [y] } ∧
          y.ps = ps ∧ y.n = 1 ∧ y.vf = k.vf ∧ ∀ w ∈ s.mem.flight, (∃ d, d < 4 ∧ d ∉ w.todo) → w.id ∈ y.cover))))

/-! ### The management unit -/

/-- R376, R377, R380: once per microsecond an idle unit takes the lowest slot whose go bit is set, and an unknown command or a nonzero reserved field
ends with BADCMD; the end of a command writes its results, then DONE and its status into the slot's state word, and signals VF0's semaphore; a
command for a VF that is no tenant ends with BADVF, and one for a VF in reset waits. R337, R360, R374, R377, R379 to R381, R386, R390: WINDOW,
KEYLOAD, PEERTAB, SETQUOTA, STATS, BINDQP and LCANCEL change what they name and end with OK, a launch that LCANCEL drops from the list completing
with its signal, or end with the status of the first rule they break; RESET begins a VF reset and ends when it has. Points that the spec leaves to
the model or to inference: log entries 54, 56. -/
def Obligations.ManagementCommandsOnTenants : Prop :=
  ((∀ (s : State), (s.wall < s.mgmt.nextPoll → exec .mgmtPoll s = .next s) ∧
     (s.mgmt.nextPoll ≤ s.wall →
       let u : State := { s with mgmt := { s.mgmt with nextPoll := s.wall / 1000 * 1000 + 1000 } }
       let go (n : Nat) : Bool := (tget 0 (s.mem.view 0) (128 * n)).getLsbD 0
       (s.mgmt.run.isSome = true ∨ (∀ n, n < 16 → go n = false) → exec .mgmtPoll s = .next u) ∧
       (s.mgmt.run = none → ∀ n, n < 16 → go n = true → (∀ k, k < n → go k = false) →
         let slot := bytesAt (s.mem.view 0) (128 * n) 128
         let taken : State := { u with mgmt := { u.mgmt with run := some n, slot := slot } }
         (recField slot 14 2 = 0 → knownCommand slot = true → exec .mgmtPoll s = .next taken) ∧
         (recField slot 14 2 ≠ 0 ∨ knownCommand slot = false → exec .mgmtPoll s = .next (taken.endCommand 1 []))))) ∧
   (∀ (s : State) (n status : Nat) (results : List (Nat × List Byte)), s.mgmt.run = some n → status < 256 →
     let t := s.endCommand status results
     t.mgmt.run = none ∧ t.mgmt.begun = false ∧ leRead (t.mem.view 0) (128 * n) 8 = 2 + 256 * status ∧
     (∀ o l, results = [(o, l)] → 8 ≤ o → o + l.length ≤ 128 → bytesAt (t.mem.view 0) (128 * n + o) l.length = l) ∧
     (∀ k x, (x < 128 * n ∨ 128 * n + 128 ≤ x) → (∀ r ∈ results, r.1 + r.2.length ≤ 128) → tget 0 (t.mem.view k) x = tget 0 (s.mem.view k) x) ∧
     (let sem := recField s.mgmt.slot 12 2
      (255 < sem → t.sigs = s.sigs) ∧
      (∀ ps, sem ≤ 255 → s.resolve 0 (BitVec.ofNat 8 sem) = some ps → ∃ y, t.sigs = s.sigs ++ [y] ∧ y.ps = ps ∧ y.n = 1))) ∧
   ∀ (s : State) (n : Nat) (i : Instr) (code : Nat),
     (i, code) ∈ [(Instr.destroy n, 2), (.reset n, 3), (.window n, 4), (.keyload n, 5), (.peertab n, 6), (.setquota n, 7), (.stats n, 8), (.bindqp n, 12),
       (.lcancel n, 14)] →
     (s.commands n code = false → exec i s = .next s) ∧
     (s.commands n code = true → s.mgmt.begun = false →
       (s.tenant s.mbVf = false → exec i s = .next (s.endCommand 2 [])) ∧
       (s.tenant s.mbVf = true → s.inReset s.mbVf = true → exec i s = .next s))) ∧
  (∀ (s : State) (n : Nat), s.tenant s.mbVf = true → s.inReset s.mbVf = false →
     let vf := s.mbVf
     let v := s.vf vf
     let ends (i : Instr) (t : State) (status : Nat) (results : List (Nat × List Byte)) : Prop := exec i s = .next (t.endCommand status results)
     (s.commands n 4 = true →
       let b := s.arg 16 1
       let k := s.arg 17 1
       let w : Dword := BitVec.ofNat 64 (s.arg 24 8)
       let own := v.cfg.shape
       let fits := b ∈ shapeBhs own ∧ k ≤ 7 ∧ w.extractLsb' 32 30 = 0 ∧ (wnValid w = true → wnLo w ≤ wnHi w ∧ (s.vf (wnVf w)).live = true ∧
         wnCell w ∈ shapeCells (s.vf (wnVf w)).cfg.shape ∧ wnVf w ≠ vf ∧ (s.vf (wnVf w)).cfg.shape ≠ own)
       (¬fits → ends (.window n) s 4 []) ∧
       (fits → s.windowBusy b k = true → exec (.window n) s = .next s) ∧
       (fits → s.windowBusy b k = false → ends (.window n) (s.modBh b (fun x => { x with windows := tset 0 x.windows k (if wnValid w then w else 0) })) 0 [])) ∧
     (s.commands n 5 = true → ends (.keyload n) (s.modVf vf (fun x => { x with
       key := BitVec.ofNat 256 (ofBe ((s.mgmt.slot.drop 16).take 32)), keyLoaded := true })) 0 [(16, zeros 32)]) ∧
     (s.commands n 6 = true →
       (63 < s.arg 16 1 → ends (.peertab n) s 1 []) ∧
       (s.arg 16 1 ≤ 63 → ends (.peertab n) (s.modVf vf (fun x => { x with
         peers := tset 0 x.peers (s.arg 16 1) (BitVec.ofNat 32 (s.arg 20 4)) })) 0 [])) ∧
     (s.commands n 7 = true →
       (v.listLen < s.arg 16 4 → ends (.setquota n) s 6 []) ∧
       (s.arg 16 4 ≤ v.listLen → s.arg 16 4 < v.held → ends (.setquota n) s 10 []) ∧
       (s.arg 16 4 ≤ v.listLen → v.held ≤ s.arg 16 4 →
         ends (.setquota n) (s.modVf vf (fun x => { x with cfg := { x.cfg with quota := s.arg 16 4, tier2 := s.arg 20 4 } })) 0 [])) ∧
     (s.commands n 8 = true → ends (.stats n) s 0 [(16, leBytes v.counters.messages 8 ++ leBytes v.counters.corrected 8 ++
       leBytes v.counters.signals 8 ++ leBytes v.counters.stale 8 ++ leBytes v.counters.refused 8 ++ leBytes v.counters.rdma 8)]) ∧
     (s.commands n 12 = true →
       (4096 ≤ s.arg 16 4 → ends (.bindqp n) s 1 []) ∧
       (s.arg 16 4 < 4096 → (tget {} s.qps (s.arg 16 4)).vf.isSome = true → ends (.bindqp n) s 12 []) ∧
       (s.arg 16 4 < 4096 → (tget {} s.qps (s.arg 16 4)).vf = none →
         ends (.bindqp n) { s with qps := tput (s.arg 16 4) { vf := some vf } s.qps } 0 [])) ∧
     (s.commands n 3 = true →
       (s.mgmt.begun = true → ends (.reset n) s 0 []) ∧
       (s.mgmt.begun = false → answers (exec (.reset n) s) (fun t => t.mgmt.begun = true ∧ t.vfs = (s.vfReset vf).vfs ∧ t.mem = (s.vfReset vf).mem ∧
         t.cells = (s.vfReset vf).cells))) ∧
     (s.commands n 14 = true →
       let sel := s.arg 16 1
       let chosen (e : Nat × Launch) : Prop := e.2.vf = vf ∧ (sel = 0 ∨ e.2.queue = some (sel - 1))
       let wrong := s.arg 17 7 ≠ 0 ∨ 9 ≤ sel ∨ v.cfg.nlq < sel
       (s.mgmt.begun = false → wrong → ends (.lcancel n) s 1 []) ∧
       (s.mgmt.begun = false → ¬wrong → answers (exec (.lcancel n) s) (fun t => t.mgmt.begun = true ∧
         (∀ e ∈ s.launches, chosen e → e.1 ∈ t.mgmt.waitLaunches ∧ ∀ l, t.launchAt e.1 = some l → l.cancelled = true) ∧
         (sel = 0 → (t.vf vf).overflow = []) ∧
         (sel = 0 → (∀ e ∈ s.launches, ¬chosen e) → ∀ raw c, v.overflow = [(raw, c)] →
           let l := Launch.ofHeader vf none 0 raw
           l.hasSem = true → s.resolve vf (l.csem.truncate 8) = none → (t.vf vf).counters.signals = v.counters.signals + 1))) ∧
       (s.mgmt.begun = true → (∀ id ∈ s.mgmt.waitLaunches, s.launchAt id = none) → ends (.lcancel n) s 0 []) ∧
       (s.mgmt.begun = true → (∃ id ∈ s.mgmt.waitLaunches, (s.launchAt id).isSome = true) → exec (.lcancel n) s = .next s)))

/-- R359, R370, R374, R375, R377, R393, R394, R407, R416, R425 to R427, R429: CREATE installs a VF whose record, shape, slices, save area, seed and
queues pass their checks, in that order, with its slices zeroed; DESTROY ends when the VF's reset has, and frees its slices, save area and number;
MEASURE extends a register, which reads take from there; POD sets the coordinates while there is no tenant, QUOTE writes a signed body; SCHED sets
a rotation, switches or releases. Points that the spec leaves to the model or to inference: log entries 54, 55, 57, 68. -/
def Obligations.ManagementCommandsOnTheDevice : Prop :=
  ∀ (s : State) (n : Nat),
    let vf := s.mbVf
    let ends (i : Instr) (t : State) (status : Nat) (results : List (Nat × List Byte)) : Prop := exec i s = .next (t.endCommand status results)
    (s.commands n 1 = true →
      (vf = 0 ∨ 127 < vf ∨ (s.vf vf).live = true → ends (.create n) s 2 []) ∧
      (vf ≠ 0 → vf ≤ 127 → (s.vf vf).live = false →
        (∀ e, s.readVa none 0 0 (s.arg 16 8) 128 = .error e → ends (.create n) s 8 []) ∧
        (∀ raw, s.readVa none 0 0 (s.arg 16 8) 128 = .ok raw →
          let c := VfCfg.parse raw
          let seeds := s.arg 40 4
          let bad := c.ok = false ∨ c.resv < seeds ∨ s.arg 32 8 % frameBytes ≠ 0
          (bad → ends (.create n) s 3 []) ∧
          (¬bad → s.shapeFree c.shape = false → ends (.create n) s 5 []) ∧
          (¬bad → s.shapeFree c.shape = true → s.slicesFree c = false → ends (.create n) s 6 []) ∧
          (¬bad → s.shapeFree c.shape = true → s.slicesFree c = true →
            (s.saveRun (shapeBhs c.shape).length = none → ends (.create n) s 7 []) ∧
            (∀ run seed, s.saveRun (shapeBhs c.shape).length = some run → s.readSeed (s.arg 32 8) seeds = .ok seed →
              ((s.install vf c run seed).openQueues vf = none → ends (.create n) s 3 []) ∧
              (∀ t, (s.install vf c run seed).openQueues vf = some t → ends (.create n) (t.joinGroup vf) 0 [(24, leBytes (run * frameBytes) 8)])))))) ∧
    (∀ (c : VfCfg) (run : Nat),
      let v := (s.install vf c run []).vf vf
      v.live = true ∧ v.cfg = c ∧ v.gen = (s.vf vf).gen ∧ v.semSel = (s.vf vf).semSel ∧ v.held = 0 ∧ v.tasks = [] ∧ v.keyLoaded = false ∧ v.saveBase = run * frameBytes ∧
      ∀ die e x, e ∈ c.frameRuns 0 → e.1 * frameBytes ≤ x → x < (e.1 + e.2) * frameBytes → tget 0 ((s.install vf c run []).mem.view die) x = 0) ∧
    (s.commands n 2 = true → s.mgmt.begun = false → s.tenant vf = true → s.inReset vf = false →
      answers (exec (.destroy n) s) (fun t => t.mgmt.begun = true ∧ t.mem = (s.vfReset vf).mem)) ∧
    (s.commands n 2 = true → s.mgmt.begun = true →
      (s.resetting vf = true → exec (.destroy n) s = .next s) ∧ (s.resetting vf = false → ends (.destroy n) (s.freeVf vf) 0 []) ∧
      (vf ≠ 0 → ((s.freeVf vf).vf vf).live = false ∧ ((s.freeVf vf).vf vf).gen = (s.vf vf).gen ∧ ((s.freeVf vf).vf vf).semSel = (s.vf vf).semSel ∧
        ((s.freeVf vf).vf 0).free = (s.vf 0).free ++ [((s.vf vf).saveBase / frameBytes, 256 * (shapeBhs (s.vf vf).cfg.shape).length)])) ∧
    (s.commands n 10 = true →
      (s.arg 16 1 = 0 ∨ 7 < s.arg 16 1 → ends (.measure n) s 1 []) ∧
      (1 ≤ s.arg 16 1 → s.arg 16 1 ≤ 7 → ends (.measure n)
        (s.setMeasure (s.arg 16 1) (hashNode (s.measure (s.arg 16 1) ++ (s.mgmt.slot.drop 24).take 32))) 0 [])) ∧
    (∀ i k die x, i < 8 → k < 32 → (s.setMeasure i x).measure i = nodeBytes x ∧
      (s.setMeasure i x).byteAt die (0x800 + 32 * i + k) = (nodeBytes x).getD k 0 ∧
      ∀ j, j ≠ i → (s.setMeasure i x).measure j = s.measure j) ∧
    (s.commands n 11 = true →
      let a (o : Nat) : Nat := s.arg o 1
      let bad := a 19 ≠ 0 ∨ a 23 ≠ 0 ∨ 16 < a 20 ∨ 16 < a 21 ∨ 16 < a 22 ∨ a 20 ≤ a 16 ∨ a 21 ≤ a 17 ∨ a 22 ≤ a 18
      (s.tenants ≠ [] → ends (.pod n) s 12 []) ∧ (s.tenants = [] → bad → ends (.pod n) s 1 []) ∧
      (s.tenants = [] → ¬bad → ends (.pod n) { s with pod := some (a 16, a 17, a 18, a 20, a 21, a 22) } 0 [])) ∧
    (s.commands n 9 = true →
      (vf ≠ 0 → s.tenant vf = false → ends (.quote n) s 2 []) ∧
      (vf = 0 ∨ s.tenant vf = true ∧ s.inReset vf = false →
        (16384 < s.boot.blown ∨ 32768 ≤ s.boot.quotes → ends (.quote n) s 11 []) ∧
        (s.boot.blown ≤ 16384 → s.boot.quotes < 32768 → ∀ w t,
          s.writeVa none 0 0 (s.arg 48 8) (s.quoteBody vf ++ hssSignature (sha256 (s.quoteBody vf)) s.boot.blown s.boot.quotes) = .ok (w, t) →
          ends (.quote n) { t with boot := { t.boot with quotes := t.boot.quotes + 1 } } 0 []))) ∧
    (s.commands n 13 = true → s.tenant vf = true → s.inReset vf = false → s.arg 17 3 ≠ 0 →
      (s.arg 16 1 = 0 → ends (.schedSet n) s 1 []) ∧ (s.arg 16 1 = 1 → s.mgmt.waitGroup = none → ends (.schedSwitch n) s 1 []) ∧
      (s.arg 16 1 = 2 → ends (.schedRelease n) s 1 [])) ∧
    (s.commands n 13 = true → s.tenant vf = true → s.inReset vf = false → s.arg 17 3 = 0 →
      let sh := (s.vf vf).cfg.shape.toNat
      let g := s.group sh
      let rot := s.schedRot
      let ok' : List (Nat × List Byte) := [(32, zeros 8)]
      (s.arg 16 1 = 0 →
        let tick := s.arg 20 4
        let dl := s.arg 24 4
        let late := tick < 100 ∨ 1000000 < tick ∨ dl < 10 ∨ tick < 2 * dl
        (late → ends (.schedSet n) s 1 []) ∧
        (¬late → (∃ v ∈ rot, v ∉ g.rotation) → ends (.schedSet n) s 5 []) ∧
        (¬late → (∀ v ∈ rot, v ∈ g.rotation) → ¬(rot.Nodup ∧ rot.length = g.rotation.length) → ends (.schedSet n) s 1 []) ∧
        (¬late → (∀ v ∈ rot, v ∈ g.rotation) → rot.Nodup → rot.length = g.rotation.length →
          ends (.schedSet n) (s.modGroup sh (fun g => { g with next := some (rot, tick, dl) })) 0 ok')) ∧
      (s.mgmt.waitGroup.isSome = true → exec (.schedSwitch n) s = .next s) ∧
      (s.arg 16 1 = 1 → s.mgmt.waitGroup = none →
        (g.rotation.length ≤ 1 → ends (.schedSwitch n) s 0 ok') ∧
        (1 < g.rotation.length → g.switch.isSome = true ∨ g.incoming.isSome = true →
          exec (.schedSwitch n) s = .next { s with mgmt := { s.mgmt with waitGroup := some sh } }) ∧
        (1 < g.rotation.length → g.switch = none → g.incoming = none → s.groupBusy sh = true → exec (.schedSwitch n) s = .next s) ∧
        (1 < g.rotation.length → g.switch = none → g.incoming = none → s.groupBusy sh = false →
          answers (exec (.schedSwitch n) s) (fun t => t.mgmt.waitGroup = some sh ∧ t.mem = s.mem ∧ (t.group sh).nextTick = s.wall + 1000 * g.tick ∧
            ∃ w, (t.group sh).switch = some w ∧ w.out = g.resident ∧ w.inn = g.following ∧ w.deadline = s.wall + 1000 * g.dl ∧ w.saved = []))) ∧
      (s.arg 16 1 = 2 → ends (.schedRelease n) ((upto (s.vf vf).lqs.length).foldl (fun t q => t.releaseQueue vf q) s) 0 ok'))

/-! ### The device as a whole -/

/-- R25, R187, R380, R387, R388, R432: a fault of a bulkhead is reported with its class and resets its resident VF, a second within a second of its
last RESETDONE keeps it in reset, and one of BH0, of the cold plate or of a common block holds every bulkhead until the next boot; an
uncorrectable error poisons its word or register, 16 in a millisecond are a fault of class 2; a corrected one is counted for every VF of whose
shape the bulkhead is, resident or not. R389 to R391: an RDMA operation on a connection of a live VF with its key writes or reads as an access of
that VF, an atomic executes as an l.gatom does and waits while another atomic of its word is still to land, and any other gets a
remote-access-error NAK and puts the connection into its error state, in which it answers nothing; what is not supported is an invalid request;
congestion lowers a connection's rate, a pause stops its priority. Points that the spec leaves to the model or to inference: log entries 59, 62,
71. -/
def Obligations.HazardsAndTheHost : Prop :=
  (∀ (s : State),
     let recorded (t : State) (code vf bh : Nat) (detail : List Byte) : Prop :=
       let tail := s.mgmtWord 0x908
       (tail + 2 ^ 64 - s.mgmtWord 0x900) % 2 ^ 64 < 4096 → t.mgmtWord 0x908 = (tail + 1) % 2 ^ 64 ∧
         bytesAt (t.mem.view 0) (0x1000 + 32 * (tail % 4096)) 32 = eventBytes code vf bh s.wall detail
     let allHeld (t : State) : Prop := t.boot.rom = true ∧ t.launches.all (fun e => !(s.vf e.2.vf).live) = true ∧
       ∀ b, b < 64 → (t.bh b).held = true ∧ (t.bh b).gateClosed = true
     (∀ b cls, 64 ≤ b → exec (.bhfault b cls) s = .next s) ∧
     (∀ cls, answers (exec (.bhfault 0 cls) s) allHeld) ∧
     (∀ b cls, 0 < b → b < 64 → (∀ vf, (s.cell (2 * b)).vf = some vf → b ∈ shapeBhs (s.vf vf).cfg.shape) → answers (exec (.bhfault b cls) s) (fun t =>
       (t.bh b).gateClosed = true ∧ (t.bh b).resetEnd.isSome = true ∧ (t.bh b).errors = [] ∧ ((s.bh b).held = true → (t.bh b).held = true) ∧
       ∀ d, (s.bh b).lastDone = some d → s.wall < d + 1000000000 → (t.bh b).held = true)) ∧
     answers (exec .thermal s) (fun t => recorded t 1 0xFF 0xFF [] ∧ t.cells = s.cells) ∧
     answers (exec .coldPlateCritical s) allHeld ∧
     answers (exec .commonBlockError s) allHeld ∧
     (∀ p, placeExists p = false → exec (.uncorrectableError p) s = .next s) ∧
     (∀ w, 8 * w < 128 * sliceFrames * frameBytes → answers (exec (.uncorrectableError (.device w)) s) (fun t =>
       t.mem = { s.mem with poison := tput w true s.mem.poison } ∧ t.cells = s.cells)) ∧
     (∀ p b, placeExists p = true → placeBh p = some b →
       let recent := ((s.bh b).errors.filter (fun e => decide (s.wall < e + 1000000))).length
       (15 ≤ recent → exec (.uncorrectableError p) s = .next ((s.poisonAt p).bhFault b 2)) ∧
       (recent < 15 → answers (exec (.uncorrectableError p) s) (fun t => t.mem = s.mem ∧ t.vfs = s.vfs ∧
         (∀ c w, p = .scratch c w → tget false (t.cell c).spoison w = true ∧ (t.cell c).scratch = (s.cell c).scratch ∧
           ∀ x, x ≠ w → tget false (t.cell c).spoison x = tget false (s.cell c).spoison x) ∧
         (∀ d w, p = .landing d w → tget false (t.landing d (w / 8192)).poison (w % 8192) = true) ∧
         (∀ c k, p = .tile c k → ((t.cell c).tile k).poison = true ∧ ((t.cell c).tile k).st = ((s.cell c).tile k).st) ∧
         (∀ c k, p = .acc c k → ((t.cell c).acc k).poison = true ∧ ((t.cell c).acc k).dpoison = ((s.cell c).acc k).dpoison) ∧
         (∀ c k, p = .deckle c k → ((t.cell c).acc k).dpoison = true ∧ ((t.cell c).acc k).poison = ((s.cell c).acc k).poison)))) ∧
     (∀ b, answers (exec (.correctedError b) s) (fun t => t.mem = s.mem ∧ t.cells = s.cells ∧ ∀ vf, (t.vf vf).counters =
       if (s.vf vf).live = true ∧ b ∈ shapeBhs (s.vf vf).cfg.shape then
         { (s.vf vf).counters with corrected := (s.vf vf).counters.corrected + 1 } else (s.vf vf).counters))) ∧
  (∀ (s : State) (qp vf : Nat) (rkey : BitVec 32) (va n : Nat) (data : List Byte) (x y : Dword), s.boot.rom = false →
     let words : List Instr := [.rdmaWrite qp rkey va data, .rdmaRead qp rkey va n] ++
       (if va % 8 = 0 then [.rdmaCompareAndSwap qp rkey va x y, .rdmaFetchAndAdd qp rkey va x] else [])
     let admitted := (s.qp qp).err = false ∧ (s.qp qp).vf = some vf ∧ (s.vf vf).live = true ∧ (s.vf vf).cfg.rkey = rkey ∧ s.inReset vf = false
     let old (pa : Nat) : Dword := s.homeWord pa
     let atomic (i : Instr) (f : Dword → Dword) : Prop := ∀ pg pa, s.pages none vf (portDie qp) va 8 .at = .ok pg → (∀ e ∈ pg, ∃ q, e.2 = .frame q) →
       paOf pg va = some pa → s.mem.poisoned pa = false →
       (s.wordHeld pa = true → exec i s = .next s) ∧
       (s.wordHeld pa = false → (∀ k, k < 8 → mgmtWritable (pa + k) = true) → answers (exec i s) (fun t => t.out = s.out ++ [.data qp (le8 (old pa))] ∧
         bytesAt t.mem.home pa 8 = le8 (f (old pa)) ∧ ∀ a, (a < pa ∨ pa + 8 ≤ a) → tget 0 t.mem.home a = tget 0 s.mem.home a))
     ((s.qp qp).err = true → ∀ i ∈ words, exec i s = .next s) ∧
     ((s.qp qp).err = false → (∀ v, (s.qp qp).vf = some v → (s.vf v).live = false ∨ (s.vf v).cfg.rkey ≠ rkey ∨ s.inReset v = true) → ∀ i ∈ words,
       answers (exec i s) (fun t => t.out = s.out ++ [.nakAccess qp] ∧ (t.qp qp).err = true ∧ t.mem = s.mem ∧ t.cells = s.cells)) ∧
     (admitted →
       (data = [] → exec (.rdmaWrite qp rkey va data) s = .next { s with out := s.out ++ [.ack qp] }) ∧
       (data ≠ [] → ∀ w t, s.writeVa none vf (portDie qp) va data = .ok (w, t) →
         exec (.rdmaWrite qp rkey va data) s = .next { t with acks := t.acks ++ [(qp, [w])] }) ∧
       (n ≠ 0 → ∀ l, s.readVa none vf (portDie qp) va n = .ok l → exec (.rdmaRead qp rkey va n) s = .next { s with out := s.out ++ [.data qp l] }) ∧
       (n = 0 → exec (.rdmaRead qp rkey va n) s = .next { s with out := s.out ++ [.data qp []] }) ∧
       (n ≠ 0 → ∀ e, s.readVa none vf (portDie qp) va n = .error e → answers (exec (.rdmaRead qp rkey va n) s) (fun t =>
         t.out = s.out ++ [.nakAccess qp] ∧ (t.qp qp).err = true)) ∧
       (va % 8 = 0 → atomic (.rdmaCompareAndSwap qp rkey va x y) (fun w => if w = x then y else w) ∧
         atomic (.rdmaFetchAndAdd qp rkey va x) (fun w => w + x))) ∧
     (va % 8 ≠ 0 → exec (.rdmaCompareAndSwap qp rkey va x y) s = .next { s with out := s.out ++ [.nakInvalid qp] } ∧
       exec (.rdmaFetchAndAdd qp rkey va x) s = .next { s with out := s.out ++ [.nakInvalid qp] }) ∧
     exec (.rdmaUnsupported qp) s = .next { s with out := s.out ++ [.nakInvalid qp] } ∧
     answers (exec (.congestionNotificationPacket qp) s) (fun t => (t.qp qp).rate ≤ (s.qp qp).rate ∧ (t.qp qp).vf = (s.qp qp).vf ∧ t.mem = s.mem) ∧
     (∀ (prio : BitVec 3) (pause : Bool), answers (exec (.priorityFlowControlPause prio pause) s) (fun t =>
       t.paused.getLsbD prio.toNat = pause ∧ (∀ k, k < 8 → k ≠ prio.toNat → t.paused.getLsbD k = s.paused.getLsbD k) ∧ t.mem = s.mem)))

/-- R392, R393, R395: nothing survives a loss of power but the fuses, and after it the boot ROM waits for an image; it accepts one whose key hashes to
the fused hash, whose LMS signature verifies over the SHA-256 of its body and whose version is at or above the fused minimum, blows the next fuse,
measures the body and the firmware's configuration into M0 and M1 and brings the device up as after reset, or writes a nonzero status; power that
is on stays on. R189, R301, R384, R386, R417: the reset of a VF that is not resident leaves every cell alone; a VF reset invalidates the map and
frees the semaphores, empties its tasks, launches and lists, returns the frames that it held, zeroed, to the tail of its free list, counts the
responses that come too late, revokes the window entries that name it and advances its generation; a bulkhead's scrub frees each handle, advances
its generation, zeroes scratch and landings and closes the gate, which opens again when the reset completes, with RESETDONE, and ends a SCHED op 1
whose switch the reset has called off; a partition reset that is due keeps memory, map and allocator. Points that the spec leaves to the model or
to inference: log entries 10, 31, 32, 33, 57, 58, 60, 68, 71. -/
def Obligations.PowerBootAndResets : Prop :=
  (∀ (s : State),
     let fuses (b : Boot) : BitVec 256 × Nat × Nat := (b.keyHash, b.minVersion, b.blown)
     let empty (t : State) : Prop := t.cells = [] ∧ t.vfs = [] ∧ t.mem = {} ∧ t.bhs = [] ∧ t.sems = [] ∧ t.launches = [] ∧ t.groups = [] ∧ t.qps = [] ∧
       t.mgmt = {} ∧ t.pod = none ∧ t.wall3 = 0 ∧ fuses t.boot = fuses s.boot ∧ ∀ i, i < 8 → t.measure i = nodeBytes 0
     (∀ l, s.imageOk l = true ↔ ofBe (sha256 (Config.imageKey l)) = s.boot.keyHash.toNat ∧
       lmsVerify (Config.imageKey l) (sha256 (Config.imageBody l)) (Config.imageSignature l) = true ∧ s.boot.minVersion ≤ Config.imageVersion l) ∧
     answers (exec .powerOff s) (fun t => empty t ∧ t.boot.power = false) ∧
     (s.boot.power = true → exec .powerOn s = .next s) ∧
     (s.boot.power = false → answers (exec .powerOn s) (fun t => empty t ∧ t.boot.power = true ∧ t.boot.rom = true ∧ t.boot.quotes = 0)) ∧
     (s.boot.rom = false ∨ leRead (s.mem.view 0) (bootBuffer + 8) 8 ≠ 1 → exec .bootImageSubmit s = .next s) ∧
     (s.boot.rom = true → leRead (s.mem.view 0) (bootBuffer + 8) 8 = 1 →
       (s.imageOk s.bootImage = true → answers (exec .bootImageSubmit s) (fun t => t.boot.rom = false ∧ t.boot.blown = s.boot.blown + 1 ∧
         t.boot.quotes = 0 ∧ t.cells = State.reset.cells ∧ t.vfs = State.reset.vfs ∧ t.wall3 = 0 ∧ t.pod = none ∧
         t.measure 0 = nodeBytes (hashNode (Config.imageBody s.bootImage)) ∧ t.measure 1 = nodeBytes (hashNode Config.firmware) ∧
         ∀ i, 2 ≤ i → i < 8 → t.measure i = nodeBytes 0)) ∧
       (s.imageOk s.bootImage = false → answers (exec .bootImageSubmit s) (fun t => t.boot = s.boot ∧ t.cells = s.cells ∧
         leRead (t.mem.view 0) (bootBuffer + 16) 8 ≠ 0 ∧
         ∀ a, (a < bootBuffer + 16 ∨ bootBuffer + 24 ≤ a) → tget 0 (t.mem.view 0) a = tget 0 (s.mem.view 0) a)))) ∧
  ((∀ (s : State) (vf : Nat),
     let t := s.vfReset vf
     let v := t.vf vf
     let c := (s.vf vf).cfg
     v.semMap = [] ∧ v.tasks = [] ∧ v.overflow = [] ∧ v.tier = [] ∧ v.keyLoaded = false ∧ v.held = 0 ∧ v.cfg = c ∧ v.semSel = (s.vf vf).semSel ∧
     v.free = (s.vf vf).free ++ (s.vf vf).free.foldl cutRuns (c.frameRuns c.resv) ∧ (∀ x ∈ t.sigs, (s.vf vf).mapsSem x.ps = false) ∧
     v.counters.stale = (s.vf vf).counters.stale + ((s.cells.filter (fun e => e.2.vf == some vf)).map (fun e =>
       (e.2.ops.filter Op.toMemory).length)).foldl (· + ·) 0 ∧
     v.gen = (s.vf vf).gen + 1 ∧ v.saved = none ∧ (∀ q ∈ v.lqs, q.held = true ∧ q.waiting = [] ∧ q.busy = false) ∧
     (∀ e ∈ t.launches, e.2.vf ≠ vf) ∧ (∀ p ∈ t.posts, p.vf ≠ vf) ∧
     (∀ e ∈ t.bhs, ∀ w ∈ e.2.windows, ¬(wnValid w.2 = true ∧ wnVf w.2 = vf)) ∧
     (∀ die e x, e ∈ c.frameRuns c.resv → e.1 * frameBytes ≤ x → x < (e.1 + e.2) * frameBytes → 0x40000 ≤ x → tget 0 (t.mem.view die) x = 0) ∧
     (s.isResident vf = false → t.cells = s.cells)) ∧
   (∀ (x : Cell) (h : Nat), x.scrub.scratch = [] ∧ x.scrub.strands = [] ∧ x.scrub.tiles = [] ∧ x.scrub.accs = [] ∧ x.scrub.ops = [] ∧ x.scrub.msgs = [] ∧
     x.scrub.closed = true ∧ x.scrub.vf = x.vf ∧ (h < 512 → (x.scrub.entry h).used = false ∧ (x.scrub.entry h).gen = (x.entry h).gen + 1)) ∧
   (∀ (x : Bh) (ends n : Nat), (x.scrub ends).gateClosed = true ∧ (x.scrub ends).resetEnd = some ends ∧ (x.scrub ends).windows = x.windows ∧
     (n < 32 → let l := tget ({} : Landing) (x.scrub ends).landings n
       l.used = false ∧ l.bytes = [] ∧ l.gen = (tget ({} : Landing) x.landings n).gen + 1)) ∧
   (∀ (s : State) (b : Nat), b < 64 →
     ((s.bh b).resetEnd = none ∨ (s.bh b).held = true → exec (.bulkheadResetComplete b) s = .next s) ∧
     ((s.bh b).resetEnd.isSome = true → (s.bh b).held = false → answers (exec (.bulkheadResetComplete b) s) (fun t =>
       (t.bh b).gateClosed = false ∧ (t.bh b).resetEnd = none ∧ (t.bh b).lastDone = some s.wall ∧
       (t.cell (2 * b)).closed = false ∧ (t.cell (2 * b + 1)).closed = false ∧ (t.cell (2 * b)).vf = (s.cell (2 * b)).vf ∧
       ∀ vf, (s.cell (2 * b)).vf = some vf →
         let sh := (s.vf vf).cfg.shape
         (∀ k ∈ shapeBhs sh, k ≠ b → (s.bh k).resetEnd = none ∧ (s.bh k).held = false) → s.mgmt.run.isSome = true →
           s.mgmt.waitGroup = some sh.toNat → (s.group sh.toNat).switch = none → (s.group sh.toNat).incoming = none → t.mgmt.run = none))) ∧
   (∀ (s : State) (vf : Nat), ((s.vf vf).presetDue = false → exec (.partitionReset vf) s = .next s) ∧
     ((s.vf vf).presetDue = true → answers (exec (.partitionReset vf) s) (fun t => (t.vf vf).presetDue = false ∧
       (∀ die x, 0x40000 ≤ x → tget 0 (t.mem.view die) x = tget 0 (s.mem.view die) x) ∧
       (t.vf vf).gen = (s.vf vf).gen + 1 ∧ (t.vf vf).semMap = (s.vf vf).semMap ∧ (t.vf vf).free = (s.vf vf).free ∧ (t.vf vf).held = (s.vf vf).held ∧
       (t.vf vf).key = (s.vf vf).key ∧ (t.vf vf).peers = (s.vf vf).peers ∧ (t.vf vf).tasks = [] ∧ (∀ e ∈ t.launches, e.2.vf ≠ vf) ∧
       (∀ q ∈ (t.vf vf).lqs, q.replay = true)))))

/-- R130, R407 to R409, R413 to R415: a tick begins a switch when another VF waits and no reset is under way: every strand that is not idle gets a
request, every cell its deadline; a strand with nothing left to do stops; a cell closes: its clock stops, its results are written, its strands'
operations are complete, a strand that has not stopped records PREEMPT, and it chooses for its tasks; a die whose cells have settled copies its
dirty stripes and landings and its core images, again what changes meanwhile, in the time that 400 GB/s gives, before the deadline; a missed
deadline rolls back, at the third miss in a row the VF is reset; a restore begins when every die has saved, and a core image that is not valid
gives reset values. Points that the spec leaves to the model or to inference: log entries 34, 35. -/
def Obligations.SwitchesSaveAndRestore : Prop :=
  ∀ (s : State) (sh : Nat),
    let g := s.group sh
    (g.rotation = [] ∨ s.wall < g.nextTick → exec (.switchTick sh) s = .next s) ∧
    (g.next = none → 2 ≤ g.rotation.length → g.nextTick ≤ s.wall → g.switch = none → s.groupBusy sh = false →
      answers (exec (.switchTick sh) s) (fun t => t.mem = s.mem ∧ (t.group sh).nextTick = s.wall + 1000 * g.tick ∧
        (∃ w, (t.group sh).switch = some w ∧ w.out = g.resident ∧ w.inn = g.following ∧ w.deadline = s.wall + 1000 * g.dl ∧ w.saved = []) ∧
        ∀ c ∈ groupCells sh, (t.cell c).dl = BitVec.ofNat 48 (s.wall + 1000 * g.dl) ∧
          ∀ sc, (s.strand c sc).st ≠ .idle → (t.strand c sc).swReq = true)) ∧
    (g.rotation ≠ [] → g.nextTick ≤ s.wall → s.maySwitch sh = false → g.next = none → answers (exec (.switchTick sh) s) (fun t =>
      t.cells = s.cells ∧ (t.group sh).nextTick = s.wall + 1000 * g.tick ∧ (t.group sh).switch = g.switch)) ∧
    (∀ c sc,
      let st := s.strand c sc
      let stops := st.swReq = true ∧ st.swStop = false ∧ st.trap = none ∧
        (st.st = .dormant ∨ (st.st = .running ∧ (st.sleepEnd.isSome = true ∨ st.swHalt = true) ∧ s.drained c sc = true))
      (stops → answers (exec (.strandSwitchStop c sc) s) (fun t => t.strand c sc = { st with swStop := true } ∧ t.mem = s.mem)) ∧
      (¬stops → exec (.strandSwitchStop c sc) s = .next s)) ∧
    (∀ c, ((s.cell c).dl = 0 ∨ (s.cell c).closed = true ∨ (s.cell c).vf = none → exec (.cellClose c) s = .next s) ∧
      ((s.cell c).dl ≠ 0 → (s.cell c).closed = false → (s.cell c).vf.isSome = true → exec (.cellClose c) s = .next (s.closeCell c)) ∧
      let t := s.closeCell c
      let simple (o : Op) : Prop := o.isWait = false ∧ ∀ idx off da db d, o.body ≠ .barUpdate idx off da db d
      (t.cell c).closed = true ∧ (t.cell c).vf = (s.cell c).vf ∧ (t.cell c).time = (s.cell c).time ∧
      ((s.cell c).vf.isSome = true → (t.cell c).choice.isSome = true) ∧
      (∀ sc, sc < 4 → (t.strand c sc).pend = []) ∧
      (∀ sc, (s.strand c sc).st = .running → (s.strand c sc).swStop = false → (t.strand c sc).stopCode = some Code.preempt) ∧
      ((∀ o ∈ s.ops c, o.kept = true ∨ simple o) → ∀ o ∈ t.ops c, o.kept = true ∨ o.due ≤ (t.cell c).time)) ∧
    (∀ c v, (s.cell c).vf = some v →
      let t := s.choose c
      let chosen (k : SwitchChoice) : State := s.modCell c (fun x => { x with choice := some k })
      let fits (x : State) (lead : Nat) : Prop := s.wall + lead + x.copyNs v (dieOf c) ≤ (s.cell c).dl.toNat
      let drains := ∃ n, s.drainCc v c = some n ∧ fits (chosen .drain) (ceilDiv (2 * n) 3)
      (drains → t = chosen .drain) ∧ (¬drains → fits (chosen .save) scanNs → t = chosen .save) ∧
      (¬drains → (t.cell c).choice ≠ some .discard → t = chosen .save) ∧
      t.ops c = s.ops c ∧ t.mem = s.mem ∧
      (((s.vf v).tasks.map Prod.fst).Nodup → ∀ n, t.task v n = s.task v n ∨ ∃ x, s.task v n = some x ∧ x.leavable = true ∧
        t.task v n = some { x with run := none, flags := 0 })) ∧
    (∀ die w, g.switch = some w →
      let cs := (groupCells sh).filter (fun c => dieOf c == die)
      let may := cs ≠ [] ∧ s.wall ≤ w.deadline ∧ ∀ c ∈ cs, s.settled c = true
      let fresh := (tfind die w.begun).isSome = true ∧ ∀ c ∈ cs, s.copied w.out c = true
      (¬may → exec (.yarderSave sh die) s = .next s) ∧
      (may → ¬fresh → s.yarderBusy sh die = true → exec (.yarderSave sh die) s = .next s) ∧
      (may → ¬fresh → s.yarderBusy sh die = false → answers (exec (.yarderSave sh die) s) (fun t =>
        (∃ y z, (t.group sh).switch = some y ∧ y.out = w.out ∧ y.inn = w.inn ∧ y.deadline = w.deadline ∧ die ∉ y.saved ∧
          (∀ d, d ≠ die → (d ∈ y.saved ↔ d ∈ w.saved)) ∧ tfind die y.begun = some z ∧ s.wall + s.copyNs w.out die ≤ z) ∧
        ∀ c ∈ cs, (t.cell c).dirty = [] ∧ (t.cell c).scratch = (s.cell c).scratch ∧ t.copied w.out c = true)) ∧
      (may → fresh → (die ∈ w.saved ∨ s.wall < tget 0 w.begun die → exec (.yarderSave sh die) s = .next s) ∧
        (die ∉ w.saved → tget 0 w.begun die ≤ s.wall →
          answers (exec (.yarderSave sh die) s) (fun t => (t.group sh).switch = some { w with saved := w.saved ++ [die] } ∧
            t.mem = s.mem ∧ t.cells = s.cells)))) ∧
    (∀ v c,
      let k := s.coreImage v c
      let t := s.saveCore v c
      k.size ≤ 0xFF000 ∧ (c < 128 → bytesAt (t.mem.view (dieOf c)) (t.coreAt v c) k.size = k.bytes) ∧ tfind c (t.vf v).valid.cores = some k ∧
      (tfind c (s.vf v).valid.cores = none → s.fromCore v c = ({}, [])) ∧
      (∀ y, tfind c (s.vf v).valid.cores = some y → bytesAt (s.mem.view (dieOf c)) (s.coreAt v c) y.size = y.bytes →
        (s.fromCore v c).1 = tget {} ((s.vf v).saved.getD {}).cells c)) ∧
    (∀ w, g.switch = some w →
      let complete := s.saveComplete sh w = true
      (complete ↔ (∀ d ∈ groupDies sh, d ∈ w.saved) ∧ ∀ c ∈ groupCells sh, s.copied w.out c = true) ∧
      (s.wall < w.deadline ∨ complete → exec (.saveDeadline sh) s = .next s) ∧
      (w.deadline ≤ s.wall → ¬complete → s.misses w.out < 2 → answers (exec (.saveDeadline sh) s) (fun t =>
        (t.group sh).switch = none ∧ (t.group sh).resident = g.resident ∧ t.misses w.out = s.misses w.out + 1 ∧
        ∀ c ∈ groupCells sh, (t.cell c).closed = false ∧ (t.cell c).dl = 0)) ∧
      (w.deadline ≤ s.wall → ¬complete → 2 ≤ s.misses w.out → answers (exec (.saveDeadline sh) s) (fun t =>
        (t.group sh).switch = none ∧ (t.group sh).resident = w.inn ∧ (t.group sh).incoming = some w.inn ∧
        ∀ c ∈ groupCells sh, (t.cell c).vf = none)) ∧
      (¬complete → exec (.restore sh) s = .next s) ∧
      (complete → answers (exec (.restore sh) s) (fun t => (t.group sh).resident = w.inn ∧ (t.group sh).switch = none ∧ (t.group sh).incoming = none ∧
        ∀ c ∈ groupCells sh, (t.cell c).vf = some w.inn ∧ (t.cell c).closed = false ∧ (t.cell c).dl = 0))) ∧
    (g.switch = none → ∀ v, g.incoming = some v →
      let busy := ∃ b ∈ shapeBhs (BitVec.ofNat 16 sh), (s.bh b).resetEnd.isSome = true ∨ (s.bh b).held = true
      (busy → exec (.restore sh) s = .next s) ∧ (¬busy → answers (exec (.restore sh) s) (fun t => (t.group sh).resident = v ∧
        ∀ c ∈ groupCells sh, (t.cell c).vf = some v)))

/-! ### Every form completes -/

/-- R44, R94, R99, R153 to R155, R163, R169, R171 to R183, R279, R281: the words of S that read or write a system register, those of V that reduce,
scan, convert, pack, unpack, scale, draw, check or work on masks, and all words of X issue whenever their sources hold what they read, their
queues have room and no poison meets a word that faults on it: they leave their queue, change no register then and have their results in flight
for their latency. b.post, b.tdec and b.cancel issue on every operand in their range and put their request on its way. Points that the spec leaves
to the model or to inference: log entry 67. -/
def Obligations.RegisterAndTaskWordsComplete : Prop :=
  ∀ (s : State) (g : Guard) (a b d : BitVec 5) (c : BitVec 4) (n m p q : BitVec 3) (o : BitVec 2) (r u w : BitVec 6) (sr : BitVec 12) (wide : Bool),
    let yields (i : Instr) (lat occ : Nat) : Prop := answers (exec i s) (fun t => s.sameBut t ∧ s.issued t occ ∧ t.me.sameRegs s.me ∧
      t.me.trap = s.me.trap ∧ ∃ new, t.me.pend = s.me.pend ++ new ∧ ∀ x ∈ new, x.due = s.now + lat)
    (s.plain →
      (vsrcReady s.me [a] = true →
        ((s.vpopped [a]).room r = true →
          yields (.vRedsum g r a) 14 2 ∧ yields (.vRedmax g r a) 8 2 ∧ yields (.vRedmaxi g r a) 8 2 ∧ yields (.vRedmin g r a) 8 2) ∧
        yields (.vScan g d a o) 16 4 ∧
        ((cvtTarget c.toNat).isSome = true → yields (.vCvt g false d wide a c) 6 1) ∧
        (n ≠ 0 → yields (.vPack g false d a n) 6 1 ∧ yields (.vUnpk g false d a n) 6 1) ∧
        ((s.me.readV a).tag = none → yields (.vChk g a) 1 1) ∧
        ∀ i ∈ [Instr.xExp2 g d a, .xLog2 g d a, .xRcp g d a, .xRsqrt g d a, .xSqrt g d a, .xTanh g d a, .xSigm g d a], yields i 12 4) ∧
      (vsrcReady s.me [a, b] = true → yields (.vScal g false d a b) 6 1) ∧
      (s.sources [u, w] → yields (.vDraw g d u w) 16 4) ∧
      yields (.vMand g m p q) 1 1 ∧ yields (.vMor g m p q) 1 1 ∧ yields (.vMnot g m p) 1 1 ∧
      (s.room r = true → yields (.vMpop g r p) 1 1)) ∧
    (s.granted g → s.unprefixed →
      (¬(0x040 ≤ sr.toNat ∧ sr.toNat ≤ 0x043) ∨ s.vfOf s.cur.cell = 0 →
        (s.room r = true → yields (.sRdsr g r sr) 2 1) ∧ (s.sources [r] → yields (.sWrsr g r sr) 1 1)) ∧
      let x := s.sval u
      let base := (s.vf (s.vfOf s.cur.cell)).cfg.tasks
      let sends (i : Instr) (P : State → Prop) : Prop := answers (exec i s) (fun t => s.issued t 1 ∧ t.me.trap = s.me.trap ∧ t.mem = s.mem ∧ P t)
      (s.sources [u] →
        (x.toNat % 64 = 0 → base ≤ x.toNat → x.toNat < base + 64 * 65535 → sends (.bPost g u) (fun t =>
          ∃ y, t.posts = s.posts ++ [y] ∧ y.va = x ∧ y.vf = s.vfOf s.cur.cell ∧ y.cell = s.cur.cell ∧ y.sc = s.cur.sc)) ∧
        (x.toNat ≤ 65534 → sends (.bTdec g u) (fun t =>
          ∃ y, t.tdecs = s.tdecs ++ [y] ∧ y.n = x.toNat ∧ y.vf = s.vfOf s.cur.cell ∧ y.cell = s.cur.cell ∧ y.sc = s.cur.sc))) ∧
      (s.sources [u, w] → x.toNat < 2 ^ 20 → s.sval w = 0xFFFF → sends (.bCancel g u w) (fun t =>
        ∃ y, t.cancels = s.cancels ++ [y] ∧ y.branch = x.truncate 20 ∧ y.sem = none ∧ y.vf = s.vfOf s.cur.cell ∧ y.cell = s.cur.cell ∧ y.sc = s.cur.sc)))

/-- R44, R93, R99, R194 to R207, R285, R292, R302 to R309, R323 to R325, R331 to R335: every word of L issues when its handle is live or its address
canonical, its access aligned and inside, its sources there, a buffer entry free and its window open: it leaves its queue without a trap, and its
operation, of the issuing strand, is in flight with the address that the rule gives. l.hnew and l.hinfo give their result; l.pref has no result.
Points that the spec leaves to the model or to inference: log entry 23. -/
def Obligations.MemoryWordsComplete : Prop :=
  ∀ (s : State) (g : Guard) (d a b c : BitVec 6) (v : BitVec 5) (k : BitVec 5) (t : BitVec 4) (o j n : BitVec 3) (kind : BitVec 2) (x y : Bool),
    s.granted g →
    let goes (i : Instr) (P : Op → Prop) : Prop := answers (exec i s) (fun t => t.cur = s.cur ∧ t.me.engq s.cur.eng = (s.me.engq s.cur.eng).tail ∧
      t.me.trap = s.me.trap ∧ ∃ q, (t.ops s.cur.cell).getLast? = some q ∧ q.sc = s.cur.sc ∧ q.eng = s.cur.eng ∧ q.ent = s.cur.ent ∧ P q)
    let h := s.sval a
    let off := s.sval b + disp s.cur.ent
    let at' (z : Dword) (q : Op) : Prop := q.addr = some z
    let fits (e : TEntry) (z : Dword) (len align : Nat) : Prop := z.toNat % align = 0 ∧ 0 ≤ z.toInt ∧ z.toNat + len ≤ tdSize e.desc
    let tileFits (td : Dword) (bt col : Bool) : Prop :=
      let w := blockBytes (tdFmt td) (tdPl td + 1)
      tdFmt td ∉ ([0, 8, 11] : List Nat) ∧ ¬(col = true ∧ tdScaled td = true) ∧ off.toNat % tdRb td % w = 0 ∧
      (bt = true → off.toNat / tdRb td % 64 = 0 ∧ tdBd td = true) ∧ 0 ≤ off.toInt ∧ off.toNat / tdRb td + 64 ≤ tdRows td ∧
      off.toNat % tdRb td + w ≤ tdRb td
    let atom := a :: atomSources o j
    let va := s.sval (k.zeroExtend 6) + disp s.cur.ent
    let canonical (z : Dword) (align : Nat) : Prop := z.toNat % align = 0 ∧ z.toNat < 2 ^ 60
    (∀ e, s.cellHandle s.cur.cell h = some e →
      (tdLvl e.desc = 0 →
        (s.sources [a, b] → (s.popped [a, b]).room d = true → fits e off 8 8 → goes (.lLds g d a b) (at' off)) ∧
        (s.sources [a, b, d] → fits e off 8 8 → goes (.lSts g d a b) (at' off)) ∧
        (s.sources [a, b] → isY v = false → fits e off 256 4 → goes (.lLdvs g v a b) (at' off)) ∧
        (s.sources [a, b] → s.vsources [v] → fits e off 256 4 → goes (.lStvs g v a b) (at' off)) ∧
        (o ≠ 7 → s.sources (a :: b :: atomSources o j) → hdLvl h = 0 → fits e off 8 8 → goes (.lAtom g o j a b) (at' off)) ∧
        (s.sources [a, b] → (s.here.tile t.toNat).st = .empty → tileFits e.desc x y → goes (.lLdt g x y t a b) (at' off)) ∧
        (fenceReady s false = true → fits e off 16 16 → s.windowOk e.peer .barrier = true →
          (s.sources [a, b] → (s.popped [a, b]).room d = true → goes (.lBarr g d a b) (at' off)) ∧
          (s.sources [a, b, d] → goes (.lBare g d a b) (at' off))) ∧
        (s.sources [a, b, d] → fits e off 16 16 → s.windowOk e.peer .look = true → goes (.lBarw g d a b) (at' off))) ∧
      (tdLvl e.desc = 2 → hdLvl h = 2 → o ≠ 7 → s.sources atom → fits e (disp s.cur.ent) 8 8 → s.landingFree = true →
        s.windowOk e.peer .atomic = true → goes (.lRatom g o j a c) (at' (disp s.cur.ent))) ∧
      (s.unprefixed → s.sources [a] → goes (.lHfree g a) (fun q => q.body = .hfree (.scratch s.cur.cell (hdIdx h)))) ∧
      (s.unprefixed → s.sources [a] → (s.popped [a]).room d = true → s.landHandle s.cur.cell h = none →
        exec (.lHinfo g d a 0) s = .next (s.gave [a] 2 1 (.s d { val := e.desc })))) ∧
    (∀ l, s.landHandle s.cur.cell h = some l →
      (s.sources [a, b] → (s.here.tile t.toNat).st = .empty → tileFits l.desc x y → goes (.lLdl g x y t a b) (at' off)) ∧
      (s.unprefixed → s.sources [a] → goes (.lRel g a) (fun q => q.body = .hfree (.landing (bhOf s.cur.cell) (hdIdx h))))) ∧
    (s.unprefixed → tdLvl h ≠ 2 → s.sources [a] → (s.popped [a]).room d = true → descOk h = true → ∃ z ok' u, exec (.lHnew g d a n) s =
      .next (((State.result u 4 (.s d z)).result 4 (.p n ok')).retire 2) ∧ u.me.trap = s.me.trap ∧ u.cur = s.cur) ∧
    (s.sources [k.zeroExtend 6] → s.landingFree = true →
      ((s.popped [k.zeroExtend 6]).room d = true → canonical va 8 → goes (.lLdg g d x k c) (at' va)) ∧
      (isY v = false → canonical va 4 → goes (.lLdvg g v x k c) (at' va)) ∧
      ((s.here.tile t.toNat).st = .empty → canonical va 64 → goes (.lLdtg g y t x k c) (at' va)) ∧
      (s.unprefixed → (s.here.tile t.toNat).st = .empty → (s.sval (k.zeroExtend 6)).toNat % 64 = 0 →
        goes (.lLdk g y t x k c) (at' (s.sval (k.zeroExtend 6))))) ∧
    (o ≠ 7 → s.sources atom → s.landingFree = true → canonical (s.sval a + disp s.cur.ent) 8 →
      goes (.lGatom g o j a c) (at' (s.sval a + disp s.cur.ent))) ∧
    (s.sendFree = true →
      let z := s.sval a + s.sval b + disp s.cur.ent
      (s.sources [a, b, d] → canonical z 8 → goes (.lStg g d a b) (at' z)) ∧
      (s.sources [a, b] → s.vsources [v] → canonical z 4 → goes (.lStvg g v a b) (at' z)) ∧
      (s.unprefixed → s.sources [a] → s.vsources [v] → goes (.lStk g x v a) (at' h)) ∧
      (s.unprefixed → s.sources [a] → (s.popped [a]).room d = true → goes (.lKfork g d a) (at' h)) ∧
      (s.unprefixed → s.sources [a] → goes (.lKfree g a) (at' h))) ∧
    (srcReady s.me [a, b] = true → answers (exec (.lPref g a b) s) (fun t => s.issued t 1 ∧ t.me.trap = s.me.trap ∧ t.mem = s.mem)) ∧
    (s.unprefixed → n.toNat < 5 →
      (kind ≠ 3 → fenceReady s (kind != 1) = true → goes (.lFence g kind n) (fun q => ∃ z, q.body = .fence z none)) ∧
      (fenceReady s true = true → goes (.lTfence g n) (fun q => ∃ z, q.body = .fence z (some n.toNat))))

/-- R44, R93, R99, R209 to R237, R239 to R253: every word of M issues when its side is the strands', its registers are full, its arrays, paths and
accumulators are free, nothing it uses is poisoned and its entry, shape, place and handle are in order: it leaves its queue without a trap, with
its operation in flight or its effect on the cell. -/
def Obligations.MatWordsComplete : Prop :=
  ∀ (s : State) (g : Guard) (code : BitVec 5) (k i j : BitVec 4) (n : BitVec 3) (m : BitVec 8) (y : BitVec 2) (x1 x2 : Bool) (d a b : BitVec 6), s.granted g →
    let x := s.here
    let issues (w : Instr) (P : State → Prop) : Prop := answers (exec w s) (fun t => s.issued t 1 ∧ t.me.trap = s.me.trap ∧ P t)
    let starts (w : Instr) (lat : Nat) (P : OpBody → Prop) : Prop := issues w (fun t => s.started t lat (fun q => P q.body) ∧ t.mem = s.mem)
    let off := s.sval b + disp s.cur.ent
    let gr := x.group k.toNat
    let accs := gr.map (·.1)
    let all := accs.flatMap x.pair
    let sound (l : List Nat) : Prop := ∀ q ∈ l, (x.acc q).poison = false ∧ (x.acc q).dpoison = false
    let mine : Prop := x.strandMode (sideOf k.toNat) = true ∧ x.zone k.toNat = .free ∧ x.shapeOk k.toNat = true
    let alone : Prop := gr = [(k.toNat, k.toNat / 2, 0, 0)]
    let plainTile (r : Nat) : Prop := r < 16 ∧ (x.tile r).st = .full ∧ (x.tile r).fmt = 1 ∧ (x.tile r).dfault = none ∧ (x.tile r).poison = false
    (s.unprefixed →
      (code.toNat < 13 → (∀ z ∈ fuseSides code.toNat, x.strandMode z = true) → (∀ z ∈ fuseSides code.toNat, ∀ q ∈ sideMats z, x.matBusy q = false) →
        x.chain = none → ∀ l, x.reshape code.toNat = some l → issues (.mFuse g code) (fun t => t.here.shapes = l)) ∧
      (mine → alone → x.pendingOn all true = false → issues (.mZero g k) (fun t => t.here.acc k.toNat = {})) ∧
      ((x.tile i.toNat).st = .full → issues (.mTfree g i) (fun t => i.toNat ∈ t.here.emptying)) ∧
      ((∀ q, q < 8 → m.getLsbD q = true → x.matIdle q = true) → issues (.mMwait g m) (fun t => t.mem = s.mem)) ∧
      (x.pendingOn (x.pair k.toNat) true = false → x.strandMode (sideOf k.toNat) = true → x.zone k.toNat = .free →
        (s.room d = true → (x.acc k.toNat).dpoison = false → issues (.mDkr g d k x1) (fun t => ∃ q, t.me.pend = s.me.pend ++ [q] ∧ q.due = s.now + 2)) ∧
        (s.sources [a, b] → issues (.mDkw g k a b) (fun t => t.here.dk k.toNat = writeDeckle (x.dk k.toNat) (s.sval a) (s.sval b)))) ∧
      (x.strandMode (sideOf k.toNat) = true → x.shapeOk k.toNat = true → alone → tget 0 x.array (k.toNat / 2) ≤ s.now → x.chain = none →
        x.pendingOn (all ++ accs.map partner) false = false → sound (all ++ accs.map partner) → plainTile i.toNat → plainTile j.toNat →
        starts (.mMma g false k x1 i x2 j) (max (occOf 1 (x.tile i.toNat).planes) (occOf 1 (x.tile j.toNat).planes) + 20)
          (fun q => ∃ z, q = .chunk z ∧ z.map (·.acc) = [k.toNat]) ∧
        (dkWide (x.dk (partner k.toNat)) = false → starts (.mMmaw g false k x1 i x2 j)
          (max (occOf 1 (x.tile i.toNat).planes) (occOf 1 (x.tile j.toNat).planes) + 20) (fun q => ∃ z, q = .chunk z ∧ z.map (·.acc) = [k.toNat]))) ∧
      (mine → x.pendingOn all true = false → (∀ z ∈ gr, x.pathFree z.2.1 = true) → sound all → s.sources [a] →
        starts (.mScale g k a) 66 (fun q => q = .scale accs ((s.sval a).truncate 32)))) ∧
    (∀ e, s.ftEntry s.cur.cell (ftIndex s.cur.ent) = .ok e → ftReserved e = false → ftRnd e < 6 → mine → x.pendingOn all true = false →
      (∀ z ∈ gr, x.pathFree z.2.1 = true) → sound all → (∀ z ∈ gr, dkMode (x.dk z.1) < 2) →
      (∀ z, s.unprefixed → alone → s.sources [a, b] → ftOut e = 0 → s.scratchHandle s.cur.cell (s.sval a) = some z → tdFmt z.desc = 0 →
        tdBd z.desc = false → (s.sval b).toNat % tdRb z.desc % 256 = 0 → 0 ≤ (s.sval b).toInt → (s.sval b).toNat / tdRb z.desc + 64 ≤ tdRows z.desc →
        (s.sval b).toNat % tdRb z.desc + 256 ≤ tdRb z.desc → starts (.mDrain g k a b) 72 (fun q => ∃ st gs w, q = .mlines false st gs [] (.drain w))) ∧
      (s.unprefixed → (s.me.yq y.toNat).length < 16 → ftOut e < 12 → queueFmt (ftOut e) ((ftScale e).getLsbD 1) = true →
        starts (.mDrainQ g k y) 8 (fun q => ∃ rows w, q = .drainQ y rows w)) ∧
      (alone → s.sources [a, b] → ftOut e = 0 → s.sendFree = true → off.toNat < 16 → s.inShape (s.vfOf s.cur.cell) ((s.sval a).toNat % 128) = true →
        starts (.mDrainPeer g k a b) 136 (fun q => ∃ w, q = .drainP w))) ∧
    (∀ e, s.sources [a, b] → s.scratchHandle s.cur.cell (s.sval a) = some e → off.toNat % 64 = 0 → 0 ≤ off.toInt →
      (x.strandMode (n.toNat / 4) = true → x.pendingOn [2 * n.toNat, 2 * n.toNat + 1] true = false → x.pathFree n.toNat = true → x.chain = none →
        off.toNat + 32800 ≤ tdSize e.desc →
        (sound [2 * n.toNat, 2 * n.toNat + 1] → starts (.mMsave g n a b) 516 (fun q => ∃ st gs, q = .mlines false st gs [] .msave)) ∧
        starts (.mMrest g n a b) 516 (fun q => ∃ st gs, q = .mlines true st gs [] (.mrest n.toNat))) ∧
      (∀ ch, x.chain = some ch → ch.steps = [] → x.rowsBusy = false → ch.poison = false →
        (off.toNat + 1600 ≤ tdSize e.desc →
          issues (.mChsv g a b) (fun t => ∃ q, t.ops s.cur.cell = s.ops s.cur.cell ++ [q] ∧ ∃ st gs, q.body = .mlines false st gs [] .chsv) ∧
          issues (.mChld g a b) (fun t => ∃ q, t.ops s.cur.cell = s.ops s.cur.cell ++ [q] ∧ ∃ st gs, q.body = .mlines true st gs [] .chld)) ∧
        (off.toNat + 1024 ≤ tdSize e.desc → x.bankBusy ch = false → (∀ q, 4 ≤ q → q < 8 → x.pathFree q = true) → sound ch.allAccs →
          starts (.mChe g a b) 72 (fun q => ∃ w, q = .che none [] w)))) ∧
    (∀ ch, s.unprefixed → x.chain = some ch → x.rowsBusy = false → x.bankBusy ch = false → ch.poison = false → sound ch.allAccs →
      (ch.steps = [] → (∀ q, 4 ≤ q → q < 8 → x.pathFree q = true) → (s.me.yq y.toNat).length < 16 →
        starts (.mCheQ g y) 72 (fun q => ∃ rows w, q = .che (some y) rows w)) ∧
      (∀ kh vh, s.sources [a, b, d] → ch.busy ≤ s.now → ch.steps.length ≤ 2 → s.sval d &&& 0xFFFFFFFFFE80F000 = 0 →
        s.chHandle s.cur.cell (s.sval a) = some kh → s.chHandle s.cur.cell (s.sval b) = some vh →
        stepChecks ch kh vh ((s.sval d).toNat % 4096) ((s.sval d).toNat / 65536 % 128 + 1) = none →
        issues (.mChs g d a b) (fun t => ∃ q, t.ops s.cur.cell = s.ops s.cur.cell ++ [q] ∧ q.body = .chainStep))) ∧
    (s.unprefixed → s.sources [a] → x.chain = none → (f32 ((s.sval a).truncate 32)).isFin = true → x.strandMode 0 = true → x.strandMode 1 = true →
      (∀ q, q < 8 → x.matBusy q = false) → i.toNat % 2 = 0 → plainTile i.toNat → plainTile (i.toNat + 1) →
      (x.tile (i.toNat + 1)).planes = (x.tile i.toNat).planes → (∀ q, q < 16 → dkLo (x.dk q) = false ∧ (x.acc q).poison = false ∧ (x.acc q).dpoison = false) →
      issues (.mChb g x1 false i a) (fun t => ∃ ch, t.here.chain = some ch ∧ ch.bank = x1 ∧ ch.steps = []))

/-- R86, R340, R343 to R348, R350 to R367, R372: every word of a stream runs when it has no prefix that it may not have, its registers await no
status, and, where the rule says so, nothing of the stream is in flight: it leaves the stream's word and takes its effect without stopping the
stream. A front end or a stream that may fetch does; a piece, a page and a stack's request that can be served are, an ended operation leaves, and
what comes over the torus reaches its target. Points that the spec leaves to the model or to inference: log entries 42, 73, 80. -/
def Obligations.StreamAndTorusStepsComplete : Prop :=
  (∀ (s : State) (d a b : BitVec 4) (v : BitVec 8) (k m : BitVec 2) (sc : BitVec 3) (i6 : BitVec 6) (i12 : BitVec 12) (i18 : BitVec 18),
    s.cur.ent.pfx = none →
    let c := s.cur.cell
    let f (r : BitVec 4) : Dword := tget 0 (s.flume c).regs r.toNat
    let idle (r : BitVec 4) : Prop := s.fpending r = false
    let still : Prop := s.streamOps c = []
    let runs (i : Instr) (P : State → Prop) : Prop := answers (exec i s) (fun t =>
      (t.flume c).word = none ∧ (t.flume c).stopped = (s.flume c).stopped ∧ t.mem = s.mem ∧ P t)
    (idle d → runs (.fLi d i12) (fun t => tget 0 (t.flume c).regs d.toNat = i12.signExtend 64)) ∧
    (idle d → idle a → idle b → runs (.fAdd d a b) (fun t => tget 0 (t.flume c).regs d.toNat = f a + f b)) ∧
    runs (.fJmp i18) (fun t => (t.flume c).pc = s.cur.ent.addr + 4 * i18.signExtend 64) ∧
    (idle a → 1 ≤ i6.toInt → (s.flume c).loops = [] → (f a).toNat % 2 ^ 32 ≠ 0 → runs (.fLoop a i6) (fun t =>
      ∃ l, (t.flume c).loops = [l] ∧ l.start = s.cur.ent.addr + 4 ∧ l.last = s.cur.ent.addr + 4 * i6.signExtend 64)) ∧
    (still → ∀ l, (s.flume c).launch = some l → answers (exec .fEnd s) (fun t => t.flume c = {} ∧ t.mem = s.mem)) ∧
    (idle d → ∀ ps, s.resolve (s.vfOf c) v = some ps →
      runs (.fWait d v) (fun t => ∃ w, t.waits = s.waits ++ [w] ∧ w.ps = ps) ∧
      (still → runs (.fSig d v) (fun t => ∃ x, t.sigs = s.sigs ++ [x] ∧ x.ps = ps))) ∧
    (k ≠ 3 → sc.toNat < 5 → still → runs (.fFence k sc) (fun t => ∃ o z, t.ops c = s.ops c ++ [o] ∧ o.body = .fence z none)) ∧
    (idle d → idle a → idle b → still → ∀ e t, s.cellHandle c (f a) = some e →
      s.performed ((s.flume c).cover.getD (s.cover (dieOf c) (objectScope c e))) = true →
      s.barrierAt c (f a) ((f b).toNat : Int) (if f d = 0 then 1 else 0) (f d).toInt = .ok t → s.fillOk (s.objectLines c (f a) ((f b).toNat : Int)) = true →
      answers (exec (.fBar d a b) s) (fun u => (u.flume c).word = none ∧ (u.flume c).stopped = (t.flume c).stopped ∧ u.mem = t.mem)) ∧
    (idle d → idle a → (s.cell c).vf.isSome = true → s.fops c < 16 →
      ∀ w ∈ [(Instr.fCopy d a, FKind.copy), (.fXlist d a, .xlist), (.fGath d a, .gath), (.fScat d a, .scat), (.fKvcp d a, .kvcp), (.fSvm d a, .svm),
        (.fRing d a, .ring)] ++ (if m = 3 then [] else [(.fColl d a m, .coll)]),
        (w.2 = .svm → s.svmFull c (f a) = false) →
        runs w.1 (fun t => ∃ o g, (t.ops c).getLast? = some o ∧ o.body = .flume g ∧ g.kind = w.2 ∧ g.d = d))) ∧
  (∀ (s : State) (p : BitVec 29), s.me.pfx = none → answers (exec (.pExt p) s) (fun t => t.me.pfx = some p ∧ t.mem = s.mem)) ∧
  (∀ (s : State) (c sc : Nat) (w : Word), (s.cell c).runs = true → (scAfter (s.cell c).lastFetch).find? (fun k => (s.fetchable c k).isSome) = some sc →
    (s.cacheLeaf c (s.vfOf c) (dieOf c) (s.strand c sc).pc.toNat).fetchable c sc = some (.ok w) →
    answers (exec (.fetch c) s) (fun t => (t.cell c).lastFetch = sc ∧ (t.strand c sc).seq = (s.strand c sc).seq + 1 ∧ t.mem = s.mem)) ∧
  (∀ (s : State) (c : Nat), (s.cell c).runs = true →
    ((s.flume c).launch.isSome = true → (s.flume c).stopped = false → (s.flume c).word = none → ∀ w, s.fetchWord c (s.flume c).pc = .ok w →
      w.extractLsb' 29 3 ≠ 7 → answers (exec (.flumeFetch c) s) (fun t => (∃ e, (t.flume c).word = some e ∧ e.word = w) ∧ t.mem = s.mem)) ∧
    (∀ id l h, (s.flume c).launch = none → s.launches = [(id, l)] → tfind c l.shares = some h → (s.cell c).vf = some l.vf → h.started = true →
      h.stream = .pending → answers (exec (.flumeStreamStart c) s) (fun t => (t.flume c).launch = some id ∧ (t.flume c).pc = l.fentry ∧ t.mem = s.mem))) ∧
  (∀ (s : State) (c id : Nat) (o : Op) (f : FState), s.findOp c id = some o → o.id = id → o.body = .flume f →
    (∀ code, f.code = some code → answers (exec (.flumeOperationEnd c id) s) (fun t => t.findOp c id = none ∧ t.mem = s.mem)) ∧
    (f.code = none →
      (∀ n w, (s.cell c).closed = false → f.due = some (n, w) → s.performed w = true →
        s.fillOk (s.objectLines c f.barrier.1 f.barrier.2) = true → ∀ t, s.barrierAt c f.barrier.1 f.barrier.2 0 (-(n : Int)) = .ok t →
        exec (.flumePiece c id) s = .next (t.setFlume c id { f with due := none, count := f.count + n })) ∧
      (f.kind = .kvcp → (s.cell c).closed = false → f.kcOp = 3 → f.piece < f.kcCount → ∀ e pa, s.seqLive (s.vfOf c) f.kcSeq = .ok e → e.lacks (f.kcSlot f.piece) (f.kcPage f.piece) = false →
        s.kvFind (s.vfOf c) e.root (kvKey (f.kcSlot f.piece) (f.kcPage f.piece)) = .ok (some (.frame pa)) →
        exec (.kvPageOperation c id) s = .next (s.setFlume c id { f with piece := f.piece + 1, count := f.count + 1 })) ∧
      (∀ stack, f.kind = .svm → s.svmNext stack = some (c, id) →
        let u : State := { s with svmq := tset [] s.svmq stack ((tget [] s.svmq stack).filter (fun x => x != (c, id))),
                                  svmLast := tput stack (s.vfOf c) s.svmLast }
        ∀ n w t g, u.svmServe c f = .moved n w t g → exec (.svmRun stack) s = .next (t.setFlume c id ({ g with count := n }.finish 0))) ∧
      (∀ co p l, f.coll = some co → co.step = 0 → f.clOp = 3 → s.ownPlace (s.vfOf c) c = some p → (s.cell c).closed = false → s.refusalFor id = none →
        s.collPackets p f.clTag = [] → s.collInput c f = .ok l →
        exec (.collectiveStep c id) s = .next (s.collAdvance c id f co { co with x := l, got := [(co.rank, l)] })))) ∧
  (∀ (s : State) (p : Packet) (land : BitVec 32) (off : Nat) (l : List Byte), s.pod.isSome = true → p.body = .ring land off l none → s.isOwn p.dst = true →
    s.answersNak p.dst = false →
    (s.hasPeer p.dst.vf.toNat (placeBits p.src) = true → exec (.torusPacketArrival p) s = .next { s with rings := s.rings ++ [p] }) ∧
    (∀ r w t, s.rings = p :: r → (s.cell p.dst.cell.toNat).vf = some p.dst.vf.toNat → hdLvl (land.zeroExtend 64) = 1 →
      let u : State := { s with rings := r }
      let dst : End := { space := 1, base := land.zeroExtend 64 }
      s.fillOk (s.endLines p.dst.cell.toNat dst (off : Int) l.length) = true → u.endWrite p.dst.cell.toNat dst (off : Int) l = .ok (w, t) →
      exec (.ringPieceAtTarget 0) s = .next ((t.fillPass (u.endLines p.dst.cell.toNat dst (off : Int) l.length)).answer p none))) ∧
  (∀ (s : State),
    (∀ b, answers (exec (.goneNotice b) s) (fun t => t.gones = s.gones.erase b ∧ t.mem = s.mem)) ∧
    (∀ p tag, s.isOwn p = true → answers (exec (.abortNotice p tag) s) (fun t => t.aborts = s.aborts.erase (p, tag) ∧ t.mem = s.mem)) ∧
    (∀ p tag, s.isOwn p = false → exec (.abortNotice p tag) s = .next { s with out := s.out ++ [.abort p tag] }) ∧
    (∀ link, link < 12 → answers (exec (.linkdown link) s) (fun t => tget false t.linksDown link = true)) ∧
    (∀ place o, s.ownPlace 0 0 = some o → answers (exec (.packageResetOrLoss place) s) (fun t =>
      t.gones = s.gones ++ (upto 128).map (fun v => BitVec.ofNat 7 v ++ place) ∧ t.mem = s.mem)))

/-- R32 to R54, R117, R131 to R141, R198, R200, R207, R286, R287, R292 to R306, R308, R319, R320, R324, R376, R397, R398: the steps of a cell's
requests and of its items, messages, semaphores, fences and barriers complete in the states that their rules give them. Points that the spec
leaves to the model or to inference: log entries 42, 48, 71. -/
def Obligations.RequestAndItemStepsComplete : Prop :=
  (∀ (s : State) (c id : Nat) (o : Op), s.findOp c id = some o → o.due ≤ (s.cell c).time →
    let ends (i : Instr) (P : State → Prop) : Prop := answers (exec i s) (fun t => t.findOp c id = none ∧ P t)
    (∀ d v, o.body = .timedS d (some v) false → o.err = none → o.req = none → s.behindLate c o = false → d ≠ 0 → isQ d = false →
      (s.env.slow.contains id = false → ends (.timedArrival c id) (fun t => (t.strand c o.sc).readS d = { val := v })) ∧
      ((s.cell c).frozenOn.contains id = true → ends (.lateDataLanding c id) (fun t => (t.strand c o.sc).readS d = { val := v }))) ∧
    (∀ d v code a, o.body = .timedS d v true → o.err = some (code, a) → s.behindLate c o = false → s.env.slow.contains id = false → d ≠ 0 → isQ d = false →
      ends (.errorResponse c id) (fun t => ((t.strand c o.sc).readS d).tag = some code)) ∧
    (o.body = .store → o.err = none → s.env.slow.contains id = false → ends (.storeAcknowledgement c id) (fun t => t.mem = s.mem)) ∧
    (o.body = .store → (s.cell c).frozenOn.contains id = true → (s.cell c).frozenAt + 3000000 ≤ s.wall3 → (s.strand c o.sc).trap = none →
      (s.strand c o.sc).handler = false → (s.cell c).closed = false → ends (.watchdog c id) (fun t => (t.strand c o.sc).trap = some (s.lateTrap c o Code.watchdog (o.addr.getD o.ent.addr)))) ∧
    (o.body = .msg true → o.err = none → s.env.slow.contains id = false → ends (.sendBufferRelease c id) (fun t => t.mem = s.mem)) ∧
    (∀ va, o.body = .launch va [] true → o.err = none → s.env.slow.contains id = false → ends (.launchAcknowledgement c id) (fun t => t.mem = s.mem)) ∧
    (∀ n geo land got, o.body = .sload (.t n geo) land [] got none → ends (.tileLoadComplete c id) (fun t => ((t.cell c).tile n).st = .full))) ∧
  (∀ (s : State) (c u : Nat) (o : Op) (older newer : List Op), s.ops c = older ++ o :: newer → (∀ x ∈ older, x.sc ≠ u) → o.sc = u →
    o.due ≤ (s.cell c).time →
    let ends (i : Instr) (P : State → Prop) : Prop := answers (exec i s) (fun t => (∀ x ∈ t.ops c, x.id ≠ o.id) ∧ P t)
    (∀ v n, o.body = .semWait v n true → ends (.semaphoreGrantLanding c u) (fun t => t.mem = s.mem)) ∧
    (∀ vf v new move, o.body = .smap vf v new move → (s.vf vf).live = true → smV (s.semEntry vf v) = false →
      ends (.smapApply c u) (fun t => t.semEntry vf v = new)) ∧
    (∀ cover, o.body = .fence cover none → s.performed cover = true → s.env.slow.contains o.id = false → ends (.fenceRetirement c u) (fun t => t.mem = s.mem)) ∧
    (∀ w idx gen off ph peer reg, o.body = .barWait w idx gen off ph peer reg true → ends (.barwRetirement c u) (fun t => t.mem = s.mem)) ∧
    (∀ w idx gen off ph met x, o.body = .barWait w idx gen off ph true false met → s.findOp c o.id = some o → s.remoteWaiters w < 32 →
      s.ownerEntry ((s.cell c).entry (hdIdx (o.ops.getD 0 0))).peer off 16 = .ok x →
      answers (exec (.remoteWaiterRetry c u) s) (fun t => ∃ q, t.findOp c o.id = some q ∧ q.body = .barWait w idx gen off ph true true met))) ∧
  (∀ (s : State) (i c : Nat) (o : Op) (p : Peer) (e : TEntry) (off : Nat) (l : List Byte) (op : BitVec 3) (x y : Dword), s.findAny i = some (c, o) →
    let done (w : Instr) (P : Op → Prop) : Prop := answers (exec w s) (fun t => ∃ q, t.findOp c i = some q ∧ P q)
    (s.reqWaits c o = false →
      (o.req = some (.peerWrite p off l) → s.ownerEntry p off l.length = .ok e →
        (fillMove s.cyc (s.cell (hdCell p.target)).fill [] (withData (partsOf e.desc e.base off l.length) l)).2.1 = [] → done (.peerAccessAtOwner i) (fun q => q.req = none ∧ q.err = o.err)) ∧
      (o.req = some (.ratom p op off x y) → s.ownerEntry p off 8 = .ok e → (s.cell (hdCell p.target)).entryPoisoned e off 8 = false →
        done (.remoteAtomicAtOwner i) (fun q => q.req = none ∧ q.err = o.err))) ∧
    (∀ va pg pa, o.req = some (.gatom op va x y) → s.pages (some c) (s.vfOf c) (dieOf c) va 8 .at = .ok pg → (∀ z ∈ pg, ∃ q, z.2 = .frame q) →
      paOf pg va = some pa → s.mem.poisoned pa = false → s.wordHeld pa = false → done (.gatomAtHome i) (fun q => q.req = some (.gatomLand op pa x y)))) ∧
  (∀ (s : State) (c sc : Nat),
    let st := s.strand c sc
    (∀ t, st.sleepEnd = some t → t ≤ (s.cell c).time → st.trap = none → answers (exec (.sleepEnd c sc) s) (fun t =>
      (t.strand c sc).sleepEnd = none ∧ (t.strand c sc).fblk = false ∧ t.mem = s.mem)) ∧
    (st.halted = true → quiet (s.cell c) sc = true → answers (exec (.itemCompletion c sc) s) (fun t => t.strand c sc = {} ∧ t.mem = s.mem)) ∧
    (∀ r rest, st.reports = r :: rest → st.st = .running → st.handler = false → st.trap = none → s.reachesB c sc = true → answers (exec (.reportTaken c sc) s) (fun t =>
      (t.strand c sc).reports = rest ∧ ∃ tr, (t.strand c sc).trap = some tr ∧ tr.code = r.code ∧ tr.taddr = r.taddr)) ∧
    (∀ m r, st.st = .dormant → st.armedAt < (s.cell c).time → (s.cell c).runs = true → st.swStop = false → (s.cell c).msgs = m :: r → m.handler = st.armed →
      (∀ k, k < sc → (s.strand c k).st ≠ .dormant) → answers (exec (.messageDelivery c sc) s) (fun t =>
        (t.strand c sc).st = .running ∧ (t.strand c sc).pc = m.handler ∧ (t.cell c).msgs = r)) ∧
    (∀ tr e, st.trap = some tr → st.handler = false → st.halted = false → (s.cell c).frozenOn = [] → tr.ready = some e →
      (tr.framed = none → e < (s.cell c).time → entryReady (s.cell c) sc = true → st.vectorsOk = true →
        ∀ w t, s.writeVa (some c) (s.vfOf c) (dieOf c) st.tscr.toNat (st.frame tr) = .ok (w, t) → answers (exec (.trapEntry c sc) s) (fun u =>
          u.mem = t.mem ∧ (u.strand c sc).trap = some { tr with framed := some st.lates.length })) ∧
      (∀ n, tr.framed = some n → e + 65 ≤ (s.cell c).time → frameStored (s.cell c) sc = true → answers (exec (.trapEntry c sc) s) (fun u =>
        (u.strand c sc).handler = true ∧ (u.strand c sc).pc = st.tvec ∧ (u.strand c sc).fetchFrom = e + 65 ∧ u.mem = s.mem)))) ∧
  (∀ (s : State),
    (∀ m r, s.msgs = m :: r → s.gateOpen m.target = true → (s.cell m.target).msgs.length < 16 → answers (exec (.messageStore 0) s) (fun t =>
      (t.cell m.target).msgs = (s.cell m.target).msgs ++ [m] ∧ t.msgs = r)) ∧
    (∀ x r, s.sigs = x :: r → s.sigCame x = true → s.semReset x.ps = false → (s.sem x.ps).fifo = [] → (∀ y ∈ r, y.ps ≠ x.ps) →
      (∀ w ∈ s.waits, w.ps ≠ x.ps) → answers (exec (.semaphoreSignalArrival 0) s) (fun t => t.sigs = r ∧ (t.sem x.ps).val.toNat = min ((s.sem x.ps).val.toNat + x.n) 0xFFFFFFFF)) ∧
    (∀ x r, s.waits = x :: r → s.semCame x.w.cell x.ps x.due = true → s.semReset x.ps = false → (s.sem x.ps).fifo = [] →
      (s.sem x.ps).val.toNat < x.w.n → (∀ y ∈ s.sigs, y.ps ≠ x.ps) → (∀ w ∈ r, w.ps ≠ x.ps) → answers (exec (.semaphoreWaitArrival 0) s) (fun t => t.waits = r ∧ (t.sem x.ps).fifo = [x.w])) ∧
    (s.nextPoll ≤ s.wall → exec .launchQueuePoll s =
      .next (s.liveVfs.foldl (fun t vf => (upto (t.vf vf).lqs.length).foldl (fun u q => u.pollQueue vf q) t) { s with nextPoll := s.wall / 1000 * 1000 + 1000 })) ∧
    (∀ vf q raw n r, (s.lq vf q).busy = false → (s.lq vf q).waiting = (raw, n) :: r →
      (s.modLq vf q (fun y => { y with waiting := r })).headerOk (Launch.ofHeader vf (some q) n raw) raw = true →
      answers (exec (.launchStart vf q) s) (fun t => (t.lq vf q).busy = true ∧ t.mem = s.mem)) ∧
    (∀ vf raw c r, (s.vf vf).overflow = (raw, c) :: r → s.deviceLaunches vf < 64 → answers (exec (.overflowLaunchStart vf) s) (fun t =>
      (t.vf vf).overflow = r ∧ t.mem = s.mem)) ∧
    (∀ i k, s.itemCancels[i]? = some k → k.stopped = none → k.launch = none → answers (exec (.itemCancellation i) s) (fun t =>
      ∃ z, t.itemCancels[i]? = some z ∧ z.stopped = some [])) ∧
    (∀ id l c h, s.launchAt id = some l → tfind c l.shares = some h →
      (h.started = true → h.next < h.total → h.age < 7 → h.startTime + 4096 * (h.age + 1) ≤ (s.cell c).time →
        answers (exec (.itemAging id c) s) (fun t => ∃ k g, t.launchAt id = some k ∧ tfind c k.shares = some g ∧ g.age = h.age + 1)) ∧
      (l.drops = [] → h.started = true → h.reported = false → h.next = h.total → h.finished = h.total → h.stream = .none →
        answers (exec (.shareComplete id c) s) (fun t => ∃ k g, t.launchAt id = some k ∧ tfind c k.shares = some g ∧ g.reported = true))) ∧
    (∀ id l, s.launchAt id = some l → l.reported = true → s.holdsHandles id l.vf = false → s.performed l.cover = true →
      answers (exec (.launchCompletion id) s) (fun t => t.launchAt id = none)) ∧
    (∀ c idx k o, idx < 512 → ((s.cell c).entry idx).refused = true → s.freeing (.scratch c idx) = some (k, o) → s.inUse (.scratch c idx) = false →
      o.due ≤ (s.cell k).time → answers (exec (.handleFree c idx) s) (fun t => ((t.cell c).entry idx).used = false ∧ t.mem = s.mem)) ∧
    (∀ b n, (s.landing b n).refused = true → s.freeing (.landing b n) = none → s.inUse (.landing b n) = false → s.freeAt (.landing b n) ≤ s.cyc →
      answers (exec (.landingAutoFree b n) s) (fun t => (t.landing b n).used = false ∧ t.mem = s.mem)) ∧
    (∀ die i w, s.mem.flight.find? (fun x => x.id == i) = some w → s.mem.canEnter die w = true → answers (exec (.writePropagation die i) s) (fun t =>
      t.mem.view die = writeAll (w.cleared (s.mem.view die)) w.bytes ∧ t.cells = s.cells)) ∧
    (∀ vf f r, (s.vf vf).returning = f :: r → answers (exec (.frameReturn vf) s) (fun t => (t.vf vf).returning = r ∧ (t.vf vf).free = (s.vf vf).free ++ [(f, 1)])) ∧
    (∀ vf va a f n r leaf, s.walkLeaf vf 0 va = .ok (a, leaf) → BitVec.ofNat 64 (leRead s.mem.home a 8) = leaf → leaf.getLsbD 63 = false →
      leaf.getLsbD 58 = true → leaf.getLsbD 59 = false → (s.vf vf).free = (f, n) :: r → (s.vf vf).held < (s.vf vf).cfg.quota → f < 128 * sliceFrames →
      answers (exec (.demandZeroInstall vf va) s) (fun t => (t.vf vf).held = (s.vf vf).held + 1)))

/-- R76, R209 to R236, R246 to R253, R262 to R281, R331 to R336, R434: the steps of the mats, of the chain, of tasks and branches and of the KV unit
complete in the states that their rules give them. Points that the spec leaves to the model or to inference: log entry 34. -/
def Obligations.MatTaskAndKvStepsComplete : Prop :=
  (∀ (s : State) (c id : Nat) (o : Op), s.findOp c id = some o → o.id = id → o.due ≤ (s.cell c).time →
    let ends (i : Instr) (P : State → Prop) : Prop := answers (exec i s) (fun t => t.findOp c id = none ∧ t.mem = s.mem ∧ P t)
    (∀ ms, o.body = .chunk ms → ends (.chunkResult c id) (fun t => (t.cell c).tiles = (s.cell c).tiles)) ∧
    (∀ st got m, o.body = .mlines false st [] got (.drain [m]) → ends (.drainCompletion c id) (fun t => (t.cell c).acc m.acc = {})) ∧
    (∀ y v fl m, o.body = .drainQ y [(v, fl)] [m] → (s.cell c).runs = true → ((s.strand c o.sc).yq y.toNat).length < 16 → ends (.resultQueueRowPush c id) (fun t =>
      (t.strand c o.sc).yq y.toNat = (s.strand c o.sc).yq y.toNat ++ [v] ∧ (t.cell c).acc m.acc = {})) ∧
    (∀ m, o.body = .drainP [m] → o.err = none → o.req = none → s.peerDone c id = true → s.env.slow.contains id = false →
      ends (.peerDrainAck c id) (fun t => (t.cell c).acc m.acc = {})) ∧
    (∀ st got n, o.body = .mlines true st [] got (.mrest n) → o.err = none → leRead got 32768 32 = 0 →
      ends (.mrestCompletion c id) (fun t => ((t.cell c).acc (2 * n)).val = BitVec.ofNat 131072 (leRead got 0 16384))) ∧
    (∀ ch st got, (s.cell c).chain = some ch → o.body = .mlines true st [] got .chld → o.err = none → leRead got 1548 4 = ch.flagBits →
      imageWord got 1536 = ch.c → leRead got 1552 48 = 0 → ends (.chldCompletion c id) (fun t => ∃ z, (t.cell c).chain = some z ∧ z.poison = false)) ∧
    (∀ ch y out, (s.cell c).chain = some ch → o.body = .che y [] out → o.accs ≠ [] → ends (.chainClose c id) (fun t => (t.cell c).chain = none))) ∧
  (∀ (s : State) (c : Nat) (ch : Chain) (st : ChStep) (rest : List ChStep), (s.cell c).chain = some ch → ch.steps = st :: rest →
    (st.started = false → st.vs ≤ (s.cell c).time → answers (exec (.chainValuePhase c) s) (fun t =>
      (t.cell c).chain = some { ch with steps := { st with started := true } :: rest } ∧ t.mem = s.mem)) ∧
    (∀ o, s.findOp c st.op = some o → o.id = st.op → st.vs + st.tv + 20 ≤ (s.cell c).time → st.key.bad = false → st.val.bad = false → ch.poison = false →
      answers (exec (.chainStepCompletion c) s) (fun t => t.findOp c st.op = none ∧ t.mem = s.mem ∧ ∃ z, (t.cell c).chain = some z ∧ z.steps = rest))) ∧
  (∀ (s : State) (c side z : Nat), (s.cell c).strandMode side = false → s.claimed c side = true → tfind side (s.cell c).sideTask = none →
    tfind side (s.cell c).claim = some z → z < (s.cell c).time → answers (exec (.sideClaim c side) s) (fun t => (t.cell c).strandMode side = true)) ∧
  (∀ (s : State) (i c tc p : Nat) (o : Op) (vals : AccBits) (bound : BitVec 32), s.findAny i = some (c, o) → o.req = some (.peerDrain tc p vals bound) →
    s.gateOpen tc = true → (s.cell tc).strandMode (sideOf p) = true → dkLo ((s.cell tc).dk p) = false →
    answers (exec (.peerAddition i) s) (fun t => ∃ q, q ∈ t.ops tc ∧ q.body = .peerAdd p vals bound c i)) ∧
  (∀ (s : State) (i : Nat) (p : Post) (raw : List Byte) (t : Task), s.posts = p :: s.posts.tail → i = 0 → s.performed p.cover = true →
    (s.cell p.cell).vf = some p.vf →
    let u : State := { s with posts := s.posts.tail }
    let n := (p.va.toNat - (s.vf p.vf).cfg.tasks) / 64
    u.readVa none p.vf (dieOf p.cell) p.va.toNat 64 = .ok raw → u.entryCheck p n raw = .enters t →
    ∀ k, ((u.refreshSlots p.vf t.bh).vf p.vf).freeSlot t.bh = some k →
      answers (exec (.taskEntry i) s) (fun x => x.posts = s.posts.tail ∧ ∃ z, x.task p.vf n = some z ∧ z.slot = some k ∧ z.bh = t.bh ∧ z.kind = t.kind ∧
        z.deps = t.deps)) ∧
  (∀ (s : State) (vf n c side : Nat) (t : Task), s.task vf n = some t →
    (∀ d r, s.tdecs = d :: r → d.vf = vf → d.n = n → t.dead = false → t.deps ≠ 0 → answers (exec (.taskDecrement 0) s) (fun x =>
      x.tdecs = r ∧ ∃ z, x.task vf n = some z ∧ z.deps = t.deps - 1)) ∧
    (∀ r, t.ready = some r → t.run = none → 4096 * (t.age + 1) + r ≤ (s.vf vf).clock → t.prio + t.age < 7 → answers (exec (.taskAging vf n) s) (fun x =>
      x.task vf n = some { t with age := t.age + 1 })) ∧
    (∀ bh, (s.cell (2 * bh)).vf = some vf → (s.refreshSlots vf bh).task vf n = some t → (s.refreshSlots vf bh).readyTasks vf bh = [(n, t)] →
      (s.refreshSlots vf bh).groupFor vf t [2 * bh, 2 * bh + 1] = some (c, side) → answers (exec (.taskStart bh) s) (fun x =>
        ∃ z r, x.task vf n = some z ∧ z.run = some r ∧ r.cell = c ∧ r.side = side)) ∧
    (∀ b, (s.cell c).vf = some vf → s.sideFree vf c side = true → s.keptForChain vf c = false → tget 0 (s.cell c).freeSince side + 64 ≤ (s.cell c).time →
      s.readyTasks vf (bhOf c) = [] → s.busiest vf = some b → s.readyTasks vf b = [(n, t)] → t.kind ≠ 1 → t.ties = [] → side < 2 →
      answers (exec (.taskSteal c side) s) (fun x => ∃ z r, x.task vf n = some z ∧ z.run = some r ∧ r.cell = c ∧ r.side = side)) ∧
    (∀ r, t.run = some r → s.groupRuns vf r = true →
      (r.free ≤ s.groupTime r.cell → r.checked = none → t.dead = false → t.kind = 0 → r.next < t.blocks → ∀ q fl, s.chunk0 vf t r = .ok (q, fl) →
        answers (exec (.taskChunkIssue vf n) s) (fun x => x.task vf n = some { t with run := some q, flags := t.flags ||| fl })) ∧
      (r.last < s.groupTime r.cell → r.checked = none → t.issued r = true → t.dead = false → t.mode < 2 → t.kind < 2 →
        answers (exec (.taskDrainCheck vf n) s) (fun x => ∃ z q, x.task vf n = some z ∧ z.run = some q ∧ q.checked = some (s.groupTime r.cell))) ∧
      (∀ k, r.checked = some k → k + 72 ≤ s.groupTime r.cell → r.writes = [] → s.performed r.cover = true → t.dead = false → t.sem = 0xFFFF →
        (∀ i, i < 4 → t.succ i = 0xFFFF) → answers (exec (.taskCompletion vf n) s) (fun x => x.task vf n = none)))) ∧
  (∀ (s : State) (k : Cancel) (r : List Cancel), s.cancels = k :: r → (s.cell k.cell).vf = some k.vf →
    (k.stopped = none → s.branchEntry k.vf (dieOf k.cell) (k.branch.toNat % 4096) = .ok none → answers (exec (.branchCancellation 0) s) (fun t =>
      t.cancels = { k with stopped := some [] } :: r ∧ t.mem = s.mem)) ∧
    (k.stopped = some [] → k.sem = none → answers (exec (.branchCancellation 0) s) (fun t => t.cancels = r ∧ t.mem = s.mem))) ∧
  (∀ (s : State) (i c : Nat) (o : Op) (a : Dword) (e : SeqE), s.findAny i = some (c, o) → o.id = i → (∀ q ∈ s.ops c, q.sc = o.sc → q.kvReq = true → i ≤ q.id) →
    (∀ x ∈ s.kvPending (s.vfOf c), x.2.id < i → o.sameRow x.2 = false) →
    let vf := s.vfOf c
    let served (w : Instr) : Prop := answers (exec w s) (fun t => ∃ q, t.findOp c i = some q ∧ q.req = none ∧ q.err = o.err)
    (∀ v row w pa t, o.req = some (.kvStore v a row w) → s.seqLive vf (kvSeq a) = .ok e → kvSlot a < e.nslot → 64 * kvCb a < e.d → e.frz ≤ kvPos a →
      s.kvFind vf e.root (kvKey (kvSlot a) (kvPos a / 64)) = .ok (some (.frame pa)) →
      s.seqWrite vf (kvSeq a) { e with len := max e.len (kvPos a + 1) } = .ok t → served (.kvStoreApply i)) ∧
    (∀ d, o.req = some (.kvFork a) → o.body = .kfork d none → a.extractLsb' 52 11 = 0 → a.extractLsb' 24 8 = 0 →
      s.seqLive vf (a.extractLsb' 0 24).toNat = .ok e → e.depth ≠ 4 → s.freeSeq vf ((s.vf vf).cfg.nseq - (s.vf vf).cfg.nroot) (s.vf vf).cfg.nroot = .ok none →
      served (.kvForkApply i)) ∧
    (∀ t, o.req = some (.kvFree a) → a.extractLsb' 24 40 = 0 → s.seqLive vf a.toNat = .ok e → e.nchild ≠ 0 →
      s.seqWrite vf a.toNat { e with dead := true } = .ok t → served (.kvFreeApply i)))

/-- R377 to R395, R407 to R416, R425 to R429: every command of the management unit that passes its checks, every hazard, RDMA operation, power and
boot step, reset and switch step completes. Points that the spec leaves to the model or to inference: log entries 35, 57, 59, 71. -/
def Obligations.DeviceStepsComplete : Prop :=
  (∀ (s : State) (n : Nat),
    let vf := s.mbVf
    let ok (i : Instr) (t : State) (results : List (Nat × List Byte)) : Prop := exec i s = .next (t.endCommand 0 results)
    let zero : List (Nat × List Byte) := [(32, zeros 8)]
    (s.tenant vf = true → s.inReset vf = false →
      (s.commands n 2 = true → s.mgmt.begun = false → answers (exec (.destroy n) s) (fun t => t.mgmt.begun = true)) ∧
      (s.commands n 3 = true → s.mgmt.begun = false → answers (exec (.reset n) s) (fun t => t.mgmt.begun = true ∧ t.vfs = (s.vfReset vf).vfs)) ∧
      (s.commands n 4 = true → s.arg 16 1 ∈ shapeBhs (s.vf vf).cfg.shape → s.arg 17 1 ≤ 7 → s.arg 24 8 = 0 → s.windowBusy (s.arg 16 1) (s.arg 17 1) = false →
        ok (.window n) (s.modBh (s.arg 16 1) (fun x => { x with windows := tset 0 x.windows (s.arg 17 1) 0 })) []) ∧
      (s.commands n 5 = true → answers (exec (.keyload n) s) (fun t => (t.vf vf).keyLoaded = true)) ∧
      (s.commands n 6 = true → s.arg 16 1 ≤ 63 → ok (.peertab n) (s.modVf vf (fun x => { x with
        peers := tset 0 x.peers (s.arg 16 1) (BitVec.ofNat 32 (s.arg 20 4)) })) []) ∧
      (s.commands n 7 = true → s.arg 16 4 ≤ (s.vf vf).listLen → (s.vf vf).held ≤ s.arg 16 4 →
        ok (.setquota n) (s.modVf vf (fun x => { x with cfg := { x.cfg with quota := s.arg 16 4, tier2 := s.arg 20 4 } })) []) ∧
      (s.commands n 8 = true → ∃ l, ok (.stats n) s [(16, l)]) ∧
      (s.commands n 12 = true → s.arg 16 4 < 4096 → (tget {} s.qps (s.arg 16 4)).vf = none →
        ok (.bindqp n) { s with qps := tput (s.arg 16 4) { vf := some vf } s.qps } []) ∧
      (s.commands n 14 = true → s.arg 17 7 = 0 → s.arg 16 1 < 9 → s.arg 16 1 ≤ (s.vf vf).cfg.nlq → s.mgmt.begun = false →
        answers (exec (.lcancel n) s) (fun t => t.mgmt.begun = true)) ∧
      (s.commands n 13 = true → s.arg 17 3 = 0 →
        let sh := (s.vf vf).cfg.shape.toNat
        let g := s.group sh
        (s.arg 16 1 = 0 → 100 ≤ s.arg 20 4 → s.arg 20 4 ≤ 1000000 → 10 ≤ s.arg 24 4 → 2 * s.arg 24 4 ≤ s.arg 20 4 → (∀ v ∈ s.schedRot, v ∈ g.rotation) →
          s.schedRot.Nodup → s.schedRot.length = g.rotation.length →
          ok (.schedSet n) (s.modGroup sh (fun g => { g with next := some (s.schedRot, s.arg 20 4, s.arg 24 4) })) zero) ∧
        (s.arg 16 1 = 1 → s.mgmt.waitGroup = none → 1 < g.rotation.length → g.switch = none → g.incoming = none → s.groupBusy sh = false →
          answers (exec (.schedSwitch n) s) (fun t => t.mgmt.waitGroup = some sh ∧ (t.group sh).switch.isSome = true)) ∧
        (s.arg 16 1 = 2 → ok (.schedRelease n) ((upto (s.vf vf).lqs.length).foldl (fun t q => t.releaseQueue vf q) s) zero))) ∧
    (s.commands n 1 = true → vf ≠ 0 → vf ≤ 127 → (s.vf vf).live = false → ∀ raw, s.readVa none 0 0 (s.arg 16 8) 128 = .ok raw →
      let c := VfCfg.parse raw
      c.ok = true → s.arg 40 4 ≤ c.resv → s.arg 32 8 % frameBytes = 0 → s.shapeFree c.shape = true → s.slicesFree c = true →
      ∀ run seed t, s.saveRun (shapeBhs c.shape).length = some run → s.readSeed (s.arg 32 8) (s.arg 40 4) = .ok seed →
        (s.install vf c run seed).openQueues vf = some t → ok (.create n) (t.joinGroup vf) [(24, leBytes (run * frameBytes) 8)]) ∧
    (s.commands n 9 = true → vf = 0 → s.boot.blown ≤ 16384 → s.boot.quotes < 32768 → ∀ w t,
      s.writeVa none 0 0 (s.arg 48 8) (s.quoteBody 0 ++ hssSignature (sha256 (s.quoteBody 0)) s.boot.blown s.boot.quotes) = .ok (w, t) →
      ok (.quote n) { t with boot := { t.boot with quotes := t.boot.quotes + 1 } } []) ∧
    (s.commands n 10 = true → 1 ≤ s.arg 16 1 → s.arg 16 1 ≤ 7 → ∃ t, ok (.measure n) t []) ∧
    (s.commands n 11 = true → s.tenants = [] → s.arg 19 1 = 0 → s.arg 23 1 = 0 → s.arg 20 1 ≤ 16 → s.arg 21 1 ≤ 16 → s.arg 22 1 ≤ 16 → s.arg 16 1 < s.arg 20 1 →
      s.arg 17 1 < s.arg 21 1 → s.arg 18 1 < s.arg 22 1 →
      ok (.pod n) { s with pod := some (s.arg 16 1, s.arg 17 1, s.arg 18 1, s.arg 20 1, s.arg 21 1, s.arg 22 1) } [])) ∧
  (∀ (s : State), s.mgmt.nextPoll ≤ s.wall → s.mgmt.run = none → ∀ n, n < 16 → (tget 0 (s.mem.view 0) (128 * n)).getLsbD 0 = true →
    (∀ k, k < n → (tget 0 (s.mem.view 0) (128 * k)).getLsbD 0 = false) → recField (bytesAt (s.mem.view 0) (128 * n) 128) 14 2 = 0 →
    knownCommand (bytesAt (s.mem.view 0) (128 * n) 128) = true → answers (exec .mgmtPoll s) (fun t => t.mgmt.run = some n ∧ t.mem = s.mem)) ∧
  (∀ (s : State) (b cls c sc vf sh die : Nat),
    (0 < b → b < 64 → (∀ v, (s.cell (2 * b)).vf = some v → b ∈ shapeBhs (s.vf v).cfg.shape) → answers (exec (.bhfault b cls) s) (fun t =>
      (t.bh b).gateClosed = true ∧ (t.bh b).resetEnd.isSome = true)) ∧
    (∀ w, 8 * w < 128 * sliceFrames * frameBytes → answers (exec (.uncorrectableError (.device w)) s) (fun t =>
      t.mem = { s.mem with poison := tput w true s.mem.poison })) ∧
    answers (exec (.correctedError b) s) (fun t => t.mem = s.mem ∧ t.cells = s.cells) ∧
    answers (exec .thermal s) (fun t => t.cells = s.cells) ∧
    (∀ i ∈ [Instr.coldPlateCritical, .commonBlockError], answers (exec i s) (fun t => t.boot.rom = true)) ∧
    answers (exec .powerOff s) (fun t => t.boot.power = false) ∧
    (s.boot.power = false → answers (exec .powerOn s) (fun t => t.boot.power = true ∧ t.boot.rom = true)) ∧
    (s.boot.rom = true → leRead (s.mem.view 0) (bootBuffer + 8) 8 = 1 → s.imageOk s.bootImage = true →
      answers (exec .bootImageSubmit s) (fun t => t.boot.rom = false ∧ t.boot.blown = s.boot.blown + 1)) ∧
    (b < 64 → (s.bh b).resetEnd.isSome = true → (s.bh b).held = false → answers (exec (.bulkheadResetComplete b) s) (fun t =>
      (t.bh b).gateClosed = false ∧ (t.bh b).resetEnd = none)) ∧
    ((s.vf vf).presetDue = true → answers (exec (.partitionReset vf) s) (fun t => (t.vf vf).presetDue = false)) ∧
    (let g := s.group sh
     (2 ≤ g.rotation.length → g.next = none → g.nextTick ≤ s.wall → g.switch = none → s.groupBusy sh = false →
       answers (exec (.switchTick sh) s) (fun t => (t.group sh).switch.isSome = true ∧ t.mem = s.mem)) ∧
     (∀ w, g.switch = some w →
       (let cs := (groupCells sh).filter (fun c => dieOf c == die)
        cs ≠ [] → die ∉ w.saved → s.wall ≤ w.deadline → (∀ c ∈ cs, s.settled c = true) → (∀ c ∈ cs, s.copied w.out c = true) →
          ∀ z, tfind die w.begun = some z → z ≤ s.wall → answers (exec (.yarderSave sh die) s) (fun t =>
          (t.group sh).switch = some { w with saved := w.saved ++ [die] })) ∧
       (w.deadline ≤ s.wall → (∃ d ∈ groupDies sh, d ∉ w.saved) → s.misses w.out < 2 → answers (exec (.saveDeadline sh) s) (fun t =>
         (t.group sh).switch = none ∧ (t.group sh).resident = g.resident)) ∧
       (s.saveComplete sh w = true → answers (exec (.restore sh) s) (fun t => (t.group sh).resident = w.inn ∧ (t.group sh).switch = none)))) ∧
    ((s.strand c sc).swReq = true → (s.strand c sc).swStop = false → (s.strand c sc).trap = none → (s.strand c sc).st = .dormant →
      answers (exec (.strandSwitchStop c sc) s) (fun t => (t.strand c sc).swStop = true ∧ t.mem = s.mem)) ∧
    ((s.cell c).dl ≠ 0 → (s.cell c).closed = false → (s.cell c).vf.isSome = true → exec (.cellClose c) s = .next (s.closeCell c)) ∧
    exec (.qdead c sc) s = .next (s.qdeadNow c sc)) ∧
  (∀ (s : State) (qp vf va n pa : Nat) (rkey : BitVec 32) (data : List Byte) (x y : Dword) (pg : List (Nat × Xlat)) (prio : BitVec 3) (pause : Bool),
    (s.boot.rom = false → (s.qp qp).err = false → (s.qp qp).vf = some vf → (s.vf vf).live = true → (s.vf vf).cfg.rkey = rkey → s.inReset vf = false →
      (data ≠ [] → ∀ w t, s.writeVa none vf (portDie qp) va data = .ok (w, t) → exec (.rdmaWrite qp rkey va data) s = .next { t with acks := t.acks ++ [(qp, [w])] }) ∧
      (n ≠ 0 → ∀ l, s.readVa none vf (portDie qp) va n = .ok l → exec (.rdmaRead qp rkey va n) s = .next { s with out := s.out ++ [.data qp l] }) ∧
      (va % 8 = 0 → s.pages none vf (portDie qp) va 8 .at = .ok pg → (∀ e ∈ pg, ∃ q, e.2 = .frame q) → paOf pg va = some pa → s.mem.poisoned pa = false →
        s.wordHeld pa = false → ∀ i ∈ [Instr.rdmaCompareAndSwap qp rkey va x y, .rdmaFetchAndAdd qp rkey va x], answers (exec i s) (fun t =>
          t.out = s.out ++ [.data qp (le8 (s.homeWord pa))]))) ∧
    exec (.rdmaUnsupported qp) s = .next { s with out := s.out ++ [.nakInvalid qp] } ∧
    answers (exec (.congestionNotificationPacket qp) s) (fun t => (t.qp qp).rate ≤ (s.qp qp).rate ∧ t.mem = s.mem) ∧
    answers (exec (.priorityFlowControlPause prio pause) s) (fun t => t.paused.getLsbD prio.toNat = pause ∧ t.mem = s.mem))
end

