-- ==== Sys2Proof/Laws/State.lean ====
section
/-! SUPPORT. One lemma per field for each update of the state, a cell or a strand that leaves it alone, true by rfl, so that no proof
unfolds a record update. -/

namespace Sys2Proof.Machine

open Sys2Proof

/-! A change of a cell -/

@[simp] theorem State.modCell_agenda (s : State) (c : Nat) (f : Cell → Cell) : (s.modCell c f).agenda = s.agenda := rfl
@[simp] theorem State.modCell_phase (s : State) (c : Nat) (f : Cell → Cell) : (s.modCell c f).phase = s.phase := rfl
@[simp] theorem State.modCell_cur (s : State) (c : Nat) (f : Cell → Cell) : (s.modCell c f).cur = s.cur := rfl
@[simp] theorem State.modCell_env (s : State) (c : Nat) (f : Cell → Cell) : (s.modCell c f).env = s.env := rfl
@[simp] theorem State.modCell_freeCtr (s : State) (c : Nat) (f : Cell → Cell) : (s.modCell c f).freeCtr = s.freeCtr := rfl
@[simp] theorem State.modCell_nextId (s : State) (c : Nat) (f : Cell → Cell) : (s.modCell c f).nextId = s.nextId := rfl
@[simp] theorem State.modCell_wall3 (s : State) (c : Nat) (f : Cell → Cell) : (s.modCell c f).wall3 = s.wall3 := rfl
@[simp] theorem State.modCell_mem (s : State) (c : Nat) (f : Cell → Cell) : (s.modCell c f).mem = s.mem := rfl
@[simp] theorem State.modCell_bhs (s : State) (c : Nat) (f : Cell → Cell) : (s.modCell c f).bhs = s.bhs := rfl
@[simp] theorem State.modCell_sems (s : State) (c : Nat) (f : Cell → Cell) : (s.modCell c f).sems = s.sems := rfl
@[simp] theorem State.modCell_sigs (s : State) (c : Nat) (f : Cell → Cell) : (s.modCell c f).sigs = s.sigs := rfl
@[simp] theorem State.modCell_msgs (s : State) (c : Nat) (f : Cell → Cell) : (s.modCell c f).msgs = s.msgs := rfl
@[simp] theorem State.modCell_waits (s : State) (c : Nat) (f : Cell → Cell) : (s.modCell c f).waits = s.waits := rfl
@[simp] theorem State.modCell_vfs (s : State) (c : Nat) (f : Cell → Cell) : (s.modCell c f).vfs = s.vfs := rfl
@[simp] theorem State.modCell_launches (s : State) (c : Nat) (f : Cell → Cell) : (s.modCell c f).launches = s.launches := rfl
@[simp] theorem State.modCell_groups (s : State) (c : Nat) (f : Cell → Cell) : (s.modCell c f).groups = s.groups := rfl
@[simp] theorem State.modCell_posts (s : State) (c : Nat) (f : Cell → Cell) : (s.modCell c f).posts = s.posts := rfl
@[simp] theorem State.modCell_tdecs (s : State) (c : Nat) (f : Cell → Cell) : (s.modCell c f).tdecs = s.tdecs := rfl
@[simp] theorem State.modCell_cancels (s : State) (c : Nat) (f : Cell → Cell) : (s.modCell c f).cancels = s.cancels := rfl
@[simp] theorem State.modCell_itemCancels (s : State) (c : Nat) (f : Cell → Cell) : (s.modCell c f).itemCancels = s.itemCancels := rfl
@[simp] theorem State.modCell_rings (s : State) (c : Nat) (f : Cell → Cell) : (s.modCell c f).rings = s.rings := rfl
@[simp] theorem State.modCell_svmq (s : State) (c : Nat) (f : Cell → Cell) : (s.modCell c f).svmq = s.svmq := rfl
@[simp] theorem State.modCell_svmLast (s : State) (c : Nat) (f : Cell → Cell) : (s.modCell c f).svmLast = s.svmLast := rfl
@[simp] theorem State.modCell_torus (s : State) (c : Nat) (f : Cell → Cell) : (s.modCell c f).torus = s.torus := rfl
@[simp] theorem State.modCell_aborts (s : State) (c : Nat) (f : Cell → Cell) : (s.modCell c f).aborts = s.aborts := rfl
@[simp] theorem State.modCell_gones (s : State) (c : Nat) (f : Cell → Cell) : (s.modCell c f).gones = s.gones := rfl
@[simp] theorem State.modCell_qps (s : State) (c : Nat) (f : Cell → Cell) : (s.modCell c f).qps = s.qps := rfl
@[simp] theorem State.modCell_mgmt (s : State) (c : Nat) (f : Cell → Cell) : (s.modCell c f).mgmt = s.mgmt := rfl
@[simp] theorem State.modCell_boot (s : State) (c : Nat) (f : Cell → Cell) : (s.modCell c f).boot = s.boot := rfl
@[simp] theorem State.modCell_pod (s : State) (c : Nat) (f : Cell → Cell) : (s.modCell c f).pod = s.pod := rfl
@[simp] theorem State.modCell_linksDown (s : State) (c : Nat) (f : Cell → Cell) : (s.modCell c f).linksDown = s.linksDown := rfl
@[simp] theorem State.modCell_acks (s : State) (c : Nat) (f : Cell → Cell) : (s.modCell c f).acks = s.acks := rfl
@[simp] theorem State.modCell_paused (s : State) (c : Nat) (f : Cell → Cell) : (s.modCell c f).paused = s.paused := rfl
@[simp] theorem State.modCell_out (s : State) (c : Nat) (f : Cell → Cell) : (s.modCell c f).out = s.out := rfl
@[simp] theorem State.modCell_nextPoll (s : State) (c : Nat) (f : Cell → Cell) : (s.modCell c f).nextPoll = s.nextPoll := rfl

/-! A change of a strand -/

@[simp] theorem State.modStrand_agenda (s : State) (c sc : Nat) (f : Strand → Strand) : (s.modStrand c sc f).agenda = s.agenda := rfl
@[simp] theorem State.modStrand_phase (s : State) (c sc : Nat) (f : Strand → Strand) : (s.modStrand c sc f).phase = s.phase := rfl
@[simp] theorem State.modStrand_cur (s : State) (c sc : Nat) (f : Strand → Strand) : (s.modStrand c sc f).cur = s.cur := rfl
@[simp] theorem State.modStrand_env (s : State) (c sc : Nat) (f : Strand → Strand) : (s.modStrand c sc f).env = s.env := rfl
@[simp] theorem State.modStrand_freeCtr (s : State) (c sc : Nat) (f : Strand → Strand) : (s.modStrand c sc f).freeCtr = s.freeCtr := rfl
@[simp] theorem State.modStrand_nextId (s : State) (c sc : Nat) (f : Strand → Strand) : (s.modStrand c sc f).nextId = s.nextId := rfl
@[simp] theorem State.modStrand_wall3 (s : State) (c sc : Nat) (f : Strand → Strand) : (s.modStrand c sc f).wall3 = s.wall3 := rfl
@[simp] theorem State.modStrand_mem (s : State) (c sc : Nat) (f : Strand → Strand) : (s.modStrand c sc f).mem = s.mem := rfl
@[simp] theorem State.modStrand_bhs (s : State) (c sc : Nat) (f : Strand → Strand) : (s.modStrand c sc f).bhs = s.bhs := rfl
@[simp] theorem State.modStrand_sems (s : State) (c sc : Nat) (f : Strand → Strand) : (s.modStrand c sc f).sems = s.sems := rfl
@[simp] theorem State.modStrand_sigs (s : State) (c sc : Nat) (f : Strand → Strand) : (s.modStrand c sc f).sigs = s.sigs := rfl
@[simp] theorem State.modStrand_msgs (s : State) (c sc : Nat) (f : Strand → Strand) : (s.modStrand c sc f).msgs = s.msgs := rfl
@[simp] theorem State.modStrand_waits (s : State) (c sc : Nat) (f : Strand → Strand) : (s.modStrand c sc f).waits = s.waits := rfl
@[simp] theorem State.modStrand_vfs (s : State) (c sc : Nat) (f : Strand → Strand) : (s.modStrand c sc f).vfs = s.vfs := rfl
@[simp] theorem State.modStrand_launches (s : State) (c sc : Nat) (f : Strand → Strand) : (s.modStrand c sc f).launches = s.launches := rfl
@[simp] theorem State.modStrand_groups (s : State) (c sc : Nat) (f : Strand → Strand) : (s.modStrand c sc f).groups = s.groups := rfl
@[simp] theorem State.modStrand_posts (s : State) (c sc : Nat) (f : Strand → Strand) : (s.modStrand c sc f).posts = s.posts := rfl
@[simp] theorem State.modStrand_tdecs (s : State) (c sc : Nat) (f : Strand → Strand) : (s.modStrand c sc f).tdecs = s.tdecs := rfl
@[simp] theorem State.modStrand_cancels (s : State) (c sc : Nat) (f : Strand → Strand) : (s.modStrand c sc f).cancels = s.cancels := rfl
@[simp] theorem State.modStrand_itemCancels (s : State) (c sc : Nat) (f : Strand → Strand) : (s.modStrand c sc f).itemCancels = s.itemCancels := rfl
@[simp] theorem State.modStrand_rings (s : State) (c sc : Nat) (f : Strand → Strand) : (s.modStrand c sc f).rings = s.rings := rfl
@[simp] theorem State.modStrand_svmq (s : State) (c sc : Nat) (f : Strand → Strand) : (s.modStrand c sc f).svmq = s.svmq := rfl
@[simp] theorem State.modStrand_svmLast (s : State) (c sc : Nat) (f : Strand → Strand) : (s.modStrand c sc f).svmLast = s.svmLast := rfl
@[simp] theorem State.modStrand_torus (s : State) (c sc : Nat) (f : Strand → Strand) : (s.modStrand c sc f).torus = s.torus := rfl
@[simp] theorem State.modStrand_aborts (s : State) (c sc : Nat) (f : Strand → Strand) : (s.modStrand c sc f).aborts = s.aborts := rfl
@[simp] theorem State.modStrand_gones (s : State) (c sc : Nat) (f : Strand → Strand) : (s.modStrand c sc f).gones = s.gones := rfl
@[simp] theorem State.modStrand_qps (s : State) (c sc : Nat) (f : Strand → Strand) : (s.modStrand c sc f).qps = s.qps := rfl
@[simp] theorem State.modStrand_mgmt (s : State) (c sc : Nat) (f : Strand → Strand) : (s.modStrand c sc f).mgmt = s.mgmt := rfl
@[simp] theorem State.modStrand_boot (s : State) (c sc : Nat) (f : Strand → Strand) : (s.modStrand c sc f).boot = s.boot := rfl
@[simp] theorem State.modStrand_pod (s : State) (c sc : Nat) (f : Strand → Strand) : (s.modStrand c sc f).pod = s.pod := rfl
@[simp] theorem State.modStrand_linksDown (s : State) (c sc : Nat) (f : Strand → Strand) : (s.modStrand c sc f).linksDown = s.linksDown := rfl
@[simp] theorem State.modStrand_acks (s : State) (c sc : Nat) (f : Strand → Strand) : (s.modStrand c sc f).acks = s.acks := rfl
@[simp] theorem State.modStrand_paused (s : State) (c sc : Nat) (f : Strand → Strand) : (s.modStrand c sc f).paused = s.paused := rfl
@[simp] theorem State.modStrand_out (s : State) (c sc : Nat) (f : Strand → Strand) : (s.modStrand c sc f).out = s.out := rfl
@[simp] theorem State.modStrand_nextPoll (s : State) (c sc : Nat) (f : Strand → Strand) : (s.modStrand c sc f).nextPoll = s.nextPoll := rfl

/-! A change of the issuing cell -/

@[simp] theorem State.modHere_agenda (s : State) (f : Cell → Cell) : (s.modHere f).agenda = s.agenda := rfl
@[simp] theorem State.modHere_phase (s : State) (f : Cell → Cell) : (s.modHere f).phase = s.phase := rfl
@[simp] theorem State.modHere_cur (s : State) (f : Cell → Cell) : (s.modHere f).cur = s.cur := rfl
@[simp] theorem State.modHere_env (s : State) (f : Cell → Cell) : (s.modHere f).env = s.env := rfl
@[simp] theorem State.modHere_freeCtr (s : State) (f : Cell → Cell) : (s.modHere f).freeCtr = s.freeCtr := rfl
@[simp] theorem State.modHere_nextId (s : State) (f : Cell → Cell) : (s.modHere f).nextId = s.nextId := rfl
@[simp] theorem State.modHere_wall3 (s : State) (f : Cell → Cell) : (s.modHere f).wall3 = s.wall3 := rfl
@[simp] theorem State.modHere_mem (s : State) (f : Cell → Cell) : (s.modHere f).mem = s.mem := rfl
@[simp] theorem State.modHere_bhs (s : State) (f : Cell → Cell) : (s.modHere f).bhs = s.bhs := rfl
@[simp] theorem State.modHere_sems (s : State) (f : Cell → Cell) : (s.modHere f).sems = s.sems := rfl
@[simp] theorem State.modHere_sigs (s : State) (f : Cell → Cell) : (s.modHere f).sigs = s.sigs := rfl
@[simp] theorem State.modHere_msgs (s : State) (f : Cell → Cell) : (s.modHere f).msgs = s.msgs := rfl
@[simp] theorem State.modHere_waits (s : State) (f : Cell → Cell) : (s.modHere f).waits = s.waits := rfl
@[simp] theorem State.modHere_vfs (s : State) (f : Cell → Cell) : (s.modHere f).vfs = s.vfs := rfl
@[simp] theorem State.modHere_launches (s : State) (f : Cell → Cell) : (s.modHere f).launches = s.launches := rfl
@[simp] theorem State.modHere_groups (s : State) (f : Cell → Cell) : (s.modHere f).groups = s.groups := rfl
@[simp] theorem State.modHere_posts (s : State) (f : Cell → Cell) : (s.modHere f).posts = s.posts := rfl
@[simp] theorem State.modHere_tdecs (s : State) (f : Cell → Cell) : (s.modHere f).tdecs = s.tdecs := rfl
@[simp] theorem State.modHere_cancels (s : State) (f : Cell → Cell) : (s.modHere f).cancels = s.cancels := rfl
@[simp] theorem State.modHere_itemCancels (s : State) (f : Cell → Cell) : (s.modHere f).itemCancels = s.itemCancels := rfl
@[simp] theorem State.modHere_rings (s : State) (f : Cell → Cell) : (s.modHere f).rings = s.rings := rfl
@[simp] theorem State.modHere_svmq (s : State) (f : Cell → Cell) : (s.modHere f).svmq = s.svmq := rfl
@[simp] theorem State.modHere_svmLast (s : State) (f : Cell → Cell) : (s.modHere f).svmLast = s.svmLast := rfl
@[simp] theorem State.modHere_torus (s : State) (f : Cell → Cell) : (s.modHere f).torus = s.torus := rfl
@[simp] theorem State.modHere_aborts (s : State) (f : Cell → Cell) : (s.modHere f).aborts = s.aborts := rfl
@[simp] theorem State.modHere_gones (s : State) (f : Cell → Cell) : (s.modHere f).gones = s.gones := rfl
@[simp] theorem State.modHere_qps (s : State) (f : Cell → Cell) : (s.modHere f).qps = s.qps := rfl
@[simp] theorem State.modHere_mgmt (s : State) (f : Cell → Cell) : (s.modHere f).mgmt = s.mgmt := rfl
@[simp] theorem State.modHere_boot (s : State) (f : Cell → Cell) : (s.modHere f).boot = s.boot := rfl
@[simp] theorem State.modHere_pod (s : State) (f : Cell → Cell) : (s.modHere f).pod = s.pod := rfl
@[simp] theorem State.modHere_linksDown (s : State) (f : Cell → Cell) : (s.modHere f).linksDown = s.linksDown := rfl
@[simp] theorem State.modHere_acks (s : State) (f : Cell → Cell) : (s.modHere f).acks = s.acks := rfl
@[simp] theorem State.modHere_paused (s : State) (f : Cell → Cell) : (s.modHere f).paused = s.paused := rfl
@[simp] theorem State.modHere_out (s : State) (f : Cell → Cell) : (s.modHere f).out = s.out := rfl
@[simp] theorem State.modHere_nextPoll (s : State) (f : Cell → Cell) : (s.modHere f).nextPoll = s.nextPoll := rfl

/-! A change of the issuing strand -/

@[simp] theorem State.modMe_agenda (s : State) (f : Strand → Strand) : (s.modMe f).agenda = s.agenda := rfl
@[simp] theorem State.modMe_phase (s : State) (f : Strand → Strand) : (s.modMe f).phase = s.phase := rfl
@[simp] theorem State.modMe_cur (s : State) (f : Strand → Strand) : (s.modMe f).cur = s.cur := rfl
@[simp] theorem State.modMe_env (s : State) (f : Strand → Strand) : (s.modMe f).env = s.env := rfl
@[simp] theorem State.modMe_freeCtr (s : State) (f : Strand → Strand) : (s.modMe f).freeCtr = s.freeCtr := rfl
@[simp] theorem State.modMe_nextId (s : State) (f : Strand → Strand) : (s.modMe f).nextId = s.nextId := rfl
@[simp] theorem State.modMe_wall3 (s : State) (f : Strand → Strand) : (s.modMe f).wall3 = s.wall3 := rfl
@[simp] theorem State.modMe_mem (s : State) (f : Strand → Strand) : (s.modMe f).mem = s.mem := rfl
@[simp] theorem State.modMe_bhs (s : State) (f : Strand → Strand) : (s.modMe f).bhs = s.bhs := rfl
@[simp] theorem State.modMe_sems (s : State) (f : Strand → Strand) : (s.modMe f).sems = s.sems := rfl
@[simp] theorem State.modMe_sigs (s : State) (f : Strand → Strand) : (s.modMe f).sigs = s.sigs := rfl
@[simp] theorem State.modMe_msgs (s : State) (f : Strand → Strand) : (s.modMe f).msgs = s.msgs := rfl
@[simp] theorem State.modMe_waits (s : State) (f : Strand → Strand) : (s.modMe f).waits = s.waits := rfl
@[simp] theorem State.modMe_vfs (s : State) (f : Strand → Strand) : (s.modMe f).vfs = s.vfs := rfl
@[simp] theorem State.modMe_launches (s : State) (f : Strand → Strand) : (s.modMe f).launches = s.launches := rfl
@[simp] theorem State.modMe_groups (s : State) (f : Strand → Strand) : (s.modMe f).groups = s.groups := rfl
@[simp] theorem State.modMe_posts (s : State) (f : Strand → Strand) : (s.modMe f).posts = s.posts := rfl
@[simp] theorem State.modMe_tdecs (s : State) (f : Strand → Strand) : (s.modMe f).tdecs = s.tdecs := rfl
@[simp] theorem State.modMe_cancels (s : State) (f : Strand → Strand) : (s.modMe f).cancels = s.cancels := rfl
@[simp] theorem State.modMe_itemCancels (s : State) (f : Strand → Strand) : (s.modMe f).itemCancels = s.itemCancels := rfl
@[simp] theorem State.modMe_rings (s : State) (f : Strand → Strand) : (s.modMe f).rings = s.rings := rfl
@[simp] theorem State.modMe_svmq (s : State) (f : Strand → Strand) : (s.modMe f).svmq = s.svmq := rfl
@[simp] theorem State.modMe_svmLast (s : State) (f : Strand → Strand) : (s.modMe f).svmLast = s.svmLast := rfl
@[simp] theorem State.modMe_torus (s : State) (f : Strand → Strand) : (s.modMe f).torus = s.torus := rfl
@[simp] theorem State.modMe_aborts (s : State) (f : Strand → Strand) : (s.modMe f).aborts = s.aborts := rfl
@[simp] theorem State.modMe_gones (s : State) (f : Strand → Strand) : (s.modMe f).gones = s.gones := rfl
@[simp] theorem State.modMe_qps (s : State) (f : Strand → Strand) : (s.modMe f).qps = s.qps := rfl
@[simp] theorem State.modMe_mgmt (s : State) (f : Strand → Strand) : (s.modMe f).mgmt = s.mgmt := rfl
@[simp] theorem State.modMe_boot (s : State) (f : Strand → Strand) : (s.modMe f).boot = s.boot := rfl
@[simp] theorem State.modMe_pod (s : State) (f : Strand → Strand) : (s.modMe f).pod = s.pod := rfl
@[simp] theorem State.modMe_linksDown (s : State) (f : Strand → Strand) : (s.modMe f).linksDown = s.linksDown := rfl
@[simp] theorem State.modMe_acks (s : State) (f : Strand → Strand) : (s.modMe f).acks = s.acks := rfl
@[simp] theorem State.modMe_paused (s : State) (f : Strand → Strand) : (s.modMe f).paused = s.paused := rfl
@[simp] theorem State.modMe_out (s : State) (f : Strand → Strand) : (s.modMe f).out = s.out := rfl
@[simp] theorem State.modMe_nextPoll (s : State) (f : Strand → Strand) : (s.modMe f).nextPoll = s.nextPoll := rfl

/-! A change of a VF -/

@[simp] theorem State.modVf_agenda (s : State) (n : Nat) (f : Vf → Vf) : (s.modVf n f).agenda = s.agenda := rfl
@[simp] theorem State.modVf_phase (s : State) (n : Nat) (f : Vf → Vf) : (s.modVf n f).phase = s.phase := rfl
@[simp] theorem State.modVf_cur (s : State) (n : Nat) (f : Vf → Vf) : (s.modVf n f).cur = s.cur := rfl
@[simp] theorem State.modVf_env (s : State) (n : Nat) (f : Vf → Vf) : (s.modVf n f).env = s.env := rfl
@[simp] theorem State.modVf_freeCtr (s : State) (n : Nat) (f : Vf → Vf) : (s.modVf n f).freeCtr = s.freeCtr := rfl
@[simp] theorem State.modVf_nextId (s : State) (n : Nat) (f : Vf → Vf) : (s.modVf n f).nextId = s.nextId := rfl
@[simp] theorem State.modVf_wall3 (s : State) (n : Nat) (f : Vf → Vf) : (s.modVf n f).wall3 = s.wall3 := rfl
@[simp] theorem State.modVf_cells (s : State) (n : Nat) (f : Vf → Vf) : (s.modVf n f).cells = s.cells := rfl
@[simp] theorem State.modVf_mem (s : State) (n : Nat) (f : Vf → Vf) : (s.modVf n f).mem = s.mem := rfl
@[simp] theorem State.modVf_bhs (s : State) (n : Nat) (f : Vf → Vf) : (s.modVf n f).bhs = s.bhs := rfl
@[simp] theorem State.modVf_sems (s : State) (n : Nat) (f : Vf → Vf) : (s.modVf n f).sems = s.sems := rfl
@[simp] theorem State.modVf_sigs (s : State) (n : Nat) (f : Vf → Vf) : (s.modVf n f).sigs = s.sigs := rfl
@[simp] theorem State.modVf_msgs (s : State) (n : Nat) (f : Vf → Vf) : (s.modVf n f).msgs = s.msgs := rfl
@[simp] theorem State.modVf_waits (s : State) (n : Nat) (f : Vf → Vf) : (s.modVf n f).waits = s.waits := rfl
@[simp] theorem State.modVf_launches (s : State) (n : Nat) (f : Vf → Vf) : (s.modVf n f).launches = s.launches := rfl
@[simp] theorem State.modVf_groups (s : State) (n : Nat) (f : Vf → Vf) : (s.modVf n f).groups = s.groups := rfl
@[simp] theorem State.modVf_posts (s : State) (n : Nat) (f : Vf → Vf) : (s.modVf n f).posts = s.posts := rfl
@[simp] theorem State.modVf_tdecs (s : State) (n : Nat) (f : Vf → Vf) : (s.modVf n f).tdecs = s.tdecs := rfl
@[simp] theorem State.modVf_cancels (s : State) (n : Nat) (f : Vf → Vf) : (s.modVf n f).cancels = s.cancels := rfl
@[simp] theorem State.modVf_itemCancels (s : State) (n : Nat) (f : Vf → Vf) : (s.modVf n f).itemCancels = s.itemCancels := rfl
@[simp] theorem State.modVf_rings (s : State) (n : Nat) (f : Vf → Vf) : (s.modVf n f).rings = s.rings := rfl
@[simp] theorem State.modVf_svmq (s : State) (n : Nat) (f : Vf → Vf) : (s.modVf n f).svmq = s.svmq := rfl
@[simp] theorem State.modVf_svmLast (s : State) (n : Nat) (f : Vf → Vf) : (s.modVf n f).svmLast = s.svmLast := rfl
@[simp] theorem State.modVf_torus (s : State) (n : Nat) (f : Vf → Vf) : (s.modVf n f).torus = s.torus := rfl
@[simp] theorem State.modVf_aborts (s : State) (n : Nat) (f : Vf → Vf) : (s.modVf n f).aborts = s.aborts := rfl
@[simp] theorem State.modVf_gones (s : State) (n : Nat) (f : Vf → Vf) : (s.modVf n f).gones = s.gones := rfl
@[simp] theorem State.modVf_qps (s : State) (n : Nat) (f : Vf → Vf) : (s.modVf n f).qps = s.qps := rfl
@[simp] theorem State.modVf_mgmt (s : State) (n : Nat) (f : Vf → Vf) : (s.modVf n f).mgmt = s.mgmt := rfl
@[simp] theorem State.modVf_boot (s : State) (n : Nat) (f : Vf → Vf) : (s.modVf n f).boot = s.boot := rfl
@[simp] theorem State.modVf_pod (s : State) (n : Nat) (f : Vf → Vf) : (s.modVf n f).pod = s.pod := rfl
@[simp] theorem State.modVf_linksDown (s : State) (n : Nat) (f : Vf → Vf) : (s.modVf n f).linksDown = s.linksDown := rfl
@[simp] theorem State.modVf_acks (s : State) (n : Nat) (f : Vf → Vf) : (s.modVf n f).acks = s.acks := rfl
@[simp] theorem State.modVf_paused (s : State) (n : Nat) (f : Vf → Vf) : (s.modVf n f).paused = s.paused := rfl
@[simp] theorem State.modVf_out (s : State) (n : Nat) (f : Vf → Vf) : (s.modVf n f).out = s.out := rfl
@[simp] theorem State.modVf_nextPoll (s : State) (n : Nat) (f : Vf → Vf) : (s.modVf n f).nextPoll = s.nextPoll := rfl

/-! A new operation -/

@[simp] theorem State.addOp_agenda (s : State) (c : Nat) (o : Op) : (s.addOp c o).agenda = s.agenda := rfl
@[simp] theorem State.addOp_phase (s : State) (c : Nat) (o : Op) : (s.addOp c o).phase = s.phase := rfl
@[simp] theorem State.addOp_cur (s : State) (c : Nat) (o : Op) : (s.addOp c o).cur = s.cur := rfl
@[simp] theorem State.addOp_env (s : State) (c : Nat) (o : Op) : (s.addOp c o).env = s.env := rfl
@[simp] theorem State.addOp_freeCtr (s : State) (c : Nat) (o : Op) : (s.addOp c o).freeCtr = s.freeCtr := rfl
@[simp] theorem State.addOp_nextId (s : State) (c : Nat) (o : Op) : (s.addOp c o).nextId = s.nextId := rfl
@[simp] theorem State.addOp_wall3 (s : State) (c : Nat) (o : Op) : (s.addOp c o).wall3 = s.wall3 := rfl
@[simp] theorem State.addOp_mem (s : State) (c : Nat) (o : Op) : (s.addOp c o).mem = s.mem := rfl
@[simp] theorem State.addOp_bhs (s : State) (c : Nat) (o : Op) : (s.addOp c o).bhs = s.bhs := rfl
@[simp] theorem State.addOp_sems (s : State) (c : Nat) (o : Op) : (s.addOp c o).sems = s.sems := rfl
@[simp] theorem State.addOp_sigs (s : State) (c : Nat) (o : Op) : (s.addOp c o).sigs = s.sigs := rfl
@[simp] theorem State.addOp_msgs (s : State) (c : Nat) (o : Op) : (s.addOp c o).msgs = s.msgs := rfl
@[simp] theorem State.addOp_waits (s : State) (c : Nat) (o : Op) : (s.addOp c o).waits = s.waits := rfl
@[simp] theorem State.addOp_vfs (s : State) (c : Nat) (o : Op) : (s.addOp c o).vfs = s.vfs := rfl
@[simp] theorem State.addOp_launches (s : State) (c : Nat) (o : Op) : (s.addOp c o).launches = s.launches := rfl
@[simp] theorem State.addOp_groups (s : State) (c : Nat) (o : Op) : (s.addOp c o).groups = s.groups := rfl
@[simp] theorem State.addOp_posts (s : State) (c : Nat) (o : Op) : (s.addOp c o).posts = s.posts := rfl
@[simp] theorem State.addOp_tdecs (s : State) (c : Nat) (o : Op) : (s.addOp c o).tdecs = s.tdecs := rfl
@[simp] theorem State.addOp_cancels (s : State) (c : Nat) (o : Op) : (s.addOp c o).cancels = s.cancels := rfl
@[simp] theorem State.addOp_itemCancels (s : State) (c : Nat) (o : Op) : (s.addOp c o).itemCancels = s.itemCancels := rfl
@[simp] theorem State.addOp_rings (s : State) (c : Nat) (o : Op) : (s.addOp c o).rings = s.rings := rfl
@[simp] theorem State.addOp_svmq (s : State) (c : Nat) (o : Op) : (s.addOp c o).svmq = s.svmq := rfl
@[simp] theorem State.addOp_svmLast (s : State) (c : Nat) (o : Op) : (s.addOp c o).svmLast = s.svmLast := rfl
@[simp] theorem State.addOp_torus (s : State) (c : Nat) (o : Op) : (s.addOp c o).torus = s.torus := rfl
@[simp] theorem State.addOp_aborts (s : State) (c : Nat) (o : Op) : (s.addOp c o).aborts = s.aborts := rfl
@[simp] theorem State.addOp_gones (s : State) (c : Nat) (o : Op) : (s.addOp c o).gones = s.gones := rfl
@[simp] theorem State.addOp_qps (s : State) (c : Nat) (o : Op) : (s.addOp c o).qps = s.qps := rfl
@[simp] theorem State.addOp_mgmt (s : State) (c : Nat) (o : Op) : (s.addOp c o).mgmt = s.mgmt := rfl
@[simp] theorem State.addOp_boot (s : State) (c : Nat) (o : Op) : (s.addOp c o).boot = s.boot := rfl
@[simp] theorem State.addOp_pod (s : State) (c : Nat) (o : Op) : (s.addOp c o).pod = s.pod := rfl
@[simp] theorem State.addOp_linksDown (s : State) (c : Nat) (o : Op) : (s.addOp c o).linksDown = s.linksDown := rfl
@[simp] theorem State.addOp_acks (s : State) (c : Nat) (o : Op) : (s.addOp c o).acks = s.acks := rfl
@[simp] theorem State.addOp_paused (s : State) (c : Nat) (o : Op) : (s.addOp c o).paused = s.paused := rfl
@[simp] theorem State.addOp_out (s : State) (c : Nat) (o : Op) : (s.addOp c o).out = s.out := rfl
@[simp] theorem State.addOp_nextPoll (s : State) (c : Nat) (o : Op) : (s.addOp c o).nextPoll = s.nextPoll := rfl

/-! An operation leaves -/

@[simp] theorem State.dropOp_agenda (s : State) (c id : Nat) : (s.dropOp c id).agenda = s.agenda := rfl
@[simp] theorem State.dropOp_phase (s : State) (c id : Nat) : (s.dropOp c id).phase = s.phase := rfl
@[simp] theorem State.dropOp_cur (s : State) (c id : Nat) : (s.dropOp c id).cur = s.cur := rfl
@[simp] theorem State.dropOp_env (s : State) (c id : Nat) : (s.dropOp c id).env = s.env := rfl
@[simp] theorem State.dropOp_freeCtr (s : State) (c id : Nat) : (s.dropOp c id).freeCtr = s.freeCtr := rfl
@[simp] theorem State.dropOp_nextId (s : State) (c id : Nat) : (s.dropOp c id).nextId = s.nextId := rfl
@[simp] theorem State.dropOp_wall3 (s : State) (c id : Nat) : (s.dropOp c id).wall3 = s.wall3 := rfl
@[simp] theorem State.dropOp_mem (s : State) (c id : Nat) : (s.dropOp c id).mem = s.mem := rfl
@[simp] theorem State.dropOp_bhs (s : State) (c id : Nat) : (s.dropOp c id).bhs = s.bhs := rfl
@[simp] theorem State.dropOp_sems (s : State) (c id : Nat) : (s.dropOp c id).sems = s.sems := rfl
@[simp] theorem State.dropOp_sigs (s : State) (c id : Nat) : (s.dropOp c id).sigs = s.sigs := rfl
@[simp] theorem State.dropOp_msgs (s : State) (c id : Nat) : (s.dropOp c id).msgs = s.msgs := rfl
@[simp] theorem State.dropOp_waits (s : State) (c id : Nat) : (s.dropOp c id).waits = s.waits := rfl
@[simp] theorem State.dropOp_vfs (s : State) (c id : Nat) : (s.dropOp c id).vfs = s.vfs := rfl
@[simp] theorem State.dropOp_launches (s : State) (c id : Nat) : (s.dropOp c id).launches = s.launches := rfl
@[simp] theorem State.dropOp_groups (s : State) (c id : Nat) : (s.dropOp c id).groups = s.groups := rfl
@[simp] theorem State.dropOp_posts (s : State) (c id : Nat) : (s.dropOp c id).posts = s.posts := rfl
@[simp] theorem State.dropOp_tdecs (s : State) (c id : Nat) : (s.dropOp c id).tdecs = s.tdecs := rfl
@[simp] theorem State.dropOp_cancels (s : State) (c id : Nat) : (s.dropOp c id).cancels = s.cancels := rfl
@[simp] theorem State.dropOp_itemCancels (s : State) (c id : Nat) : (s.dropOp c id).itemCancels = s.itemCancels := rfl
@[simp] theorem State.dropOp_rings (s : State) (c id : Nat) : (s.dropOp c id).rings = s.rings := rfl
@[simp] theorem State.dropOp_svmq (s : State) (c id : Nat) : (s.dropOp c id).svmq = s.svmq := rfl
@[simp] theorem State.dropOp_svmLast (s : State) (c id : Nat) : (s.dropOp c id).svmLast = s.svmLast := rfl
@[simp] theorem State.dropOp_torus (s : State) (c id : Nat) : (s.dropOp c id).torus = s.torus := rfl
@[simp] theorem State.dropOp_aborts (s : State) (c id : Nat) : (s.dropOp c id).aborts = s.aborts := rfl
@[simp] theorem State.dropOp_gones (s : State) (c id : Nat) : (s.dropOp c id).gones = s.gones := rfl
@[simp] theorem State.dropOp_qps (s : State) (c id : Nat) : (s.dropOp c id).qps = s.qps := rfl
@[simp] theorem State.dropOp_mgmt (s : State) (c id : Nat) : (s.dropOp c id).mgmt = s.mgmt := rfl
@[simp] theorem State.dropOp_boot (s : State) (c id : Nat) : (s.dropOp c id).boot = s.boot := rfl
@[simp] theorem State.dropOp_pod (s : State) (c id : Nat) : (s.dropOp c id).pod = s.pod := rfl
@[simp] theorem State.dropOp_linksDown (s : State) (c id : Nat) : (s.dropOp c id).linksDown = s.linksDown := rfl
@[simp] theorem State.dropOp_acks (s : State) (c id : Nat) : (s.dropOp c id).acks = s.acks := rfl
@[simp] theorem State.dropOp_paused (s : State) (c id : Nat) : (s.dropOp c id).paused = s.paused := rfl
@[simp] theorem State.dropOp_out (s : State) (c id : Nat) : (s.dropOp c id).out = s.out := rfl
@[simp] theorem State.dropOp_nextPoll (s : State) (c id : Nat) : (s.dropOp c id).nextPoll = s.nextPoll := rfl

/-! A change of an operation -/

@[simp] theorem State.modOp_agenda (s : State) (c id : Nat) (f : Op → Op) : (s.modOp c id f).agenda = s.agenda := rfl
@[simp] theorem State.modOp_phase (s : State) (c id : Nat) (f : Op → Op) : (s.modOp c id f).phase = s.phase := rfl
@[simp] theorem State.modOp_cur (s : State) (c id : Nat) (f : Op → Op) : (s.modOp c id f).cur = s.cur := rfl
@[simp] theorem State.modOp_env (s : State) (c id : Nat) (f : Op → Op) : (s.modOp c id f).env = s.env := rfl
@[simp] theorem State.modOp_freeCtr (s : State) (c id : Nat) (f : Op → Op) : (s.modOp c id f).freeCtr = s.freeCtr := rfl
@[simp] theorem State.modOp_nextId (s : State) (c id : Nat) (f : Op → Op) : (s.modOp c id f).nextId = s.nextId := rfl
@[simp] theorem State.modOp_wall3 (s : State) (c id : Nat) (f : Op → Op) : (s.modOp c id f).wall3 = s.wall3 := rfl
@[simp] theorem State.modOp_mem (s : State) (c id : Nat) (f : Op → Op) : (s.modOp c id f).mem = s.mem := rfl
@[simp] theorem State.modOp_bhs (s : State) (c id : Nat) (f : Op → Op) : (s.modOp c id f).bhs = s.bhs := rfl
@[simp] theorem State.modOp_sems (s : State) (c id : Nat) (f : Op → Op) : (s.modOp c id f).sems = s.sems := rfl
@[simp] theorem State.modOp_sigs (s : State) (c id : Nat) (f : Op → Op) : (s.modOp c id f).sigs = s.sigs := rfl
@[simp] theorem State.modOp_msgs (s : State) (c id : Nat) (f : Op → Op) : (s.modOp c id f).msgs = s.msgs := rfl
@[simp] theorem State.modOp_waits (s : State) (c id : Nat) (f : Op → Op) : (s.modOp c id f).waits = s.waits := rfl
@[simp] theorem State.modOp_vfs (s : State) (c id : Nat) (f : Op → Op) : (s.modOp c id f).vfs = s.vfs := rfl
@[simp] theorem State.modOp_launches (s : State) (c id : Nat) (f : Op → Op) : (s.modOp c id f).launches = s.launches := rfl
@[simp] theorem State.modOp_groups (s : State) (c id : Nat) (f : Op → Op) : (s.modOp c id f).groups = s.groups := rfl
@[simp] theorem State.modOp_posts (s : State) (c id : Nat) (f : Op → Op) : (s.modOp c id f).posts = s.posts := rfl
@[simp] theorem State.modOp_tdecs (s : State) (c id : Nat) (f : Op → Op) : (s.modOp c id f).tdecs = s.tdecs := rfl
@[simp] theorem State.modOp_cancels (s : State) (c id : Nat) (f : Op → Op) : (s.modOp c id f).cancels = s.cancels := rfl
@[simp] theorem State.modOp_itemCancels (s : State) (c id : Nat) (f : Op → Op) : (s.modOp c id f).itemCancels = s.itemCancels := rfl
@[simp] theorem State.modOp_rings (s : State) (c id : Nat) (f : Op → Op) : (s.modOp c id f).rings = s.rings := rfl
@[simp] theorem State.modOp_svmq (s : State) (c id : Nat) (f : Op → Op) : (s.modOp c id f).svmq = s.svmq := rfl
@[simp] theorem State.modOp_svmLast (s : State) (c id : Nat) (f : Op → Op) : (s.modOp c id f).svmLast = s.svmLast := rfl
@[simp] theorem State.modOp_torus (s : State) (c id : Nat) (f : Op → Op) : (s.modOp c id f).torus = s.torus := rfl
@[simp] theorem State.modOp_aborts (s : State) (c id : Nat) (f : Op → Op) : (s.modOp c id f).aborts = s.aborts := rfl
@[simp] theorem State.modOp_gones (s : State) (c id : Nat) (f : Op → Op) : (s.modOp c id f).gones = s.gones := rfl
@[simp] theorem State.modOp_qps (s : State) (c id : Nat) (f : Op → Op) : (s.modOp c id f).qps = s.qps := rfl
@[simp] theorem State.modOp_mgmt (s : State) (c id : Nat) (f : Op → Op) : (s.modOp c id f).mgmt = s.mgmt := rfl
@[simp] theorem State.modOp_boot (s : State) (c id : Nat) (f : Op → Op) : (s.modOp c id f).boot = s.boot := rfl
@[simp] theorem State.modOp_pod (s : State) (c id : Nat) (f : Op → Op) : (s.modOp c id f).pod = s.pod := rfl
@[simp] theorem State.modOp_linksDown (s : State) (c id : Nat) (f : Op → Op) : (s.modOp c id f).linksDown = s.linksDown := rfl
@[simp] theorem State.modOp_acks (s : State) (c id : Nat) (f : Op → Op) : (s.modOp c id f).acks = s.acks := rfl
@[simp] theorem State.modOp_paused (s : State) (c id : Nat) (f : Op → Op) : (s.modOp c id f).paused = s.paused := rfl
@[simp] theorem State.modOp_out (s : State) (c id : Nat) (f : Op → Op) : (s.modOp c id f).out = s.out := rfl
@[simp] theorem State.modOp_nextPoll (s : State) (c id : Nat) (f : Op → Op) : (s.modOp c id f).nextPoll = s.nextPoll := rfl

/-! A result in flight -/

@[simp] theorem State.result_agenda (s : State) (lat : Nat) (w : PendW) : (s.result lat w).agenda = s.agenda := rfl
@[simp] theorem State.result_phase (s : State) (lat : Nat) (w : PendW) : (s.result lat w).phase = s.phase := rfl
@[simp] theorem State.result_cur (s : State) (lat : Nat) (w : PendW) : (s.result lat w).cur = s.cur := rfl
@[simp] theorem State.result_env (s : State) (lat : Nat) (w : PendW) : (s.result lat w).env = s.env := rfl
@[simp] theorem State.result_freeCtr (s : State) (lat : Nat) (w : PendW) : (s.result lat w).freeCtr = s.freeCtr := rfl
@[simp] theorem State.result_wall3 (s : State) (lat : Nat) (w : PendW) : (s.result lat w).wall3 = s.wall3 := rfl
@[simp] theorem State.result_mem (s : State) (lat : Nat) (w : PendW) : (s.result lat w).mem = s.mem := rfl
@[simp] theorem State.result_bhs (s : State) (lat : Nat) (w : PendW) : (s.result lat w).bhs = s.bhs := rfl
@[simp] theorem State.result_sems (s : State) (lat : Nat) (w : PendW) : (s.result lat w).sems = s.sems := rfl
@[simp] theorem State.result_sigs (s : State) (lat : Nat) (w : PendW) : (s.result lat w).sigs = s.sigs := rfl
@[simp] theorem State.result_msgs (s : State) (lat : Nat) (w : PendW) : (s.result lat w).msgs = s.msgs := rfl
@[simp] theorem State.result_waits (s : State) (lat : Nat) (w : PendW) : (s.result lat w).waits = s.waits := rfl
@[simp] theorem State.result_vfs (s : State) (lat : Nat) (w : PendW) : (s.result lat w).vfs = s.vfs := rfl
@[simp] theorem State.result_launches (s : State) (lat : Nat) (w : PendW) : (s.result lat w).launches = s.launches := rfl
@[simp] theorem State.result_groups (s : State) (lat : Nat) (w : PendW) : (s.result lat w).groups = s.groups := rfl
@[simp] theorem State.result_posts (s : State) (lat : Nat) (w : PendW) : (s.result lat w).posts = s.posts := rfl
@[simp] theorem State.result_tdecs (s : State) (lat : Nat) (w : PendW) : (s.result lat w).tdecs = s.tdecs := rfl
@[simp] theorem State.result_cancels (s : State) (lat : Nat) (w : PendW) : (s.result lat w).cancels = s.cancels := rfl
@[simp] theorem State.result_itemCancels (s : State) (lat : Nat) (w : PendW) : (s.result lat w).itemCancels = s.itemCancels := rfl
@[simp] theorem State.result_rings (s : State) (lat : Nat) (w : PendW) : (s.result lat w).rings = s.rings := rfl
@[simp] theorem State.result_svmq (s : State) (lat : Nat) (w : PendW) : (s.result lat w).svmq = s.svmq := rfl
@[simp] theorem State.result_svmLast (s : State) (lat : Nat) (w : PendW) : (s.result lat w).svmLast = s.svmLast := rfl
@[simp] theorem State.result_torus (s : State) (lat : Nat) (w : PendW) : (s.result lat w).torus = s.torus := rfl
@[simp] theorem State.result_aborts (s : State) (lat : Nat) (w : PendW) : (s.result lat w).aborts = s.aborts := rfl
@[simp] theorem State.result_gones (s : State) (lat : Nat) (w : PendW) : (s.result lat w).gones = s.gones := rfl
@[simp] theorem State.result_qps (s : State) (lat : Nat) (w : PendW) : (s.result lat w).qps = s.qps := rfl
@[simp] theorem State.result_mgmt (s : State) (lat : Nat) (w : PendW) : (s.result lat w).mgmt = s.mgmt := rfl
@[simp] theorem State.result_boot (s : State) (lat : Nat) (w : PendW) : (s.result lat w).boot = s.boot := rfl
@[simp] theorem State.result_pod (s : State) (lat : Nat) (w : PendW) : (s.result lat w).pod = s.pod := rfl
@[simp] theorem State.result_linksDown (s : State) (lat : Nat) (w : PendW) : (s.result lat w).linksDown = s.linksDown := rfl
@[simp] theorem State.result_acks (s : State) (lat : Nat) (w : PendW) : (s.result lat w).acks = s.acks := rfl
@[simp] theorem State.result_paused (s : State) (lat : Nat) (w : PendW) : (s.result lat w).paused = s.paused := rfl
@[simp] theorem State.result_out (s : State) (lat : Nat) (w : PendW) : (s.result lat w).out = s.out := rfl
@[simp] theorem State.result_nextPoll (s : State) (lat : Nat) (w : PendW) : (s.result lat w).nextPoll = s.nextPoll := rfl

/-! A held word -/

@[simp] theorem State.setHeld_agenda (s : State) (q : Bool) : (s.setHeld q).agenda = s.agenda := by unfold State.setHeld; split <;> rfl
@[simp] theorem State.setHeld_phase (s : State) (q : Bool) : (s.setHeld q).phase = s.phase := by unfold State.setHeld; split <;> rfl
@[simp] theorem State.setHeld_env (s : State) (q : Bool) : (s.setHeld q).env = s.env := by unfold State.setHeld; split <;> rfl
@[simp] theorem State.setHeld_freeCtr (s : State) (q : Bool) : (s.setHeld q).freeCtr = s.freeCtr := by unfold State.setHeld; split <;> rfl
@[simp] theorem State.setHeld_nextId (s : State) (q : Bool) : (s.setHeld q).nextId = s.nextId := by unfold State.setHeld; split <;> rfl
@[simp] theorem State.setHeld_wall3 (s : State) (q : Bool) : (s.setHeld q).wall3 = s.wall3 := by unfold State.setHeld; split <;> rfl
@[simp] theorem State.setHeld_mem (s : State) (q : Bool) : (s.setHeld q).mem = s.mem := by unfold State.setHeld; split <;> rfl
@[simp] theorem State.setHeld_bhs (s : State) (q : Bool) : (s.setHeld q).bhs = s.bhs := by unfold State.setHeld; split <;> rfl
@[simp] theorem State.setHeld_sems (s : State) (q : Bool) : (s.setHeld q).sems = s.sems := by unfold State.setHeld; split <;> rfl
@[simp] theorem State.setHeld_sigs (s : State) (q : Bool) : (s.setHeld q).sigs = s.sigs := by unfold State.setHeld; split <;> rfl
@[simp] theorem State.setHeld_msgs (s : State) (q : Bool) : (s.setHeld q).msgs = s.msgs := by unfold State.setHeld; split <;> rfl
@[simp] theorem State.setHeld_waits (s : State) (q : Bool) : (s.setHeld q).waits = s.waits := by unfold State.setHeld; split <;> rfl
@[simp] theorem State.setHeld_vfs (s : State) (q : Bool) : (s.setHeld q).vfs = s.vfs := by unfold State.setHeld; split <;> rfl
@[simp] theorem State.setHeld_launches (s : State) (q : Bool) : (s.setHeld q).launches = s.launches := by unfold State.setHeld; split <;> rfl
@[simp] theorem State.setHeld_groups (s : State) (q : Bool) : (s.setHeld q).groups = s.groups := by unfold State.setHeld; split <;> rfl
@[simp] theorem State.setHeld_posts (s : State) (q : Bool) : (s.setHeld q).posts = s.posts := by unfold State.setHeld; split <;> rfl
@[simp] theorem State.setHeld_tdecs (s : State) (q : Bool) : (s.setHeld q).tdecs = s.tdecs := by unfold State.setHeld; split <;> rfl
@[simp] theorem State.setHeld_cancels (s : State) (q : Bool) : (s.setHeld q).cancels = s.cancels := by unfold State.setHeld; split <;> rfl
@[simp] theorem State.setHeld_itemCancels (s : State) (q : Bool) : (s.setHeld q).itemCancels = s.itemCancels := by unfold State.setHeld; split <;> rfl
@[simp] theorem State.setHeld_rings (s : State) (q : Bool) : (s.setHeld q).rings = s.rings := by unfold State.setHeld; split <;> rfl
@[simp] theorem State.setHeld_svmq (s : State) (q : Bool) : (s.setHeld q).svmq = s.svmq := by unfold State.setHeld; split <;> rfl
@[simp] theorem State.setHeld_svmLast (s : State) (q : Bool) : (s.setHeld q).svmLast = s.svmLast := by unfold State.setHeld; split <;> rfl
@[simp] theorem State.setHeld_torus (s : State) (q : Bool) : (s.setHeld q).torus = s.torus := by unfold State.setHeld; split <;> rfl
@[simp] theorem State.setHeld_aborts (s : State) (q : Bool) : (s.setHeld q).aborts = s.aborts := by unfold State.setHeld; split <;> rfl
@[simp] theorem State.setHeld_gones (s : State) (q : Bool) : (s.setHeld q).gones = s.gones := by unfold State.setHeld; split <;> rfl
@[simp] theorem State.setHeld_qps (s : State) (q : Bool) : (s.setHeld q).qps = s.qps := by unfold State.setHeld; split <;> rfl
@[simp] theorem State.setHeld_mgmt (s : State) (q : Bool) : (s.setHeld q).mgmt = s.mgmt := by unfold State.setHeld; split <;> rfl
@[simp] theorem State.setHeld_boot (s : State) (q : Bool) : (s.setHeld q).boot = s.boot := by unfold State.setHeld; split <;> rfl
@[simp] theorem State.setHeld_pod (s : State) (q : Bool) : (s.setHeld q).pod = s.pod := by unfold State.setHeld; split <;> rfl
@[simp] theorem State.setHeld_linksDown (s : State) (q : Bool) : (s.setHeld q).linksDown = s.linksDown := by unfold State.setHeld; split <;> rfl
@[simp] theorem State.setHeld_acks (s : State) (q : Bool) : (s.setHeld q).acks = s.acks := by unfold State.setHeld; split <;> rfl
@[simp] theorem State.setHeld_paused (s : State) (q : Bool) : (s.setHeld q).paused = s.paused := by unfold State.setHeld; split <;> rfl
@[simp] theorem State.setHeld_out (s : State) (q : Bool) : (s.setHeld q).out = s.out := by unfold State.setHeld; split <;> rfl
@[simp] theorem State.setHeld_nextPoll (s : State) (q : Bool) : (s.setHeld q).nextPoll = s.nextPoll := by unfold State.setHeld; split <;> rfl

/-! Every die takes every write in flight -/

@[simp] theorem State.settle_agenda (s : State) : (s.settle).agenda = s.agenda := rfl
@[simp] theorem State.settle_phase (s : State) : (s.settle).phase = s.phase := rfl
@[simp] theorem State.settle_cur (s : State) : (s.settle).cur = s.cur := rfl
@[simp] theorem State.settle_env (s : State) : (s.settle).env = s.env := rfl
@[simp] theorem State.settle_freeCtr (s : State) : (s.settle).freeCtr = s.freeCtr := rfl
@[simp] theorem State.settle_nextId (s : State) : (s.settle).nextId = s.nextId := rfl
@[simp] theorem State.settle_wall3 (s : State) : (s.settle).wall3 = s.wall3 := rfl
@[simp] theorem State.settle_cells (s : State) : (s.settle).cells = s.cells := rfl
@[simp] theorem State.settle_bhs (s : State) : (s.settle).bhs = s.bhs := rfl
@[simp] theorem State.settle_sems (s : State) : (s.settle).sems = s.sems := rfl
@[simp] theorem State.settle_sigs (s : State) : (s.settle).sigs = s.sigs := rfl
@[simp] theorem State.settle_msgs (s : State) : (s.settle).msgs = s.msgs := rfl
@[simp] theorem State.settle_waits (s : State) : (s.settle).waits = s.waits := rfl
@[simp] theorem State.settle_vfs (s : State) : (s.settle).vfs = s.vfs := rfl
@[simp] theorem State.settle_launches (s : State) : (s.settle).launches = s.launches := rfl
@[simp] theorem State.settle_groups (s : State) : (s.settle).groups = s.groups := rfl
@[simp] theorem State.settle_posts (s : State) : (s.settle).posts = s.posts := rfl
@[simp] theorem State.settle_tdecs (s : State) : (s.settle).tdecs = s.tdecs := rfl
@[simp] theorem State.settle_cancels (s : State) : (s.settle).cancels = s.cancels := rfl
@[simp] theorem State.settle_itemCancels (s : State) : (s.settle).itemCancels = s.itemCancels := rfl
@[simp] theorem State.settle_rings (s : State) : (s.settle).rings = s.rings := rfl
@[simp] theorem State.settle_svmq (s : State) : (s.settle).svmq = s.svmq := rfl
@[simp] theorem State.settle_svmLast (s : State) : (s.settle).svmLast = s.svmLast := rfl
@[simp] theorem State.settle_torus (s : State) : (s.settle).torus = s.torus := rfl
@[simp] theorem State.settle_aborts (s : State) : (s.settle).aborts = s.aborts := rfl
@[simp] theorem State.settle_gones (s : State) : (s.settle).gones = s.gones := rfl
@[simp] theorem State.settle_qps (s : State) : (s.settle).qps = s.qps := rfl
@[simp] theorem State.settle_mgmt (s : State) : (s.settle).mgmt = s.mgmt := rfl
@[simp] theorem State.settle_boot (s : State) : (s.settle).boot = s.boot := rfl
@[simp] theorem State.settle_pod (s : State) : (s.settle).pod = s.pod := rfl
@[simp] theorem State.settle_linksDown (s : State) : (s.settle).linksDown = s.linksDown := rfl
@[simp] theorem State.settle_acks (s : State) : (s.settle).acks = s.acks := rfl
@[simp] theorem State.settle_paused (s : State) : (s.settle).paused = s.paused := rfl
@[simp] theorem State.settle_out (s : State) : (s.settle).out = s.out := rfl
@[simp] theorem State.settle_nextPoll (s : State) : (s.settle).nextPoll = s.nextPoll := rfl

/-! A frame is zeroed -/

@[simp] theorem State.zeroAt_agenda (s : State) (die lo n : Nat) : (s.zeroAt die lo n).agenda = s.agenda := rfl
@[simp] theorem State.zeroAt_phase (s : State) (die lo n : Nat) : (s.zeroAt die lo n).phase = s.phase := rfl
@[simp] theorem State.zeroAt_cur (s : State) (die lo n : Nat) : (s.zeroAt die lo n).cur = s.cur := rfl
@[simp] theorem State.zeroAt_env (s : State) (die lo n : Nat) : (s.zeroAt die lo n).env = s.env := rfl
@[simp] theorem State.zeroAt_freeCtr (s : State) (die lo n : Nat) : (s.zeroAt die lo n).freeCtr = s.freeCtr := rfl
@[simp] theorem State.zeroAt_wall3 (s : State) (die lo n : Nat) : (s.zeroAt die lo n).wall3 = s.wall3 := rfl
@[simp] theorem State.zeroAt_cells (s : State) (die lo n : Nat) : (s.zeroAt die lo n).cells = s.cells := rfl
@[simp] theorem State.zeroAt_bhs (s : State) (die lo n : Nat) : (s.zeroAt die lo n).bhs = s.bhs := rfl
@[simp] theorem State.zeroAt_sems (s : State) (die lo n : Nat) : (s.zeroAt die lo n).sems = s.sems := rfl
@[simp] theorem State.zeroAt_sigs (s : State) (die lo n : Nat) : (s.zeroAt die lo n).sigs = s.sigs := rfl
@[simp] theorem State.zeroAt_msgs (s : State) (die lo n : Nat) : (s.zeroAt die lo n).msgs = s.msgs := rfl
@[simp] theorem State.zeroAt_waits (s : State) (die lo n : Nat) : (s.zeroAt die lo n).waits = s.waits := rfl
@[simp] theorem State.zeroAt_vfs (s : State) (die lo n : Nat) : (s.zeroAt die lo n).vfs = s.vfs := rfl
@[simp] theorem State.zeroAt_launches (s : State) (die lo n : Nat) : (s.zeroAt die lo n).launches = s.launches := rfl
@[simp] theorem State.zeroAt_groups (s : State) (die lo n : Nat) : (s.zeroAt die lo n).groups = s.groups := rfl
@[simp] theorem State.zeroAt_posts (s : State) (die lo n : Nat) : (s.zeroAt die lo n).posts = s.posts := rfl
@[simp] theorem State.zeroAt_tdecs (s : State) (die lo n : Nat) : (s.zeroAt die lo n).tdecs = s.tdecs := rfl
@[simp] theorem State.zeroAt_cancels (s : State) (die lo n : Nat) : (s.zeroAt die lo n).cancels = s.cancels := rfl
@[simp] theorem State.zeroAt_itemCancels (s : State) (die lo n : Nat) : (s.zeroAt die lo n).itemCancels = s.itemCancels := rfl
@[simp] theorem State.zeroAt_rings (s : State) (die lo n : Nat) : (s.zeroAt die lo n).rings = s.rings := rfl
@[simp] theorem State.zeroAt_svmq (s : State) (die lo n : Nat) : (s.zeroAt die lo n).svmq = s.svmq := rfl
@[simp] theorem State.zeroAt_svmLast (s : State) (die lo n : Nat) : (s.zeroAt die lo n).svmLast = s.svmLast := rfl
@[simp] theorem State.zeroAt_torus (s : State) (die lo n : Nat) : (s.zeroAt die lo n).torus = s.torus := rfl
@[simp] theorem State.zeroAt_aborts (s : State) (die lo n : Nat) : (s.zeroAt die lo n).aborts = s.aborts := rfl
@[simp] theorem State.zeroAt_gones (s : State) (die lo n : Nat) : (s.zeroAt die lo n).gones = s.gones := rfl
@[simp] theorem State.zeroAt_qps (s : State) (die lo n : Nat) : (s.zeroAt die lo n).qps = s.qps := rfl
@[simp] theorem State.zeroAt_mgmt (s : State) (die lo n : Nat) : (s.zeroAt die lo n).mgmt = s.mgmt := rfl
@[simp] theorem State.zeroAt_boot (s : State) (die lo n : Nat) : (s.zeroAt die lo n).boot = s.boot := rfl
@[simp] theorem State.zeroAt_pod (s : State) (die lo n : Nat) : (s.zeroAt die lo n).pod = s.pod := rfl
@[simp] theorem State.zeroAt_linksDown (s : State) (die lo n : Nat) : (s.zeroAt die lo n).linksDown = s.linksDown := rfl
@[simp] theorem State.zeroAt_acks (s : State) (die lo n : Nat) : (s.zeroAt die lo n).acks = s.acks := rfl
@[simp] theorem State.zeroAt_paused (s : State) (die lo n : Nat) : (s.zeroAt die lo n).paused = s.paused := rfl
@[simp] theorem State.zeroAt_out (s : State) (die lo n : Nat) : (s.zeroAt die lo n).out = s.out := rfl
@[simp] theorem State.zeroAt_nextPoll (s : State) (die lo n : Nat) : (s.zeroAt die lo n).nextPoll = s.nextPoll := rfl

/-! A write enters its die sequence -/

@[simp] theorem State.enterWrite_agenda (s : State) (die : Nat) (l : List (Nat × Byte)) : ((s.enterWrite die l).2).agenda = s.agenda := rfl
@[simp] theorem State.enterWrite_phase (s : State) (die : Nat) (l : List (Nat × Byte)) : ((s.enterWrite die l).2).phase = s.phase := rfl
@[simp] theorem State.enterWrite_cur (s : State) (die : Nat) (l : List (Nat × Byte)) : ((s.enterWrite die l).2).cur = s.cur := rfl
@[simp] theorem State.enterWrite_env (s : State) (die : Nat) (l : List (Nat × Byte)) : ((s.enterWrite die l).2).env = s.env := rfl
@[simp] theorem State.enterWrite_freeCtr (s : State) (die : Nat) (l : List (Nat × Byte)) : ((s.enterWrite die l).2).freeCtr = s.freeCtr := rfl
@[simp] theorem State.enterWrite_wall3 (s : State) (die : Nat) (l : List (Nat × Byte)) : ((s.enterWrite die l).2).wall3 = s.wall3 := rfl
@[simp] theorem State.enterWrite_cells (s : State) (die : Nat) (l : List (Nat × Byte)) : ((s.enterWrite die l).2).cells = s.cells := rfl
@[simp] theorem State.enterWrite_bhs (s : State) (die : Nat) (l : List (Nat × Byte)) : ((s.enterWrite die l).2).bhs = s.bhs := rfl
@[simp] theorem State.enterWrite_sems (s : State) (die : Nat) (l : List (Nat × Byte)) : ((s.enterWrite die l).2).sems = s.sems := rfl
@[simp] theorem State.enterWrite_sigs (s : State) (die : Nat) (l : List (Nat × Byte)) : ((s.enterWrite die l).2).sigs = s.sigs := rfl
@[simp] theorem State.enterWrite_msgs (s : State) (die : Nat) (l : List (Nat × Byte)) : ((s.enterWrite die l).2).msgs = s.msgs := rfl
@[simp] theorem State.enterWrite_waits (s : State) (die : Nat) (l : List (Nat × Byte)) : ((s.enterWrite die l).2).waits = s.waits := rfl
@[simp] theorem State.enterWrite_vfs (s : State) (die : Nat) (l : List (Nat × Byte)) : ((s.enterWrite die l).2).vfs = s.vfs := rfl
@[simp] theorem State.enterWrite_launches (s : State) (die : Nat) (l : List (Nat × Byte)) : ((s.enterWrite die l).2).launches = s.launches := rfl
@[simp] theorem State.enterWrite_groups (s : State) (die : Nat) (l : List (Nat × Byte)) : ((s.enterWrite die l).2).groups = s.groups := rfl
@[simp] theorem State.enterWrite_posts (s : State) (die : Nat) (l : List (Nat × Byte)) : ((s.enterWrite die l).2).posts = s.posts := rfl
@[simp] theorem State.enterWrite_tdecs (s : State) (die : Nat) (l : List (Nat × Byte)) : ((s.enterWrite die l).2).tdecs = s.tdecs := rfl
@[simp] theorem State.enterWrite_cancels (s : State) (die : Nat) (l : List (Nat × Byte)) : ((s.enterWrite die l).2).cancels = s.cancels := rfl
@[simp] theorem State.enterWrite_itemCancels (s : State) (die : Nat) (l : List (Nat × Byte)) : ((s.enterWrite die l).2).itemCancels = s.itemCancels := rfl
@[simp] theorem State.enterWrite_rings (s : State) (die : Nat) (l : List (Nat × Byte)) : ((s.enterWrite die l).2).rings = s.rings := rfl
@[simp] theorem State.enterWrite_svmq (s : State) (die : Nat) (l : List (Nat × Byte)) : ((s.enterWrite die l).2).svmq = s.svmq := rfl
@[simp] theorem State.enterWrite_svmLast (s : State) (die : Nat) (l : List (Nat × Byte)) : ((s.enterWrite die l).2).svmLast = s.svmLast := rfl
@[simp] theorem State.enterWrite_torus (s : State) (die : Nat) (l : List (Nat × Byte)) : ((s.enterWrite die l).2).torus = s.torus := rfl
@[simp] theorem State.enterWrite_aborts (s : State) (die : Nat) (l : List (Nat × Byte)) : ((s.enterWrite die l).2).aborts = s.aborts := rfl
@[simp] theorem State.enterWrite_gones (s : State) (die : Nat) (l : List (Nat × Byte)) : ((s.enterWrite die l).2).gones = s.gones := rfl
@[simp] theorem State.enterWrite_qps (s : State) (die : Nat) (l : List (Nat × Byte)) : ((s.enterWrite die l).2).qps = s.qps := rfl
@[simp] theorem State.enterWrite_mgmt (s : State) (die : Nat) (l : List (Nat × Byte)) : ((s.enterWrite die l).2).mgmt = s.mgmt := rfl
@[simp] theorem State.enterWrite_boot (s : State) (die : Nat) (l : List (Nat × Byte)) : ((s.enterWrite die l).2).boot = s.boot := rfl
@[simp] theorem State.enterWrite_pod (s : State) (die : Nat) (l : List (Nat × Byte)) : ((s.enterWrite die l).2).pod = s.pod := rfl
@[simp] theorem State.enterWrite_linksDown (s : State) (die : Nat) (l : List (Nat × Byte)) : ((s.enterWrite die l).2).linksDown = s.linksDown := rfl
@[simp] theorem State.enterWrite_acks (s : State) (die : Nat) (l : List (Nat × Byte)) : ((s.enterWrite die l).2).acks = s.acks := rfl
@[simp] theorem State.enterWrite_paused (s : State) (die : Nat) (l : List (Nat × Byte)) : ((s.enterWrite die l).2).paused = s.paused := rfl
@[simp] theorem State.enterWrite_out (s : State) (die : Nat) (l : List (Nat × Byte)) : ((s.enterWrite die l).2).out = s.out := rfl
@[simp] theorem State.enterWrite_nextPoll (s : State) (die : Nat) (l : List (Nat × Byte)) : ((s.enterWrite die l).2).nextPoll = s.nextPoll := rfl

/-! A range of device memory is zeroed -/

@[simp] theorem State.zeroMem_agenda (s : State) (lo n : Nat) : (s.zeroMem lo n).agenda = s.agenda := rfl
@[simp] theorem State.zeroMem_phase (s : State) (lo n : Nat) : (s.zeroMem lo n).phase = s.phase := rfl
@[simp] theorem State.zeroMem_cur (s : State) (lo n : Nat) : (s.zeroMem lo n).cur = s.cur := rfl
@[simp] theorem State.zeroMem_env (s : State) (lo n : Nat) : (s.zeroMem lo n).env = s.env := rfl
@[simp] theorem State.zeroMem_freeCtr (s : State) (lo n : Nat) : (s.zeroMem lo n).freeCtr = s.freeCtr := rfl
@[simp] theorem State.zeroMem_nextId (s : State) (lo n : Nat) : (s.zeroMem lo n).nextId = s.nextId := rfl
@[simp] theorem State.zeroMem_wall3 (s : State) (lo n : Nat) : (s.zeroMem lo n).wall3 = s.wall3 := rfl
@[simp] theorem State.zeroMem_cells (s : State) (lo n : Nat) : (s.zeroMem lo n).cells = s.cells := rfl
@[simp] theorem State.zeroMem_bhs (s : State) (lo n : Nat) : (s.zeroMem lo n).bhs = s.bhs := rfl
@[simp] theorem State.zeroMem_sems (s : State) (lo n : Nat) : (s.zeroMem lo n).sems = s.sems := rfl
@[simp] theorem State.zeroMem_sigs (s : State) (lo n : Nat) : (s.zeroMem lo n).sigs = s.sigs := rfl
@[simp] theorem State.zeroMem_msgs (s : State) (lo n : Nat) : (s.zeroMem lo n).msgs = s.msgs := rfl
@[simp] theorem State.zeroMem_waits (s : State) (lo n : Nat) : (s.zeroMem lo n).waits = s.waits := rfl
@[simp] theorem State.zeroMem_vfs (s : State) (lo n : Nat) : (s.zeroMem lo n).vfs = s.vfs := rfl
@[simp] theorem State.zeroMem_launches (s : State) (lo n : Nat) : (s.zeroMem lo n).launches = s.launches := rfl
@[simp] theorem State.zeroMem_groups (s : State) (lo n : Nat) : (s.zeroMem lo n).groups = s.groups := rfl
@[simp] theorem State.zeroMem_posts (s : State) (lo n : Nat) : (s.zeroMem lo n).posts = s.posts := rfl
@[simp] theorem State.zeroMem_tdecs (s : State) (lo n : Nat) : (s.zeroMem lo n).tdecs = s.tdecs := rfl
@[simp] theorem State.zeroMem_cancels (s : State) (lo n : Nat) : (s.zeroMem lo n).cancels = s.cancels := rfl
@[simp] theorem State.zeroMem_itemCancels (s : State) (lo n : Nat) : (s.zeroMem lo n).itemCancels = s.itemCancels := rfl
@[simp] theorem State.zeroMem_rings (s : State) (lo n : Nat) : (s.zeroMem lo n).rings = s.rings := rfl
@[simp] theorem State.zeroMem_svmq (s : State) (lo n : Nat) : (s.zeroMem lo n).svmq = s.svmq := rfl
@[simp] theorem State.zeroMem_svmLast (s : State) (lo n : Nat) : (s.zeroMem lo n).svmLast = s.svmLast := rfl
@[simp] theorem State.zeroMem_torus (s : State) (lo n : Nat) : (s.zeroMem lo n).torus = s.torus := rfl
@[simp] theorem State.zeroMem_aborts (s : State) (lo n : Nat) : (s.zeroMem lo n).aborts = s.aborts := rfl
@[simp] theorem State.zeroMem_gones (s : State) (lo n : Nat) : (s.zeroMem lo n).gones = s.gones := rfl
@[simp] theorem State.zeroMem_qps (s : State) (lo n : Nat) : (s.zeroMem lo n).qps = s.qps := rfl
@[simp] theorem State.zeroMem_mgmt (s : State) (lo n : Nat) : (s.zeroMem lo n).mgmt = s.mgmt := rfl
@[simp] theorem State.zeroMem_boot (s : State) (lo n : Nat) : (s.zeroMem lo n).boot = s.boot := rfl
@[simp] theorem State.zeroMem_pod (s : State) (lo n : Nat) : (s.zeroMem lo n).pod = s.pod := rfl
@[simp] theorem State.zeroMem_linksDown (s : State) (lo n : Nat) : (s.zeroMem lo n).linksDown = s.linksDown := rfl
@[simp] theorem State.zeroMem_acks (s : State) (lo n : Nat) : (s.zeroMem lo n).acks = s.acks := rfl
@[simp] theorem State.zeroMem_paused (s : State) (lo n : Nat) : (s.zeroMem lo n).paused = s.paused := rfl
@[simp] theorem State.zeroMem_out (s : State) (lo n : Nat) : (s.zeroMem lo n).out = s.out := rfl
@[simp] theorem State.zeroMem_nextPoll (s : State) (lo n : Nat) : (s.zeroMem lo n).nextPoll = s.nextPoll := rfl

/-! A die takes every write in flight -/

@[simp] theorem State.catchUp_agenda (s : State) (d : Nat) : (s.catchUp d).agenda = s.agenda := rfl
@[simp] theorem State.catchUp_phase (s : State) (d : Nat) : (s.catchUp d).phase = s.phase := rfl
@[simp] theorem State.catchUp_cur (s : State) (d : Nat) : (s.catchUp d).cur = s.cur := rfl
@[simp] theorem State.catchUp_env (s : State) (d : Nat) : (s.catchUp d).env = s.env := rfl
@[simp] theorem State.catchUp_freeCtr (s : State) (d : Nat) : (s.catchUp d).freeCtr = s.freeCtr := rfl
@[simp] theorem State.catchUp_nextId (s : State) (d : Nat) : (s.catchUp d).nextId = s.nextId := rfl
@[simp] theorem State.catchUp_wall3 (s : State) (d : Nat) : (s.catchUp d).wall3 = s.wall3 := rfl
@[simp] theorem State.catchUp_cells (s : State) (d : Nat) : (s.catchUp d).cells = s.cells := rfl
@[simp] theorem State.catchUp_bhs (s : State) (d : Nat) : (s.catchUp d).bhs = s.bhs := rfl
@[simp] theorem State.catchUp_sems (s : State) (d : Nat) : (s.catchUp d).sems = s.sems := rfl
@[simp] theorem State.catchUp_sigs (s : State) (d : Nat) : (s.catchUp d).sigs = s.sigs := rfl
@[simp] theorem State.catchUp_msgs (s : State) (d : Nat) : (s.catchUp d).msgs = s.msgs := rfl
@[simp] theorem State.catchUp_waits (s : State) (d : Nat) : (s.catchUp d).waits = s.waits := rfl
@[simp] theorem State.catchUp_vfs (s : State) (d : Nat) : (s.catchUp d).vfs = s.vfs := rfl
@[simp] theorem State.catchUp_launches (s : State) (d : Nat) : (s.catchUp d).launches = s.launches := rfl
@[simp] theorem State.catchUp_groups (s : State) (d : Nat) : (s.catchUp d).groups = s.groups := rfl
@[simp] theorem State.catchUp_posts (s : State) (d : Nat) : (s.catchUp d).posts = s.posts := rfl
@[simp] theorem State.catchUp_tdecs (s : State) (d : Nat) : (s.catchUp d).tdecs = s.tdecs := rfl
@[simp] theorem State.catchUp_cancels (s : State) (d : Nat) : (s.catchUp d).cancels = s.cancels := rfl
@[simp] theorem State.catchUp_itemCancels (s : State) (d : Nat) : (s.catchUp d).itemCancels = s.itemCancels := rfl
@[simp] theorem State.catchUp_rings (s : State) (d : Nat) : (s.catchUp d).rings = s.rings := rfl
@[simp] theorem State.catchUp_svmq (s : State) (d : Nat) : (s.catchUp d).svmq = s.svmq := rfl
@[simp] theorem State.catchUp_svmLast (s : State) (d : Nat) : (s.catchUp d).svmLast = s.svmLast := rfl
@[simp] theorem State.catchUp_torus (s : State) (d : Nat) : (s.catchUp d).torus = s.torus := rfl
@[simp] theorem State.catchUp_aborts (s : State) (d : Nat) : (s.catchUp d).aborts = s.aborts := rfl
@[simp] theorem State.catchUp_gones (s : State) (d : Nat) : (s.catchUp d).gones = s.gones := rfl
@[simp] theorem State.catchUp_qps (s : State) (d : Nat) : (s.catchUp d).qps = s.qps := rfl
@[simp] theorem State.catchUp_mgmt (s : State) (d : Nat) : (s.catchUp d).mgmt = s.mgmt := rfl
@[simp] theorem State.catchUp_boot (s : State) (d : Nat) : (s.catchUp d).boot = s.boot := rfl
@[simp] theorem State.catchUp_pod (s : State) (d : Nat) : (s.catchUp d).pod = s.pod := rfl
@[simp] theorem State.catchUp_linksDown (s : State) (d : Nat) : (s.catchUp d).linksDown = s.linksDown := rfl
@[simp] theorem State.catchUp_acks (s : State) (d : Nat) : (s.catchUp d).acks = s.acks := rfl
@[simp] theorem State.catchUp_paused (s : State) (d : Nat) : (s.catchUp d).paused = s.paused := rfl
@[simp] theorem State.catchUp_out (s : State) (d : Nat) : (s.catchUp d).out = s.out := rfl
@[simp] theorem State.catchUp_nextPoll (s : State) (d : Nat) : (s.catchUp d).nextPoll = s.nextPoll := rfl

/-! A wait is forgotten -/

@[simp] theorem State.forgetWait_agenda (s : State) (c id : Nat) : (s.forgetWait c id).agenda = s.agenda := rfl
@[simp] theorem State.forgetWait_phase (s : State) (c id : Nat) : (s.forgetWait c id).phase = s.phase := rfl
@[simp] theorem State.forgetWait_cur (s : State) (c id : Nat) : (s.forgetWait c id).cur = s.cur := rfl
@[simp] theorem State.forgetWait_env (s : State) (c id : Nat) : (s.forgetWait c id).env = s.env := rfl
@[simp] theorem State.forgetWait_freeCtr (s : State) (c id : Nat) : (s.forgetWait c id).freeCtr = s.freeCtr := rfl
@[simp] theorem State.forgetWait_nextId (s : State) (c id : Nat) : (s.forgetWait c id).nextId = s.nextId := rfl
@[simp] theorem State.forgetWait_wall3 (s : State) (c id : Nat) : (s.forgetWait c id).wall3 = s.wall3 := rfl
@[simp] theorem State.forgetWait_cells (s : State) (c id : Nat) : (s.forgetWait c id).cells = s.cells := rfl
@[simp] theorem State.forgetWait_mem (s : State) (c id : Nat) : (s.forgetWait c id).mem = s.mem := rfl
@[simp] theorem State.forgetWait_bhs (s : State) (c id : Nat) : (s.forgetWait c id).bhs = s.bhs := rfl
@[simp] theorem State.forgetWait_sigs (s : State) (c id : Nat) : (s.forgetWait c id).sigs = s.sigs := rfl
@[simp] theorem State.forgetWait_msgs (s : State) (c id : Nat) : (s.forgetWait c id).msgs = s.msgs := rfl
@[simp] theorem State.forgetWait_vfs (s : State) (c id : Nat) : (s.forgetWait c id).vfs = s.vfs := rfl
@[simp] theorem State.forgetWait_launches (s : State) (c id : Nat) : (s.forgetWait c id).launches = s.launches := rfl
@[simp] theorem State.forgetWait_groups (s : State) (c id : Nat) : (s.forgetWait c id).groups = s.groups := rfl
@[simp] theorem State.forgetWait_posts (s : State) (c id : Nat) : (s.forgetWait c id).posts = s.posts := rfl
@[simp] theorem State.forgetWait_tdecs (s : State) (c id : Nat) : (s.forgetWait c id).tdecs = s.tdecs := rfl
@[simp] theorem State.forgetWait_cancels (s : State) (c id : Nat) : (s.forgetWait c id).cancels = s.cancels := rfl
@[simp] theorem State.forgetWait_itemCancels (s : State) (c id : Nat) : (s.forgetWait c id).itemCancels = s.itemCancels := rfl
@[simp] theorem State.forgetWait_rings (s : State) (c id : Nat) : (s.forgetWait c id).rings = s.rings := rfl
@[simp] theorem State.forgetWait_svmq (s : State) (c id : Nat) : (s.forgetWait c id).svmq = s.svmq := rfl
@[simp] theorem State.forgetWait_svmLast (s : State) (c id : Nat) : (s.forgetWait c id).svmLast = s.svmLast := rfl
@[simp] theorem State.forgetWait_torus (s : State) (c id : Nat) : (s.forgetWait c id).torus = s.torus := rfl
@[simp] theorem State.forgetWait_aborts (s : State) (c id : Nat) : (s.forgetWait c id).aborts = s.aborts := rfl
@[simp] theorem State.forgetWait_gones (s : State) (c id : Nat) : (s.forgetWait c id).gones = s.gones := rfl
@[simp] theorem State.forgetWait_qps (s : State) (c id : Nat) : (s.forgetWait c id).qps = s.qps := rfl
@[simp] theorem State.forgetWait_mgmt (s : State) (c id : Nat) : (s.forgetWait c id).mgmt = s.mgmt := rfl
@[simp] theorem State.forgetWait_boot (s : State) (c id : Nat) : (s.forgetWait c id).boot = s.boot := rfl
@[simp] theorem State.forgetWait_pod (s : State) (c id : Nat) : (s.forgetWait c id).pod = s.pod := rfl
@[simp] theorem State.forgetWait_linksDown (s : State) (c id : Nat) : (s.forgetWait c id).linksDown = s.linksDown := rfl
@[simp] theorem State.forgetWait_acks (s : State) (c id : Nat) : (s.forgetWait c id).acks = s.acks := rfl
@[simp] theorem State.forgetWait_paused (s : State) (c id : Nat) : (s.forgetWait c id).paused = s.paused := rfl
@[simp] theorem State.forgetWait_out (s : State) (c id : Nat) : (s.forgetWait c id).out = s.out := rfl
@[simp] theorem State.forgetWait_nextPoll (s : State) (c id : Nat) : (s.forgetWait c id).nextPoll = s.nextPoll := rfl

/-! A change of a strand, in its cell -/

@[simp] theorem Cell.modStrand_vf (x : Cell) (sc : Nat) (f : Strand → Strand) : (x.modStrand sc f).vf = x.vf := rfl
@[simp] theorem Cell.modStrand_time (x : Cell) (sc : Nat) (f : Strand → Strand) : (x.modStrand sc f).time = x.time := rfl
@[simp] theorem Cell.modStrand_frozenOn (x : Cell) (sc : Nat) (f : Strand → Strand) : (x.modStrand sc f).frozenOn = x.frozenOn := rfl
@[simp] theorem Cell.modStrand_frozenAt (x : Cell) (sc : Nat) (f : Strand → Strand) : (x.modStrand sc f).frozenAt = x.frozenAt := rfl
@[simp] theorem Cell.modStrand_ops (x : Cell) (sc : Nat) (f : Strand → Strand) : (x.modStrand sc f).ops = x.ops := rfl
@[simp] theorem Cell.modStrand_lastFetch (x : Cell) (sc : Nat) (f : Strand → Strand) : (x.modStrand sc f).lastFetch = x.lastFetch := rfl
@[simp] theorem Cell.modStrand_lastIssue (x : Cell) (sc : Nat) (f : Strand → Strand) : (x.modStrand sc f).lastIssue = x.lastIssue := rfl
@[simp] theorem Cell.modStrand_busy (x : Cell) (sc : Nat) (f : Strand → Strand) : (x.modStrand sc f).busy = x.busy := rfl
@[simp] theorem Cell.modStrand_scratch (x : Cell) (sc : Nat) (f : Strand → Strand) : (x.modStrand sc f).scratch = x.scratch := rfl
@[simp] theorem Cell.modStrand_spoison (x : Cell) (sc : Nat) (f : Strand → Strand) : (x.modStrand sc f).spoison = x.spoison := rfl
@[simp] theorem Cell.modStrand_fill (x : Cell) (sc : Nat) (f : Strand → Strand) : (x.modStrand sc f).fill = x.fill := rfl
@[simp] theorem Cell.modStrand_tiles (x : Cell) (sc : Nat) (f : Strand → Strand) : (x.modStrand sc f).tiles = x.tiles := rfl
@[simp] theorem Cell.modStrand_msgs (x : Cell) (sc : Nat) (f : Strand → Strand) : (x.modStrand sc f).msgs = x.msgs := rfl
@[simp] theorem Cell.modStrand_table (x : Cell) (sc : Nat) (f : Strand → Strand) : (x.modStrand sc f).table = x.table := rfl
@[simp] theorem Cell.modStrand_accs (x : Cell) (sc : Nat) (f : Strand → Strand) : (x.modStrand sc f).accs = x.accs := rfl
@[simp] theorem Cell.modStrand_dks (x : Cell) (sc : Nat) (f : Strand → Strand) : (x.modStrand sc f).dks = x.dks := rfl
@[simp] theorem Cell.modStrand_strandSide (x : Cell) (sc : Nat) (f : Strand → Strand) : (x.modStrand sc f).strandSide = x.strandSide := rfl
@[simp] theorem Cell.modStrand_claim (x : Cell) (sc : Nat) (f : Strand → Strand) : (x.modStrand sc f).claim = x.claim := rfl
@[simp] theorem Cell.modStrand_shapes (x : Cell) (sc : Nat) (f : Strand → Strand) : (x.modStrand sc f).shapes = x.shapes := rfl
@[simp] theorem Cell.modStrand_taken (x : Cell) (sc : Nat) (f : Strand → Strand) : (x.modStrand sc f).taken = x.taken := rfl
@[simp] theorem Cell.modStrand_array (x : Cell) (sc : Nat) (f : Strand → Strand) : (x.modStrand sc f).array = x.array := rfl
@[simp] theorem Cell.modStrand_path (x : Cell) (sc : Nat) (f : Strand → Strand) : (x.modStrand sc f).path = x.path := rfl
@[simp] theorem Cell.modStrand_emptying (x : Cell) (sc : Nat) (f : Strand → Strand) : (x.modStrand sc f).emptying = x.emptying := rfl
@[simp] theorem Cell.modStrand_chain (x : Cell) (sc : Nat) (f : Strand → Strand) : (x.modStrand sc f).chain = x.chain := rfl
@[simp] theorem Cell.modStrand_sideTask (x : Cell) (sc : Nat) (f : Strand → Strand) : (x.modStrand sc f).sideTask = x.sideTask := rfl
@[simp] theorem Cell.modStrand_freeSince (x : Cell) (sc : Nat) (f : Strand → Strand) : (x.modStrand sc f).freeSince = x.freeSince := rfl
@[simp] theorem Cell.modStrand_flume (x : Cell) (sc : Nat) (f : Strand → Strand) : (x.modStrand sc f).flume = x.flume := rfl
@[simp] theorem Cell.modStrand_dirty (x : Cell) (sc : Nat) (f : Strand → Strand) : (x.modStrand sc f).dirty = x.dirty := rfl
@[simp] theorem Cell.modStrand_tlb (x : Cell) (sc : Nat) (f : Strand → Strand) : (x.modStrand sc f).tlb = x.tlb := rfl
@[simp] theorem Cell.modStrand_fmtCache (x : Cell) (sc : Nat) (f : Strand → Strand) : (x.modStrand sc f).fmtCache = x.fmtCache := rfl
@[simp] theorem Cell.modStrand_fmtFault (x : Cell) (sc : Nat) (f : Strand → Strand) : (x.modStrand sc f).fmtFault = x.fmtFault := rfl
@[simp] theorem Cell.modStrand_dl (x : Cell) (sc : Nat) (f : Strand → Strand) : (x.modStrand sc f).dl = x.dl := rfl
@[simp] theorem Cell.modStrand_closed (x : Cell) (sc : Nat) (f : Strand → Strand) : (x.modStrand sc f).closed = x.closed := rfl
@[simp] theorem Cell.modStrand_choice (x : Cell) (sc : Nat) (f : Strand → Strand) : (x.modStrand sc f).choice = x.choice := rfl
@[simp] theorem Cell.modStrand_ahead (x : Cell) (sc : Nat) (f : Strand → Strand) : (x.modStrand sc f).ahead = x.ahead := rfl
@[simp] theorem Cell.modStrand_resuming (x : Cell) (sc : Nat) (f : Strand → Strand) : (x.modStrand sc f).resuming = x.resuming := rfl

/-! A queue register gives up an entry -/

@[simp] theorem Strand.popQ_st (x : Strand) (i : Nat) : (x.popQ i).st = x.st := rfl
@[simp] theorem Strand.popQ_launch (x : Strand) (i : Nat) : (x.popQ i).launch = x.launch := rfl
@[simp] theorem Strand.popQ_wid (x : Strand) (i : Nat) : (x.popQ i).wid = x.wid := rfl
@[simp] theorem Strand.popQ_idx (x : Strand) (i : Nat) : (x.popQ i).idx = x.idx := rfl
@[simp] theorem Strand.popQ_pc (x : Strand) (i : Nat) : (x.popQ i).pc = x.pc := rfl
@[simp] theorem Strand.popQ_s (x : Strand) (i : Nat) : (x.popQ i).s = x.s := rfl
@[simp] theorem Strand.popQ_p (x : Strand) (i : Nat) : (x.popQ i).p = x.p := rfl
@[simp] theorem Strand.popQ_m (x : Strand) (i : Nat) : (x.popQ i).m = x.m := rfl
@[simp] theorem Strand.popQ_v (x : Strand) (i : Nat) : (x.popQ i).v = x.v := rfl
@[simp] theorem Strand.popQ_y (x : Strand) (i : Nat) : (x.popQ i).y = x.y := rfl
@[simp] theorem Strand.popQ_loops (x : Strand) (i : Nat) : (x.popQ i).loops = x.loops := rfl
@[simp] theorem Strand.popQ_pmark (x : Strand) (i : Nat) : (x.popQ i).pmark = x.pmark := rfl
@[simp] theorem Strand.popQ_markK (x : Strand) (i : Nat) : (x.popQ i).markK = x.markK := rfl
@[simp] theorem Strand.popQ_stopCode (x : Strand) (i : Nat) : (x.popQ i).stopCode = x.stopCode := rfl
@[simp] theorem Strand.popQ_fk (x : Strand) (i : Nat) : (x.popQ i).fk = x.fk := rfl
@[simp] theorem Strand.popQ_ftb (x : Strand) (i : Nat) : (x.popQ i).ftb = x.ftb := rfl
@[simp] theorem Strand.popQ_stat (x : Strand) (i : Nat) : (x.popQ i).stat = x.stat := rfl
@[simp] theorem Strand.popQ_srkey (x : Strand) (i : Nat) : (x.popQ i).srkey = x.srkey := rfl
@[simp] theorem Strand.popQ_tvec (x : Strand) (i : Nat) : (x.popQ i).tvec = x.tvec := rfl
@[simp] theorem Strand.popQ_cause (x : Strand) (i : Nat) : (x.popQ i).cause = x.cause := rfl
@[simp] theorem Strand.popQ_tinfo (x : Strand) (i : Nat) : (x.popQ i).tinfo = x.tinfo := rfl
@[simp] theorem Strand.popQ_taddr (x : Strand) (i : Nat) : (x.popQ i).taddr = x.taddr := rfl
@[simp] theorem Strand.popQ_tscr (x : Strand) (i : Nat) : (x.popQ i).tscr = x.tscr := rfl
@[simp] theorem Strand.popQ_vfsel (x : Strand) (i : Nat) : (x.popQ i).vfsel = x.vfsel := rfl
@[simp] theorem Strand.popQ_handler (x : Strand) (i : Nat) : (x.popQ i).handler = x.handler := rfl
@[simp] theorem Strand.popQ_entered (x : Strand) (i : Nat) : (x.popQ i).entered = x.entered := rfl
@[simp] theorem Strand.popQ_armed (x : Strand) (i : Nat) : (x.popQ i).armed = x.armed := rfl
@[simp] theorem Strand.popQ_armedAt (x : Strand) (i : Nat) : (x.popQ i).armedAt = x.armedAt := rfl
@[simp] theorem Strand.popQ_halted (x : Strand) (i : Nat) : (x.popQ i).halted = x.halted := rfl
@[simp] theorem Strand.popQ_sleepEnd (x : Strand) (i : Nat) : (x.popQ i).sleepEnd = x.sleepEnd := rfl
@[simp] theorem Strand.popQ_queues (x : Strand) (i : Nat) : (x.popQ i).queues = x.queues := rfl
@[simp] theorem Strand.popQ_pfx (x : Strand) (i : Nat) : (x.popQ i).pfx = x.pfx := rfl
@[simp] theorem Strand.popQ_pfxAt (x : Strand) (i : Nat) : (x.popQ i).pfxAt = x.pfxAt := rfl
@[simp] theorem Strand.popQ_fblk (x : Strand) (i : Nat) : (x.popQ i).fblk = x.fblk := rfl
@[simp] theorem Strand.popQ_seq (x : Strand) (i : Nat) : (x.popQ i).seq = x.seq := rfl
@[simp] theorem Strand.popQ_fetchFrom (x : Strand) (i : Nat) : (x.popQ i).fetchFrom = x.fetchFrom := rfl
@[simp] theorem Strand.popQ_issueFrom (x : Strand) (i : Nat) : (x.popQ i).issueFrom = x.issueFrom := rfl
@[simp] theorem Strand.popQ_pend (x : Strand) (i : Nat) : (x.popQ i).pend = x.pend := rfl
@[simp] theorem Strand.popQ_trap (x : Strand) (i : Nat) : (x.popQ i).trap = x.trap := rfl
@[simp] theorem Strand.popQ_lates (x : Strand) (i : Nat) : (x.popQ i).lates = x.lates := rfl
@[simp] theorem Strand.popQ_replay (x : Strand) (i : Nat) : (x.popQ i).replay = x.replay := rfl
@[simp] theorem Strand.popQ_reports (x : Strand) (i : Nat) : (x.popQ i).reports = x.reports := rfl
@[simp] theorem Strand.popQ_qdead (x : Strand) (i : Nat) : (x.popQ i).qdead = x.qdead := rfl
@[simp] theorem Strand.popQ_active (x : Strand) (i : Nat) : (x.popQ i).active = x.active := rfl
@[simp] theorem Strand.popQ_swReq (x : Strand) (i : Nat) : (x.popQ i).swReq = x.swReq := rfl
@[simp] theorem Strand.popQ_swCut (x : Strand) (i : Nat) : (x.popQ i).swCut = x.swCut := rfl
@[simp] theorem Strand.popQ_swStop (x : Strand) (i : Nat) : (x.popQ i).swStop = x.swStop := rfl
@[simp] theorem Strand.popQ_swHalt (x : Strand) (i : Nat) : (x.popQ i).swHalt = x.swHalt := rfl
@[simp] theorem Strand.popQ_wasDormant (x : Strand) (i : Nat) : (x.popQ i).wasDormant = x.wasDormant := rfl
@[simp] theorem Strand.popQ_savedSeq (x : Strand) (i : Nat) : (x.popQ i).savedSeq = x.savedSeq := rfl
@[simp] theorem Strand.popQ_savedStages (x : Strand) (i : Nat) : (x.popQ i).savedStages = x.savedStages := rfl
@[simp] theorem Strand.popQ_pptLoops (x : Strand) (i : Nat) : (x.popQ i).pptLoops = x.pptLoops := rfl

/-! A result queue gives up a row -/

@[simp] theorem Strand.popY_st (x : Strand) (i : Nat) : (x.popY i).st = x.st := rfl
@[simp] theorem Strand.popY_launch (x : Strand) (i : Nat) : (x.popY i).launch = x.launch := rfl
@[simp] theorem Strand.popY_wid (x : Strand) (i : Nat) : (x.popY i).wid = x.wid := rfl
@[simp] theorem Strand.popY_idx (x : Strand) (i : Nat) : (x.popY i).idx = x.idx := rfl
@[simp] theorem Strand.popY_pc (x : Strand) (i : Nat) : (x.popY i).pc = x.pc := rfl
@[simp] theorem Strand.popY_s (x : Strand) (i : Nat) : (x.popY i).s = x.s := rfl
@[simp] theorem Strand.popY_q (x : Strand) (i : Nat) : (x.popY i).q = x.q := rfl
@[simp] theorem Strand.popY_p (x : Strand) (i : Nat) : (x.popY i).p = x.p := rfl
@[simp] theorem Strand.popY_m (x : Strand) (i : Nat) : (x.popY i).m = x.m := rfl
@[simp] theorem Strand.popY_v (x : Strand) (i : Nat) : (x.popY i).v = x.v := rfl
@[simp] theorem Strand.popY_loops (x : Strand) (i : Nat) : (x.popY i).loops = x.loops := rfl
@[simp] theorem Strand.popY_pmark (x : Strand) (i : Nat) : (x.popY i).pmark = x.pmark := rfl
@[simp] theorem Strand.popY_markK (x : Strand) (i : Nat) : (x.popY i).markK = x.markK := rfl
@[simp] theorem Strand.popY_stopCode (x : Strand) (i : Nat) : (x.popY i).stopCode = x.stopCode := rfl
@[simp] theorem Strand.popY_fk (x : Strand) (i : Nat) : (x.popY i).fk = x.fk := rfl
@[simp] theorem Strand.popY_ftb (x : Strand) (i : Nat) : (x.popY i).ftb = x.ftb := rfl
@[simp] theorem Strand.popY_stat (x : Strand) (i : Nat) : (x.popY i).stat = x.stat := rfl
@[simp] theorem Strand.popY_srkey (x : Strand) (i : Nat) : (x.popY i).srkey = x.srkey := rfl
@[simp] theorem Strand.popY_tvec (x : Strand) (i : Nat) : (x.popY i).tvec = x.tvec := rfl
@[simp] theorem Strand.popY_cause (x : Strand) (i : Nat) : (x.popY i).cause = x.cause := rfl
@[simp] theorem Strand.popY_tinfo (x : Strand) (i : Nat) : (x.popY i).tinfo = x.tinfo := rfl
@[simp] theorem Strand.popY_taddr (x : Strand) (i : Nat) : (x.popY i).taddr = x.taddr := rfl
@[simp] theorem Strand.popY_tscr (x : Strand) (i : Nat) : (x.popY i).tscr = x.tscr := rfl
@[simp] theorem Strand.popY_vfsel (x : Strand) (i : Nat) : (x.popY i).vfsel = x.vfsel := rfl
@[simp] theorem Strand.popY_handler (x : Strand) (i : Nat) : (x.popY i).handler = x.handler := rfl
@[simp] theorem Strand.popY_entered (x : Strand) (i : Nat) : (x.popY i).entered = x.entered := rfl
@[simp] theorem Strand.popY_armed (x : Strand) (i : Nat) : (x.popY i).armed = x.armed := rfl
@[simp] theorem Strand.popY_armedAt (x : Strand) (i : Nat) : (x.popY i).armedAt = x.armedAt := rfl
@[simp] theorem Strand.popY_halted (x : Strand) (i : Nat) : (x.popY i).halted = x.halted := rfl
@[simp] theorem Strand.popY_sleepEnd (x : Strand) (i : Nat) : (x.popY i).sleepEnd = x.sleepEnd := rfl
@[simp] theorem Strand.popY_queues (x : Strand) (i : Nat) : (x.popY i).queues = x.queues := rfl
@[simp] theorem Strand.popY_pfx (x : Strand) (i : Nat) : (x.popY i).pfx = x.pfx := rfl
@[simp] theorem Strand.popY_pfxAt (x : Strand) (i : Nat) : (x.popY i).pfxAt = x.pfxAt := rfl
@[simp] theorem Strand.popY_fblk (x : Strand) (i : Nat) : (x.popY i).fblk = x.fblk := rfl
@[simp] theorem Strand.popY_seq (x : Strand) (i : Nat) : (x.popY i).seq = x.seq := rfl
@[simp] theorem Strand.popY_fetchFrom (x : Strand) (i : Nat) : (x.popY i).fetchFrom = x.fetchFrom := rfl
@[simp] theorem Strand.popY_issueFrom (x : Strand) (i : Nat) : (x.popY i).issueFrom = x.issueFrom := rfl
@[simp] theorem Strand.popY_pend (x : Strand) (i : Nat) : (x.popY i).pend = x.pend := rfl
@[simp] theorem Strand.popY_trap (x : Strand) (i : Nat) : (x.popY i).trap = x.trap := rfl
@[simp] theorem Strand.popY_lates (x : Strand) (i : Nat) : (x.popY i).lates = x.lates := rfl
@[simp] theorem Strand.popY_replay (x : Strand) (i : Nat) : (x.popY i).replay = x.replay := rfl
@[simp] theorem Strand.popY_reports (x : Strand) (i : Nat) : (x.popY i).reports = x.reports := rfl
@[simp] theorem Strand.popY_qdead (x : Strand) (i : Nat) : (x.popY i).qdead = x.qdead := rfl
@[simp] theorem Strand.popY_active (x : Strand) (i : Nat) : (x.popY i).active = x.active := rfl
@[simp] theorem Strand.popY_swReq (x : Strand) (i : Nat) : (x.popY i).swReq = x.swReq := rfl
@[simp] theorem Strand.popY_swCut (x : Strand) (i : Nat) : (x.popY i).swCut = x.swCut := rfl
@[simp] theorem Strand.popY_swStop (x : Strand) (i : Nat) : (x.popY i).swStop = x.swStop := rfl
@[simp] theorem Strand.popY_swHalt (x : Strand) (i : Nat) : (x.popY i).swHalt = x.swHalt := rfl
@[simp] theorem Strand.popY_wasDormant (x : Strand) (i : Nat) : (x.popY i).wasDormant = x.wasDormant := rfl
@[simp] theorem Strand.popY_savedSeq (x : Strand) (i : Nat) : (x.popY i).savedSeq = x.savedSeq := rfl
@[simp] theorem Strand.popY_savedStages (x : Strand) (i : Nat) : (x.popY i).savedStages = x.savedStages := rfl
@[simp] theorem Strand.popY_pptLoops (x : Strand) (i : Nat) : (x.popY i).pptLoops = x.pptLoops := rfl

/-! A loop changes -/

@[simp] theorem Strand.setLc_st (x : Strand) (k : Nat) (l : Loop) : (x.setLc k l).st = x.st := rfl
@[simp] theorem Strand.setLc_launch (x : Strand) (k : Nat) (l : Loop) : (x.setLc k l).launch = x.launch := rfl
@[simp] theorem Strand.setLc_wid (x : Strand) (k : Nat) (l : Loop) : (x.setLc k l).wid = x.wid := rfl
@[simp] theorem Strand.setLc_idx (x : Strand) (k : Nat) (l : Loop) : (x.setLc k l).idx = x.idx := rfl
@[simp] theorem Strand.setLc_pc (x : Strand) (k : Nat) (l : Loop) : (x.setLc k l).pc = x.pc := rfl
@[simp] theorem Strand.setLc_s (x : Strand) (k : Nat) (l : Loop) : (x.setLc k l).s = x.s := rfl
@[simp] theorem Strand.setLc_q (x : Strand) (k : Nat) (l : Loop) : (x.setLc k l).q = x.q := rfl
@[simp] theorem Strand.setLc_p (x : Strand) (k : Nat) (l : Loop) : (x.setLc k l).p = x.p := rfl
@[simp] theorem Strand.setLc_m (x : Strand) (k : Nat) (l : Loop) : (x.setLc k l).m = x.m := rfl
@[simp] theorem Strand.setLc_v (x : Strand) (k : Nat) (l : Loop) : (x.setLc k l).v = x.v := rfl
@[simp] theorem Strand.setLc_y (x : Strand) (k : Nat) (l : Loop) : (x.setLc k l).y = x.y := rfl
@[simp] theorem Strand.setLc_pmark (x : Strand) (k : Nat) (l : Loop) : (x.setLc k l).pmark = x.pmark := rfl
@[simp] theorem Strand.setLc_markK (x : Strand) (k : Nat) (l : Loop) : (x.setLc k l).markK = x.markK := rfl
@[simp] theorem Strand.setLc_stopCode (x : Strand) (k : Nat) (l : Loop) : (x.setLc k l).stopCode = x.stopCode := rfl
@[simp] theorem Strand.setLc_fk (x : Strand) (k : Nat) (l : Loop) : (x.setLc k l).fk = x.fk := rfl
@[simp] theorem Strand.setLc_ftb (x : Strand) (k : Nat) (l : Loop) : (x.setLc k l).ftb = x.ftb := rfl
@[simp] theorem Strand.setLc_stat (x : Strand) (k : Nat) (l : Loop) : (x.setLc k l).stat = x.stat := rfl
@[simp] theorem Strand.setLc_srkey (x : Strand) (k : Nat) (l : Loop) : (x.setLc k l).srkey = x.srkey := rfl
@[simp] theorem Strand.setLc_tvec (x : Strand) (k : Nat) (l : Loop) : (x.setLc k l).tvec = x.tvec := rfl
@[simp] theorem Strand.setLc_cause (x : Strand) (k : Nat) (l : Loop) : (x.setLc k l).cause = x.cause := rfl
@[simp] theorem Strand.setLc_tinfo (x : Strand) (k : Nat) (l : Loop) : (x.setLc k l).tinfo = x.tinfo := rfl
@[simp] theorem Strand.setLc_taddr (x : Strand) (k : Nat) (l : Loop) : (x.setLc k l).taddr = x.taddr := rfl
@[simp] theorem Strand.setLc_tscr (x : Strand) (k : Nat) (l : Loop) : (x.setLc k l).tscr = x.tscr := rfl
@[simp] theorem Strand.setLc_vfsel (x : Strand) (k : Nat) (l : Loop) : (x.setLc k l).vfsel = x.vfsel := rfl
@[simp] theorem Strand.setLc_handler (x : Strand) (k : Nat) (l : Loop) : (x.setLc k l).handler = x.handler := rfl
@[simp] theorem Strand.setLc_entered (x : Strand) (k : Nat) (l : Loop) : (x.setLc k l).entered = x.entered := rfl
@[simp] theorem Strand.setLc_armed (x : Strand) (k : Nat) (l : Loop) : (x.setLc k l).armed = x.armed := rfl
@[simp] theorem Strand.setLc_armedAt (x : Strand) (k : Nat) (l : Loop) : (x.setLc k l).armedAt = x.armedAt := rfl
@[simp] theorem Strand.setLc_halted (x : Strand) (k : Nat) (l : Loop) : (x.setLc k l).halted = x.halted := rfl
@[simp] theorem Strand.setLc_sleepEnd (x : Strand) (k : Nat) (l : Loop) : (x.setLc k l).sleepEnd = x.sleepEnd := rfl
@[simp] theorem Strand.setLc_queues (x : Strand) (k : Nat) (l : Loop) : (x.setLc k l).queues = x.queues := rfl
@[simp] theorem Strand.setLc_pfx (x : Strand) (k : Nat) (l : Loop) : (x.setLc k l).pfx = x.pfx := rfl
@[simp] theorem Strand.setLc_pfxAt (x : Strand) (k : Nat) (l : Loop) : (x.setLc k l).pfxAt = x.pfxAt := rfl
@[simp] theorem Strand.setLc_fblk (x : Strand) (k : Nat) (l : Loop) : (x.setLc k l).fblk = x.fblk := rfl
@[simp] theorem Strand.setLc_seq (x : Strand) (k : Nat) (l : Loop) : (x.setLc k l).seq = x.seq := rfl
@[simp] theorem Strand.setLc_fetchFrom (x : Strand) (k : Nat) (l : Loop) : (x.setLc k l).fetchFrom = x.fetchFrom := rfl
@[simp] theorem Strand.setLc_issueFrom (x : Strand) (k : Nat) (l : Loop) : (x.setLc k l).issueFrom = x.issueFrom := rfl
@[simp] theorem Strand.setLc_pend (x : Strand) (k : Nat) (l : Loop) : (x.setLc k l).pend = x.pend := rfl
@[simp] theorem Strand.setLc_trap (x : Strand) (k : Nat) (l : Loop) : (x.setLc k l).trap = x.trap := rfl
@[simp] theorem Strand.setLc_lates (x : Strand) (k : Nat) (l : Loop) : (x.setLc k l).lates = x.lates := rfl
@[simp] theorem Strand.setLc_replay (x : Strand) (k : Nat) (l : Loop) : (x.setLc k l).replay = x.replay := rfl
@[simp] theorem Strand.setLc_reports (x : Strand) (k : Nat) (l : Loop) : (x.setLc k l).reports = x.reports := rfl
@[simp] theorem Strand.setLc_qdead (x : Strand) (k : Nat) (l : Loop) : (x.setLc k l).qdead = x.qdead := rfl
@[simp] theorem Strand.setLc_active (x : Strand) (k : Nat) (l : Loop) : (x.setLc k l).active = x.active := rfl
@[simp] theorem Strand.setLc_swReq (x : Strand) (k : Nat) (l : Loop) : (x.setLc k l).swReq = x.swReq := rfl
@[simp] theorem Strand.setLc_swCut (x : Strand) (k : Nat) (l : Loop) : (x.setLc k l).swCut = x.swCut := rfl
@[simp] theorem Strand.setLc_swStop (x : Strand) (k : Nat) (l : Loop) : (x.setLc k l).swStop = x.swStop := rfl
@[simp] theorem Strand.setLc_swHalt (x : Strand) (k : Nat) (l : Loop) : (x.setLc k l).swHalt = x.swHalt := rfl
@[simp] theorem Strand.setLc_wasDormant (x : Strand) (k : Nat) (l : Loop) : (x.setLc k l).wasDormant = x.wasDormant := rfl
@[simp] theorem Strand.setLc_savedSeq (x : Strand) (k : Nat) (l : Loop) : (x.setLc k l).savedSeq = x.savedSeq := rfl
@[simp] theorem Strand.setLc_savedStages (x : Strand) (k : Nat) (l : Loop) : (x.setLc k l).savedStages = x.savedStages := rfl
@[simp] theorem Strand.setLc_pptLoops (x : Strand) (k : Nat) (l : Loop) : (x.setLc k l).pptLoops = x.pptLoops := rfl

/-! An engine queue changes -/

@[simp] theorem Strand.setEngq_st (x : Strand) (e : Nat) (l : List Entry) : (x.setEngq e l).st = x.st := rfl
@[simp] theorem Strand.setEngq_launch (x : Strand) (e : Nat) (l : List Entry) : (x.setEngq e l).launch = x.launch := rfl
@[simp] theorem Strand.setEngq_wid (x : Strand) (e : Nat) (l : List Entry) : (x.setEngq e l).wid = x.wid := rfl
@[simp] theorem Strand.setEngq_idx (x : Strand) (e : Nat) (l : List Entry) : (x.setEngq e l).idx = x.idx := rfl
@[simp] theorem Strand.setEngq_pc (x : Strand) (e : Nat) (l : List Entry) : (x.setEngq e l).pc = x.pc := rfl
@[simp] theorem Strand.setEngq_s (x : Strand) (e : Nat) (l : List Entry) : (x.setEngq e l).s = x.s := rfl
@[simp] theorem Strand.setEngq_q (x : Strand) (e : Nat) (l : List Entry) : (x.setEngq e l).q = x.q := rfl
@[simp] theorem Strand.setEngq_p (x : Strand) (e : Nat) (l : List Entry) : (x.setEngq e l).p = x.p := rfl
@[simp] theorem Strand.setEngq_m (x : Strand) (e : Nat) (l : List Entry) : (x.setEngq e l).m = x.m := rfl
@[simp] theorem Strand.setEngq_v (x : Strand) (e : Nat) (l : List Entry) : (x.setEngq e l).v = x.v := rfl
@[simp] theorem Strand.setEngq_y (x : Strand) (e : Nat) (l : List Entry) : (x.setEngq e l).y = x.y := rfl
@[simp] theorem Strand.setEngq_loops (x : Strand) (e : Nat) (l : List Entry) : (x.setEngq e l).loops = x.loops := rfl
@[simp] theorem Strand.setEngq_pmark (x : Strand) (e : Nat) (l : List Entry) : (x.setEngq e l).pmark = x.pmark := rfl
@[simp] theorem Strand.setEngq_markK (x : Strand) (e : Nat) (l : List Entry) : (x.setEngq e l).markK = x.markK := rfl
@[simp] theorem Strand.setEngq_stopCode (x : Strand) (e : Nat) (l : List Entry) : (x.setEngq e l).stopCode = x.stopCode := rfl
@[simp] theorem Strand.setEngq_fk (x : Strand) (e : Nat) (l : List Entry) : (x.setEngq e l).fk = x.fk := rfl
@[simp] theorem Strand.setEngq_ftb (x : Strand) (e : Nat) (l : List Entry) : (x.setEngq e l).ftb = x.ftb := rfl
@[simp] theorem Strand.setEngq_stat (x : Strand) (e : Nat) (l : List Entry) : (x.setEngq e l).stat = x.stat := rfl
@[simp] theorem Strand.setEngq_srkey (x : Strand) (e : Nat) (l : List Entry) : (x.setEngq e l).srkey = x.srkey := rfl
@[simp] theorem Strand.setEngq_tvec (x : Strand) (e : Nat) (l : List Entry) : (x.setEngq e l).tvec = x.tvec := rfl
@[simp] theorem Strand.setEngq_cause (x : Strand) (e : Nat) (l : List Entry) : (x.setEngq e l).cause = x.cause := rfl
@[simp] theorem Strand.setEngq_tinfo (x : Strand) (e : Nat) (l : List Entry) : (x.setEngq e l).tinfo = x.tinfo := rfl
@[simp] theorem Strand.setEngq_taddr (x : Strand) (e : Nat) (l : List Entry) : (x.setEngq e l).taddr = x.taddr := rfl
@[simp] theorem Strand.setEngq_tscr (x : Strand) (e : Nat) (l : List Entry) : (x.setEngq e l).tscr = x.tscr := rfl
@[simp] theorem Strand.setEngq_vfsel (x : Strand) (e : Nat) (l : List Entry) : (x.setEngq e l).vfsel = x.vfsel := rfl
@[simp] theorem Strand.setEngq_handler (x : Strand) (e : Nat) (l : List Entry) : (x.setEngq e l).handler = x.handler := rfl
@[simp] theorem Strand.setEngq_entered (x : Strand) (e : Nat) (l : List Entry) : (x.setEngq e l).entered = x.entered := rfl
@[simp] theorem Strand.setEngq_armed (x : Strand) (e : Nat) (l : List Entry) : (x.setEngq e l).armed = x.armed := rfl
@[simp] theorem Strand.setEngq_armedAt (x : Strand) (e : Nat) (l : List Entry) : (x.setEngq e l).armedAt = x.armedAt := rfl
@[simp] theorem Strand.setEngq_halted (x : Strand) (e : Nat) (l : List Entry) : (x.setEngq e l).halted = x.halted := rfl
@[simp] theorem Strand.setEngq_sleepEnd (x : Strand) (e : Nat) (l : List Entry) : (x.setEngq e l).sleepEnd = x.sleepEnd := rfl
@[simp] theorem Strand.setEngq_pfx (x : Strand) (e : Nat) (l : List Entry) : (x.setEngq e l).pfx = x.pfx := rfl
@[simp] theorem Strand.setEngq_pfxAt (x : Strand) (e : Nat) (l : List Entry) : (x.setEngq e l).pfxAt = x.pfxAt := rfl
@[simp] theorem Strand.setEngq_fblk (x : Strand) (e : Nat) (l : List Entry) : (x.setEngq e l).fblk = x.fblk := rfl
@[simp] theorem Strand.setEngq_seq (x : Strand) (e : Nat) (l : List Entry) : (x.setEngq e l).seq = x.seq := rfl
@[simp] theorem Strand.setEngq_fetchFrom (x : Strand) (e : Nat) (l : List Entry) : (x.setEngq e l).fetchFrom = x.fetchFrom := rfl
@[simp] theorem Strand.setEngq_issueFrom (x : Strand) (e : Nat) (l : List Entry) : (x.setEngq e l).issueFrom = x.issueFrom := rfl
@[simp] theorem Strand.setEngq_pend (x : Strand) (e : Nat) (l : List Entry) : (x.setEngq e l).pend = x.pend := rfl
@[simp] theorem Strand.setEngq_trap (x : Strand) (e : Nat) (l : List Entry) : (x.setEngq e l).trap = x.trap := rfl
@[simp] theorem Strand.setEngq_lates (x : Strand) (e : Nat) (l : List Entry) : (x.setEngq e l).lates = x.lates := rfl
@[simp] theorem Strand.setEngq_replay (x : Strand) (e : Nat) (l : List Entry) : (x.setEngq e l).replay = x.replay := rfl
@[simp] theorem Strand.setEngq_reports (x : Strand) (e : Nat) (l : List Entry) : (x.setEngq e l).reports = x.reports := rfl
@[simp] theorem Strand.setEngq_qdead (x : Strand) (e : Nat) (l : List Entry) : (x.setEngq e l).qdead = x.qdead := rfl
@[simp] theorem Strand.setEngq_active (x : Strand) (e : Nat) (l : List Entry) : (x.setEngq e l).active = x.active := rfl
@[simp] theorem Strand.setEngq_swReq (x : Strand) (e : Nat) (l : List Entry) : (x.setEngq e l).swReq = x.swReq := rfl
@[simp] theorem Strand.setEngq_swCut (x : Strand) (e : Nat) (l : List Entry) : (x.setEngq e l).swCut = x.swCut := rfl
@[simp] theorem Strand.setEngq_swStop (x : Strand) (e : Nat) (l : List Entry) : (x.setEngq e l).swStop = x.swStop := rfl
@[simp] theorem Strand.setEngq_swHalt (x : Strand) (e : Nat) (l : List Entry) : (x.setEngq e l).swHalt = x.swHalt := rfl
@[simp] theorem Strand.setEngq_wasDormant (x : Strand) (e : Nat) (l : List Entry) : (x.setEngq e l).wasDormant = x.wasDormant := rfl
@[simp] theorem Strand.setEngq_savedSeq (x : Strand) (e : Nat) (l : List Entry) : (x.setEngq e l).savedSeq = x.savedSeq := rfl
@[simp] theorem Strand.setEngq_savedStages (x : Strand) (e : Nat) (l : List Entry) : (x.setEngq e l).savedStages = x.savedStages := rfl
@[simp] theorem Strand.setEngq_pptLoops (x : Strand) (e : Nat) (l : List Entry) : (x.setEngq e l).pptLoops = x.pptLoops := rfl

/-! A vector register changes -/

@[simp] theorem Strand.writeV_st (x : Strand) (r : BitVec 5) (v : Vec) (mask : Dword) (tag : Option (Option (Code × BitVec 60))) : (x.writeV r v mask tag).st = x.st := rfl
@[simp] theorem Strand.writeV_launch (x : Strand) (r : BitVec 5) (v : Vec) (mask : Dword) (tag : Option (Option (Code × BitVec 60))) : (x.writeV r v mask tag).launch = x.launch := rfl
@[simp] theorem Strand.writeV_wid (x : Strand) (r : BitVec 5) (v : Vec) (mask : Dword) (tag : Option (Option (Code × BitVec 60))) : (x.writeV r v mask tag).wid = x.wid := rfl
@[simp] theorem Strand.writeV_idx (x : Strand) (r : BitVec 5) (v : Vec) (mask : Dword) (tag : Option (Option (Code × BitVec 60))) : (x.writeV r v mask tag).idx = x.idx := rfl
@[simp] theorem Strand.writeV_pc (x : Strand) (r : BitVec 5) (v : Vec) (mask : Dword) (tag : Option (Option (Code × BitVec 60))) : (x.writeV r v mask tag).pc = x.pc := rfl
@[simp] theorem Strand.writeV_s (x : Strand) (r : BitVec 5) (v : Vec) (mask : Dword) (tag : Option (Option (Code × BitVec 60))) : (x.writeV r v mask tag).s = x.s := rfl
@[simp] theorem Strand.writeV_q (x : Strand) (r : BitVec 5) (v : Vec) (mask : Dword) (tag : Option (Option (Code × BitVec 60))) : (x.writeV r v mask tag).q = x.q := rfl
@[simp] theorem Strand.writeV_p (x : Strand) (r : BitVec 5) (v : Vec) (mask : Dword) (tag : Option (Option (Code × BitVec 60))) : (x.writeV r v mask tag).p = x.p := rfl
@[simp] theorem Strand.writeV_m (x : Strand) (r : BitVec 5) (v : Vec) (mask : Dword) (tag : Option (Option (Code × BitVec 60))) : (x.writeV r v mask tag).m = x.m := rfl
@[simp] theorem Strand.writeV_y (x : Strand) (r : BitVec 5) (v : Vec) (mask : Dword) (tag : Option (Option (Code × BitVec 60))) : (x.writeV r v mask tag).y = x.y := rfl
@[simp] theorem Strand.writeV_loops (x : Strand) (r : BitVec 5) (v : Vec) (mask : Dword) (tag : Option (Option (Code × BitVec 60))) : (x.writeV r v mask tag).loops = x.loops := rfl
@[simp] theorem Strand.writeV_pmark (x : Strand) (r : BitVec 5) (v : Vec) (mask : Dword) (tag : Option (Option (Code × BitVec 60))) : (x.writeV r v mask tag).pmark = x.pmark := rfl
@[simp] theorem Strand.writeV_markK (x : Strand) (r : BitVec 5) (v : Vec) (mask : Dword) (tag : Option (Option (Code × BitVec 60))) : (x.writeV r v mask tag).markK = x.markK := rfl
@[simp] theorem Strand.writeV_stopCode (x : Strand) (r : BitVec 5) (v : Vec) (mask : Dword) (tag : Option (Option (Code × BitVec 60))) : (x.writeV r v mask tag).stopCode = x.stopCode := rfl
@[simp] theorem Strand.writeV_fk (x : Strand) (r : BitVec 5) (v : Vec) (mask : Dword) (tag : Option (Option (Code × BitVec 60))) : (x.writeV r v mask tag).fk = x.fk := rfl
@[simp] theorem Strand.writeV_ftb (x : Strand) (r : BitVec 5) (v : Vec) (mask : Dword) (tag : Option (Option (Code × BitVec 60))) : (x.writeV r v mask tag).ftb = x.ftb := rfl
@[simp] theorem Strand.writeV_stat (x : Strand) (r : BitVec 5) (v : Vec) (mask : Dword) (tag : Option (Option (Code × BitVec 60))) : (x.writeV r v mask tag).stat = x.stat := rfl
@[simp] theorem Strand.writeV_srkey (x : Strand) (r : BitVec 5) (v : Vec) (mask : Dword) (tag : Option (Option (Code × BitVec 60))) : (x.writeV r v mask tag).srkey = x.srkey := rfl
@[simp] theorem Strand.writeV_tvec (x : Strand) (r : BitVec 5) (v : Vec) (mask : Dword) (tag : Option (Option (Code × BitVec 60))) : (x.writeV r v mask tag).tvec = x.tvec := rfl
@[simp] theorem Strand.writeV_cause (x : Strand) (r : BitVec 5) (v : Vec) (mask : Dword) (tag : Option (Option (Code × BitVec 60))) : (x.writeV r v mask tag).cause = x.cause := rfl
@[simp] theorem Strand.writeV_tinfo (x : Strand) (r : BitVec 5) (v : Vec) (mask : Dword) (tag : Option (Option (Code × BitVec 60))) : (x.writeV r v mask tag).tinfo = x.tinfo := rfl
@[simp] theorem Strand.writeV_taddr (x : Strand) (r : BitVec 5) (v : Vec) (mask : Dword) (tag : Option (Option (Code × BitVec 60))) : (x.writeV r v mask tag).taddr = x.taddr := rfl
@[simp] theorem Strand.writeV_tscr (x : Strand) (r : BitVec 5) (v : Vec) (mask : Dword) (tag : Option (Option (Code × BitVec 60))) : (x.writeV r v mask tag).tscr = x.tscr := rfl
@[simp] theorem Strand.writeV_vfsel (x : Strand) (r : BitVec 5) (v : Vec) (mask : Dword) (tag : Option (Option (Code × BitVec 60))) : (x.writeV r v mask tag).vfsel = x.vfsel := rfl
@[simp] theorem Strand.writeV_handler (x : Strand) (r : BitVec 5) (v : Vec) (mask : Dword) (tag : Option (Option (Code × BitVec 60))) : (x.writeV r v mask tag).handler = x.handler := rfl
@[simp] theorem Strand.writeV_entered (x : Strand) (r : BitVec 5) (v : Vec) (mask : Dword) (tag : Option (Option (Code × BitVec 60))) : (x.writeV r v mask tag).entered = x.entered := rfl
@[simp] theorem Strand.writeV_armed (x : Strand) (r : BitVec 5) (v : Vec) (mask : Dword) (tag : Option (Option (Code × BitVec 60))) : (x.writeV r v mask tag).armed = x.armed := rfl
@[simp] theorem Strand.writeV_armedAt (x : Strand) (r : BitVec 5) (v : Vec) (mask : Dword) (tag : Option (Option (Code × BitVec 60))) : (x.writeV r v mask tag).armedAt = x.armedAt := rfl
@[simp] theorem Strand.writeV_halted (x : Strand) (r : BitVec 5) (v : Vec) (mask : Dword) (tag : Option (Option (Code × BitVec 60))) : (x.writeV r v mask tag).halted = x.halted := rfl
@[simp] theorem Strand.writeV_sleepEnd (x : Strand) (r : BitVec 5) (v : Vec) (mask : Dword) (tag : Option (Option (Code × BitVec 60))) : (x.writeV r v mask tag).sleepEnd = x.sleepEnd := rfl
@[simp] theorem Strand.writeV_queues (x : Strand) (r : BitVec 5) (v : Vec) (mask : Dword) (tag : Option (Option (Code × BitVec 60))) : (x.writeV r v mask tag).queues = x.queues := rfl
@[simp] theorem Strand.writeV_pfx (x : Strand) (r : BitVec 5) (v : Vec) (mask : Dword) (tag : Option (Option (Code × BitVec 60))) : (x.writeV r v mask tag).pfx = x.pfx := rfl
@[simp] theorem Strand.writeV_pfxAt (x : Strand) (r : BitVec 5) (v : Vec) (mask : Dword) (tag : Option (Option (Code × BitVec 60))) : (x.writeV r v mask tag).pfxAt = x.pfxAt := rfl
@[simp] theorem Strand.writeV_fblk (x : Strand) (r : BitVec 5) (v : Vec) (mask : Dword) (tag : Option (Option (Code × BitVec 60))) : (x.writeV r v mask tag).fblk = x.fblk := rfl
@[simp] theorem Strand.writeV_seq (x : Strand) (r : BitVec 5) (v : Vec) (mask : Dword) (tag : Option (Option (Code × BitVec 60))) : (x.writeV r v mask tag).seq = x.seq := rfl
@[simp] theorem Strand.writeV_fetchFrom (x : Strand) (r : BitVec 5) (v : Vec) (mask : Dword) (tag : Option (Option (Code × BitVec 60))) : (x.writeV r v mask tag).fetchFrom = x.fetchFrom := rfl
@[simp] theorem Strand.writeV_issueFrom (x : Strand) (r : BitVec 5) (v : Vec) (mask : Dword) (tag : Option (Option (Code × BitVec 60))) : (x.writeV r v mask tag).issueFrom = x.issueFrom := rfl
@[simp] theorem Strand.writeV_pend (x : Strand) (r : BitVec 5) (v : Vec) (mask : Dword) (tag : Option (Option (Code × BitVec 60))) : (x.writeV r v mask tag).pend = x.pend := rfl
@[simp] theorem Strand.writeV_trap (x : Strand) (r : BitVec 5) (v : Vec) (mask : Dword) (tag : Option (Option (Code × BitVec 60))) : (x.writeV r v mask tag).trap = x.trap := rfl
@[simp] theorem Strand.writeV_lates (x : Strand) (r : BitVec 5) (v : Vec) (mask : Dword) (tag : Option (Option (Code × BitVec 60))) : (x.writeV r v mask tag).lates = x.lates := rfl
@[simp] theorem Strand.writeV_replay (x : Strand) (r : BitVec 5) (v : Vec) (mask : Dword) (tag : Option (Option (Code × BitVec 60))) : (x.writeV r v mask tag).replay = x.replay := rfl
@[simp] theorem Strand.writeV_reports (x : Strand) (r : BitVec 5) (v : Vec) (mask : Dword) (tag : Option (Option (Code × BitVec 60))) : (x.writeV r v mask tag).reports = x.reports := rfl
@[simp] theorem Strand.writeV_qdead (x : Strand) (r : BitVec 5) (v : Vec) (mask : Dword) (tag : Option (Option (Code × BitVec 60))) : (x.writeV r v mask tag).qdead = x.qdead := rfl
@[simp] theorem Strand.writeV_active (x : Strand) (r : BitVec 5) (v : Vec) (mask : Dword) (tag : Option (Option (Code × BitVec 60))) : (x.writeV r v mask tag).active = x.active := rfl
@[simp] theorem Strand.writeV_swReq (x : Strand) (r : BitVec 5) (v : Vec) (mask : Dword) (tag : Option (Option (Code × BitVec 60))) : (x.writeV r v mask tag).swReq = x.swReq := rfl
@[simp] theorem Strand.writeV_swCut (x : Strand) (r : BitVec 5) (v : Vec) (mask : Dword) (tag : Option (Option (Code × BitVec 60))) : (x.writeV r v mask tag).swCut = x.swCut := rfl
@[simp] theorem Strand.writeV_swStop (x : Strand) (r : BitVec 5) (v : Vec) (mask : Dword) (tag : Option (Option (Code × BitVec 60))) : (x.writeV r v mask tag).swStop = x.swStop := rfl
@[simp] theorem Strand.writeV_swHalt (x : Strand) (r : BitVec 5) (v : Vec) (mask : Dword) (tag : Option (Option (Code × BitVec 60))) : (x.writeV r v mask tag).swHalt = x.swHalt := rfl
@[simp] theorem Strand.writeV_wasDormant (x : Strand) (r : BitVec 5) (v : Vec) (mask : Dword) (tag : Option (Option (Code × BitVec 60))) : (x.writeV r v mask tag).wasDormant = x.wasDormant := rfl
@[simp] theorem Strand.writeV_savedSeq (x : Strand) (r : BitVec 5) (v : Vec) (mask : Dword) (tag : Option (Option (Code × BitVec 60))) : (x.writeV r v mask tag).savedSeq = x.savedSeq := rfl
@[simp] theorem Strand.writeV_savedStages (x : Strand) (r : BitVec 5) (v : Vec) (mask : Dword) (tag : Option (Option (Code × BitVec 60))) : (x.writeV r v mask tag).savedStages = x.savedStages := rfl
@[simp] theorem Strand.writeV_pptLoops (x : Strand) (r : BitVec 5) (v : Vec) (mask : Dword) (tag : Option (Option (Code × BitVec 60))) : (x.writeV r v mask tag).pptLoops = x.pptLoops := rfl

/-! Writes that s0, p0 and m0 discard. -/

@[simp] theorem Strand.writeS_st (x : Strand) (r : BitVec 6) (v : Sval) : (x.writeS r v).st = x.st := by unfold Strand.writeS; split <;> (try split) <;> rfl
@[simp] theorem Strand.writeS_launch (x : Strand) (r : BitVec 6) (v : Sval) : (x.writeS r v).launch = x.launch := by unfold Strand.writeS; split <;> (try split) <;> rfl
@[simp] theorem Strand.writeS_wid (x : Strand) (r : BitVec 6) (v : Sval) : (x.writeS r v).wid = x.wid := by unfold Strand.writeS; split <;> (try split) <;> rfl
@[simp] theorem Strand.writeS_idx (x : Strand) (r : BitVec 6) (v : Sval) : (x.writeS r v).idx = x.idx := by unfold Strand.writeS; split <;> (try split) <;> rfl
@[simp] theorem Strand.writeS_pc (x : Strand) (r : BitVec 6) (v : Sval) : (x.writeS r v).pc = x.pc := by unfold Strand.writeS; split <;> (try split) <;> rfl
@[simp] theorem Strand.writeS_p (x : Strand) (r : BitVec 6) (v : Sval) : (x.writeS r v).p = x.p := by unfold Strand.writeS; split <;> (try split) <;> rfl
@[simp] theorem Strand.writeS_m (x : Strand) (r : BitVec 6) (v : Sval) : (x.writeS r v).m = x.m := by unfold Strand.writeS; split <;> (try split) <;> rfl
@[simp] theorem Strand.writeS_v (x : Strand) (r : BitVec 6) (v : Sval) : (x.writeS r v).v = x.v := by unfold Strand.writeS; split <;> (try split) <;> rfl
@[simp] theorem Strand.writeS_y (x : Strand) (r : BitVec 6) (v : Sval) : (x.writeS r v).y = x.y := by unfold Strand.writeS; split <;> (try split) <;> rfl
@[simp] theorem Strand.writeS_loops (x : Strand) (r : BitVec 6) (v : Sval) : (x.writeS r v).loops = x.loops := by unfold Strand.writeS; split <;> (try split) <;> rfl
@[simp] theorem Strand.writeS_pmark (x : Strand) (r : BitVec 6) (v : Sval) : (x.writeS r v).pmark = x.pmark := by unfold Strand.writeS; split <;> (try split) <;> rfl
@[simp] theorem Strand.writeS_markK (x : Strand) (r : BitVec 6) (v : Sval) : (x.writeS r v).markK = x.markK := by unfold Strand.writeS; split <;> (try split) <;> rfl
@[simp] theorem Strand.writeS_stopCode (x : Strand) (r : BitVec 6) (v : Sval) : (x.writeS r v).stopCode = x.stopCode := by unfold Strand.writeS; split <;> (try split) <;> rfl
@[simp] theorem Strand.writeS_fk (x : Strand) (r : BitVec 6) (v : Sval) : (x.writeS r v).fk = x.fk := by unfold Strand.writeS; split <;> (try split) <;> rfl
@[simp] theorem Strand.writeS_ftb (x : Strand) (r : BitVec 6) (v : Sval) : (x.writeS r v).ftb = x.ftb := by unfold Strand.writeS; split <;> (try split) <;> rfl
@[simp] theorem Strand.writeS_stat (x : Strand) (r : BitVec 6) (v : Sval) : (x.writeS r v).stat = x.stat := by unfold Strand.writeS; split <;> (try split) <;> rfl
@[simp] theorem Strand.writeS_srkey (x : Strand) (r : BitVec 6) (v : Sval) : (x.writeS r v).srkey = x.srkey := by unfold Strand.writeS; split <;> (try split) <;> rfl
@[simp] theorem Strand.writeS_tvec (x : Strand) (r : BitVec 6) (v : Sval) : (x.writeS r v).tvec = x.tvec := by unfold Strand.writeS; split <;> (try split) <;> rfl
@[simp] theorem Strand.writeS_cause (x : Strand) (r : BitVec 6) (v : Sval) : (x.writeS r v).cause = x.cause := by unfold Strand.writeS; split <;> (try split) <;> rfl
@[simp] theorem Strand.writeS_tinfo (x : Strand) (r : BitVec 6) (v : Sval) : (x.writeS r v).tinfo = x.tinfo := by unfold Strand.writeS; split <;> (try split) <;> rfl
@[simp] theorem Strand.writeS_taddr (x : Strand) (r : BitVec 6) (v : Sval) : (x.writeS r v).taddr = x.taddr := by unfold Strand.writeS; split <;> (try split) <;> rfl
@[simp] theorem Strand.writeS_tscr (x : Strand) (r : BitVec 6) (v : Sval) : (x.writeS r v).tscr = x.tscr := by unfold Strand.writeS; split <;> (try split) <;> rfl
@[simp] theorem Strand.writeS_vfsel (x : Strand) (r : BitVec 6) (v : Sval) : (x.writeS r v).vfsel = x.vfsel := by unfold Strand.writeS; split <;> (try split) <;> rfl
@[simp] theorem Strand.writeS_handler (x : Strand) (r : BitVec 6) (v : Sval) : (x.writeS r v).handler = x.handler := by unfold Strand.writeS; split <;> (try split) <;> rfl
@[simp] theorem Strand.writeS_entered (x : Strand) (r : BitVec 6) (v : Sval) : (x.writeS r v).entered = x.entered := by unfold Strand.writeS; split <;> (try split) <;> rfl
@[simp] theorem Strand.writeS_armed (x : Strand) (r : BitVec 6) (v : Sval) : (x.writeS r v).armed = x.armed := by unfold Strand.writeS; split <;> (try split) <;> rfl
@[simp] theorem Strand.writeS_armedAt (x : Strand) (r : BitVec 6) (v : Sval) : (x.writeS r v).armedAt = x.armedAt := by unfold Strand.writeS; split <;> (try split) <;> rfl
@[simp] theorem Strand.writeS_halted (x : Strand) (r : BitVec 6) (v : Sval) : (x.writeS r v).halted = x.halted := by unfold Strand.writeS; split <;> (try split) <;> rfl
@[simp] theorem Strand.writeS_sleepEnd (x : Strand) (r : BitVec 6) (v : Sval) : (x.writeS r v).sleepEnd = x.sleepEnd := by unfold Strand.writeS; split <;> (try split) <;> rfl
@[simp] theorem Strand.writeS_queues (x : Strand) (r : BitVec 6) (v : Sval) : (x.writeS r v).queues = x.queues := by unfold Strand.writeS; split <;> (try split) <;> rfl
@[simp] theorem Strand.writeS_pfx (x : Strand) (r : BitVec 6) (v : Sval) : (x.writeS r v).pfx = x.pfx := by unfold Strand.writeS; split <;> (try split) <;> rfl
@[simp] theorem Strand.writeS_pfxAt (x : Strand) (r : BitVec 6) (v : Sval) : (x.writeS r v).pfxAt = x.pfxAt := by unfold Strand.writeS; split <;> (try split) <;> rfl
@[simp] theorem Strand.writeS_fblk (x : Strand) (r : BitVec 6) (v : Sval) : (x.writeS r v).fblk = x.fblk := by unfold Strand.writeS; split <;> (try split) <;> rfl
@[simp] theorem Strand.writeS_seq (x : Strand) (r : BitVec 6) (v : Sval) : (x.writeS r v).seq = x.seq := by unfold Strand.writeS; split <;> (try split) <;> rfl
@[simp] theorem Strand.writeS_fetchFrom (x : Strand) (r : BitVec 6) (v : Sval) : (x.writeS r v).fetchFrom = x.fetchFrom := by unfold Strand.writeS; split <;> (try split) <;> rfl
@[simp] theorem Strand.writeS_issueFrom (x : Strand) (r : BitVec 6) (v : Sval) : (x.writeS r v).issueFrom = x.issueFrom := by unfold Strand.writeS; split <;> (try split) <;> rfl
@[simp] theorem Strand.writeS_pend (x : Strand) (r : BitVec 6) (v : Sval) : (x.writeS r v).pend = x.pend := by unfold Strand.writeS; split <;> (try split) <;> rfl
@[simp] theorem Strand.writeS_trap (x : Strand) (r : BitVec 6) (v : Sval) : (x.writeS r v).trap = x.trap := by unfold Strand.writeS; split <;> (try split) <;> rfl
@[simp] theorem Strand.writeS_lates (x : Strand) (r : BitVec 6) (v : Sval) : (x.writeS r v).lates = x.lates := by unfold Strand.writeS; split <;> (try split) <;> rfl
@[simp] theorem Strand.writeS_replay (x : Strand) (r : BitVec 6) (v : Sval) : (x.writeS r v).replay = x.replay := by unfold Strand.writeS; split <;> (try split) <;> rfl
@[simp] theorem Strand.writeS_reports (x : Strand) (r : BitVec 6) (v : Sval) : (x.writeS r v).reports = x.reports := by unfold Strand.writeS; split <;> (try split) <;> rfl
@[simp] theorem Strand.writeS_qdead (x : Strand) (r : BitVec 6) (v : Sval) : (x.writeS r v).qdead = x.qdead := by unfold Strand.writeS; split <;> (try split) <;> rfl
@[simp] theorem Strand.writeS_active (x : Strand) (r : BitVec 6) (v : Sval) : (x.writeS r v).active = x.active := by unfold Strand.writeS; split <;> (try split) <;> rfl
@[simp] theorem Strand.writeS_swReq (x : Strand) (r : BitVec 6) (v : Sval) : (x.writeS r v).swReq = x.swReq := by unfold Strand.writeS; split <;> (try split) <;> rfl
@[simp] theorem Strand.writeS_swCut (x : Strand) (r : BitVec 6) (v : Sval) : (x.writeS r v).swCut = x.swCut := by unfold Strand.writeS; split <;> (try split) <;> rfl
@[simp] theorem Strand.writeS_swStop (x : Strand) (r : BitVec 6) (v : Sval) : (x.writeS r v).swStop = x.swStop := by unfold Strand.writeS; split <;> (try split) <;> rfl
@[simp] theorem Strand.writeS_swHalt (x : Strand) (r : BitVec 6) (v : Sval) : (x.writeS r v).swHalt = x.swHalt := by unfold Strand.writeS; split <;> (try split) <;> rfl
@[simp] theorem Strand.writeS_wasDormant (x : Strand) (r : BitVec 6) (v : Sval) : (x.writeS r v).wasDormant = x.wasDormant := by unfold Strand.writeS; split <;> (try split) <;> rfl
@[simp] theorem Strand.writeS_savedSeq (x : Strand) (r : BitVec 6) (v : Sval) : (x.writeS r v).savedSeq = x.savedSeq := by unfold Strand.writeS; split <;> (try split) <;> rfl
@[simp] theorem Strand.writeS_savedStages (x : Strand) (r : BitVec 6) (v : Sval) : (x.writeS r v).savedStages = x.savedStages := by unfold Strand.writeS; split <;> (try split) <;> rfl
@[simp] theorem Strand.writeS_pptLoops (x : Strand) (r : BitVec 6) (v : Sval) : (x.writeS r v).pptLoops = x.pptLoops := by unfold Strand.writeS; split <;> (try split) <;> rfl

@[simp] theorem Strand.writeP_st (x : Strand) (i : BitVec 3) (v : Bool) : (x.writeP i v).st = x.st := by unfold Strand.writeP; split <;> (try split) <;> rfl
@[simp] theorem Strand.writeP_launch (x : Strand) (i : BitVec 3) (v : Bool) : (x.writeP i v).launch = x.launch := by unfold Strand.writeP; split <;> (try split) <;> rfl
@[simp] theorem Strand.writeP_wid (x : Strand) (i : BitVec 3) (v : Bool) : (x.writeP i v).wid = x.wid := by unfold Strand.writeP; split <;> (try split) <;> rfl
@[simp] theorem Strand.writeP_idx (x : Strand) (i : BitVec 3) (v : Bool) : (x.writeP i v).idx = x.idx := by unfold Strand.writeP; split <;> (try split) <;> rfl
@[simp] theorem Strand.writeP_pc (x : Strand) (i : BitVec 3) (v : Bool) : (x.writeP i v).pc = x.pc := by unfold Strand.writeP; split <;> (try split) <;> rfl
@[simp] theorem Strand.writeP_s (x : Strand) (i : BitVec 3) (v : Bool) : (x.writeP i v).s = x.s := by unfold Strand.writeP; split <;> (try split) <;> rfl
@[simp] theorem Strand.writeP_q (x : Strand) (i : BitVec 3) (v : Bool) : (x.writeP i v).q = x.q := by unfold Strand.writeP; split <;> (try split) <;> rfl
@[simp] theorem Strand.writeP_m (x : Strand) (i : BitVec 3) (v : Bool) : (x.writeP i v).m = x.m := by unfold Strand.writeP; split <;> (try split) <;> rfl
@[simp] theorem Strand.writeP_v (x : Strand) (i : BitVec 3) (v : Bool) : (x.writeP i v).v = x.v := by unfold Strand.writeP; split <;> (try split) <;> rfl
@[simp] theorem Strand.writeP_y (x : Strand) (i : BitVec 3) (v : Bool) : (x.writeP i v).y = x.y := by unfold Strand.writeP; split <;> (try split) <;> rfl
@[simp] theorem Strand.writeP_loops (x : Strand) (i : BitVec 3) (v : Bool) : (x.writeP i v).loops = x.loops := by unfold Strand.writeP; split <;> (try split) <;> rfl
@[simp] theorem Strand.writeP_pmark (x : Strand) (i : BitVec 3) (v : Bool) : (x.writeP i v).pmark = x.pmark := by unfold Strand.writeP; split <;> (try split) <;> rfl
@[simp] theorem Strand.writeP_markK (x : Strand) (i : BitVec 3) (v : Bool) : (x.writeP i v).markK = x.markK := by unfold Strand.writeP; split <;> (try split) <;> rfl
@[simp] theorem Strand.writeP_stopCode (x : Strand) (i : BitVec 3) (v : Bool) : (x.writeP i v).stopCode = x.stopCode := by unfold Strand.writeP; split <;> (try split) <;> rfl
@[simp] theorem Strand.writeP_fk (x : Strand) (i : BitVec 3) (v : Bool) : (x.writeP i v).fk = x.fk := by unfold Strand.writeP; split <;> (try split) <;> rfl
@[simp] theorem Strand.writeP_ftb (x : Strand) (i : BitVec 3) (v : Bool) : (x.writeP i v).ftb = x.ftb := by unfold Strand.writeP; split <;> (try split) <;> rfl
@[simp] theorem Strand.writeP_stat (x : Strand) (i : BitVec 3) (v : Bool) : (x.writeP i v).stat = x.stat := by unfold Strand.writeP; split <;> (try split) <;> rfl
@[simp] theorem Strand.writeP_srkey (x : Strand) (i : BitVec 3) (v : Bool) : (x.writeP i v).srkey = x.srkey := by unfold Strand.writeP; split <;> (try split) <;> rfl
@[simp] theorem Strand.writeP_tvec (x : Strand) (i : BitVec 3) (v : Bool) : (x.writeP i v).tvec = x.tvec := by unfold Strand.writeP; split <;> (try split) <;> rfl
@[simp] theorem Strand.writeP_cause (x : Strand) (i : BitVec 3) (v : Bool) : (x.writeP i v).cause = x.cause := by unfold Strand.writeP; split <;> (try split) <;> rfl
@[simp] theorem Strand.writeP_tinfo (x : Strand) (i : BitVec 3) (v : Bool) : (x.writeP i v).tinfo = x.tinfo := by unfold Strand.writeP; split <;> (try split) <;> rfl
@[simp] theorem Strand.writeP_taddr (x : Strand) (i : BitVec 3) (v : Bool) : (x.writeP i v).taddr = x.taddr := by unfold Strand.writeP; split <;> (try split) <;> rfl
@[simp] theorem Strand.writeP_tscr (x : Strand) (i : BitVec 3) (v : Bool) : (x.writeP i v).tscr = x.tscr := by unfold Strand.writeP; split <;> (try split) <;> rfl
@[simp] theorem Strand.writeP_vfsel (x : Strand) (i : BitVec 3) (v : Bool) : (x.writeP i v).vfsel = x.vfsel := by unfold Strand.writeP; split <;> (try split) <;> rfl
@[simp] theorem Strand.writeP_handler (x : Strand) (i : BitVec 3) (v : Bool) : (x.writeP i v).handler = x.handler := by unfold Strand.writeP; split <;> (try split) <;> rfl
@[simp] theorem Strand.writeP_entered (x : Strand) (i : BitVec 3) (v : Bool) : (x.writeP i v).entered = x.entered := by unfold Strand.writeP; split <;> (try split) <;> rfl
@[simp] theorem Strand.writeP_armed (x : Strand) (i : BitVec 3) (v : Bool) : (x.writeP i v).armed = x.armed := by unfold Strand.writeP; split <;> (try split) <;> rfl
@[simp] theorem Strand.writeP_armedAt (x : Strand) (i : BitVec 3) (v : Bool) : (x.writeP i v).armedAt = x.armedAt := by unfold Strand.writeP; split <;> (try split) <;> rfl
@[simp] theorem Strand.writeP_halted (x : Strand) (i : BitVec 3) (v : Bool) : (x.writeP i v).halted = x.halted := by unfold Strand.writeP; split <;> (try split) <;> rfl
@[simp] theorem Strand.writeP_sleepEnd (x : Strand) (i : BitVec 3) (v : Bool) : (x.writeP i v).sleepEnd = x.sleepEnd := by unfold Strand.writeP; split <;> (try split) <;> rfl
@[simp] theorem Strand.writeP_queues (x : Strand) (i : BitVec 3) (v : Bool) : (x.writeP i v).queues = x.queues := by unfold Strand.writeP; split <;> (try split) <;> rfl
@[simp] theorem Strand.writeP_pfx (x : Strand) (i : BitVec 3) (v : Bool) : (x.writeP i v).pfx = x.pfx := by unfold Strand.writeP; split <;> (try split) <;> rfl
@[simp] theorem Strand.writeP_pfxAt (x : Strand) (i : BitVec 3) (v : Bool) : (x.writeP i v).pfxAt = x.pfxAt := by unfold Strand.writeP; split <;> (try split) <;> rfl
@[simp] theorem Strand.writeP_fblk (x : Strand) (i : BitVec 3) (v : Bool) : (x.writeP i v).fblk = x.fblk := by unfold Strand.writeP; split <;> (try split) <;> rfl
@[simp] theorem Strand.writeP_seq (x : Strand) (i : BitVec 3) (v : Bool) : (x.writeP i v).seq = x.seq := by unfold Strand.writeP; split <;> (try split) <;> rfl
@[simp] theorem Strand.writeP_fetchFrom (x : Strand) (i : BitVec 3) (v : Bool) : (x.writeP i v).fetchFrom = x.fetchFrom := by unfold Strand.writeP; split <;> (try split) <;> rfl
@[simp] theorem Strand.writeP_issueFrom (x : Strand) (i : BitVec 3) (v : Bool) : (x.writeP i v).issueFrom = x.issueFrom := by unfold Strand.writeP; split <;> (try split) <;> rfl
@[simp] theorem Strand.writeP_pend (x : Strand) (i : BitVec 3) (v : Bool) : (x.writeP i v).pend = x.pend := by unfold Strand.writeP; split <;> (try split) <;> rfl
@[simp] theorem Strand.writeP_trap (x : Strand) (i : BitVec 3) (v : Bool) : (x.writeP i v).trap = x.trap := by unfold Strand.writeP; split <;> (try split) <;> rfl
@[simp] theorem Strand.writeP_lates (x : Strand) (i : BitVec 3) (v : Bool) : (x.writeP i v).lates = x.lates := by unfold Strand.writeP; split <;> (try split) <;> rfl
@[simp] theorem Strand.writeP_replay (x : Strand) (i : BitVec 3) (v : Bool) : (x.writeP i v).replay = x.replay := by unfold Strand.writeP; split <;> (try split) <;> rfl
@[simp] theorem Strand.writeP_reports (x : Strand) (i : BitVec 3) (v : Bool) : (x.writeP i v).reports = x.reports := by unfold Strand.writeP; split <;> (try split) <;> rfl
@[simp] theorem Strand.writeP_qdead (x : Strand) (i : BitVec 3) (v : Bool) : (x.writeP i v).qdead = x.qdead := by unfold Strand.writeP; split <;> (try split) <;> rfl
@[simp] theorem Strand.writeP_active (x : Strand) (i : BitVec 3) (v : Bool) : (x.writeP i v).active = x.active := by unfold Strand.writeP; split <;> (try split) <;> rfl
@[simp] theorem Strand.writeP_swReq (x : Strand) (i : BitVec 3) (v : Bool) : (x.writeP i v).swReq = x.swReq := by unfold Strand.writeP; split <;> (try split) <;> rfl
@[simp] theorem Strand.writeP_swCut (x : Strand) (i : BitVec 3) (v : Bool) : (x.writeP i v).swCut = x.swCut := by unfold Strand.writeP; split <;> (try split) <;> rfl
@[simp] theorem Strand.writeP_swStop (x : Strand) (i : BitVec 3) (v : Bool) : (x.writeP i v).swStop = x.swStop := by unfold Strand.writeP; split <;> (try split) <;> rfl
@[simp] theorem Strand.writeP_swHalt (x : Strand) (i : BitVec 3) (v : Bool) : (x.writeP i v).swHalt = x.swHalt := by unfold Strand.writeP; split <;> (try split) <;> rfl
@[simp] theorem Strand.writeP_wasDormant (x : Strand) (i : BitVec 3) (v : Bool) : (x.writeP i v).wasDormant = x.wasDormant := by unfold Strand.writeP; split <;> (try split) <;> rfl
@[simp] theorem Strand.writeP_savedSeq (x : Strand) (i : BitVec 3) (v : Bool) : (x.writeP i v).savedSeq = x.savedSeq := by unfold Strand.writeP; split <;> (try split) <;> rfl
@[simp] theorem Strand.writeP_savedStages (x : Strand) (i : BitVec 3) (v : Bool) : (x.writeP i v).savedStages = x.savedStages := by unfold Strand.writeP; split <;> (try split) <;> rfl
@[simp] theorem Strand.writeP_pptLoops (x : Strand) (i : BitVec 3) (v : Bool) : (x.writeP i v).pptLoops = x.pptLoops := by unfold Strand.writeP; split <;> (try split) <;> rfl

@[simp] theorem Strand.writeM_st (x : Strand) (i : BitVec 3) (v mask : Dword) : (x.writeM i v mask).st = x.st := by unfold Strand.writeM; split <;> (try split) <;> rfl
@[simp] theorem Strand.writeM_launch (x : Strand) (i : BitVec 3) (v mask : Dword) : (x.writeM i v mask).launch = x.launch := by unfold Strand.writeM; split <;> (try split) <;> rfl
@[simp] theorem Strand.writeM_wid (x : Strand) (i : BitVec 3) (v mask : Dword) : (x.writeM i v mask).wid = x.wid := by unfold Strand.writeM; split <;> (try split) <;> rfl
@[simp] theorem Strand.writeM_idx (x : Strand) (i : BitVec 3) (v mask : Dword) : (x.writeM i v mask).idx = x.idx := by unfold Strand.writeM; split <;> (try split) <;> rfl
@[simp] theorem Strand.writeM_pc (x : Strand) (i : BitVec 3) (v mask : Dword) : (x.writeM i v mask).pc = x.pc := by unfold Strand.writeM; split <;> (try split) <;> rfl
@[simp] theorem Strand.writeM_s (x : Strand) (i : BitVec 3) (v mask : Dword) : (x.writeM i v mask).s = x.s := by unfold Strand.writeM; split <;> (try split) <;> rfl
@[simp] theorem Strand.writeM_q (x : Strand) (i : BitVec 3) (v mask : Dword) : (x.writeM i v mask).q = x.q := by unfold Strand.writeM; split <;> (try split) <;> rfl
@[simp] theorem Strand.writeM_p (x : Strand) (i : BitVec 3) (v mask : Dword) : (x.writeM i v mask).p = x.p := by unfold Strand.writeM; split <;> (try split) <;> rfl
@[simp] theorem Strand.writeM_v (x : Strand) (i : BitVec 3) (v mask : Dword) : (x.writeM i v mask).v = x.v := by unfold Strand.writeM; split <;> (try split) <;> rfl
@[simp] theorem Strand.writeM_y (x : Strand) (i : BitVec 3) (v mask : Dword) : (x.writeM i v mask).y = x.y := by unfold Strand.writeM; split <;> (try split) <;> rfl
@[simp] theorem Strand.writeM_loops (x : Strand) (i : BitVec 3) (v mask : Dword) : (x.writeM i v mask).loops = x.loops := by unfold Strand.writeM; split <;> (try split) <;> rfl
@[simp] theorem Strand.writeM_pmark (x : Strand) (i : BitVec 3) (v mask : Dword) : (x.writeM i v mask).pmark = x.pmark := by unfold Strand.writeM; split <;> (try split) <;> rfl
@[simp] theorem Strand.writeM_markK (x : Strand) (i : BitVec 3) (v mask : Dword) : (x.writeM i v mask).markK = x.markK := by unfold Strand.writeM; split <;> (try split) <;> rfl
@[simp] theorem Strand.writeM_stopCode (x : Strand) (i : BitVec 3) (v mask : Dword) : (x.writeM i v mask).stopCode = x.stopCode := by unfold Strand.writeM; split <;> (try split) <;> rfl
@[simp] theorem Strand.writeM_fk (x : Strand) (i : BitVec 3) (v mask : Dword) : (x.writeM i v mask).fk = x.fk := by unfold Strand.writeM; split <;> (try split) <;> rfl
@[simp] theorem Strand.writeM_ftb (x : Strand) (i : BitVec 3) (v mask : Dword) : (x.writeM i v mask).ftb = x.ftb := by unfold Strand.writeM; split <;> (try split) <;> rfl
@[simp] theorem Strand.writeM_stat (x : Strand) (i : BitVec 3) (v mask : Dword) : (x.writeM i v mask).stat = x.stat := by unfold Strand.writeM; split <;> (try split) <;> rfl
@[simp] theorem Strand.writeM_srkey (x : Strand) (i : BitVec 3) (v mask : Dword) : (x.writeM i v mask).srkey = x.srkey := by unfold Strand.writeM; split <;> (try split) <;> rfl
@[simp] theorem Strand.writeM_tvec (x : Strand) (i : BitVec 3) (v mask : Dword) : (x.writeM i v mask).tvec = x.tvec := by unfold Strand.writeM; split <;> (try split) <;> rfl
@[simp] theorem Strand.writeM_cause (x : Strand) (i : BitVec 3) (v mask : Dword) : (x.writeM i v mask).cause = x.cause := by unfold Strand.writeM; split <;> (try split) <;> rfl
@[simp] theorem Strand.writeM_tinfo (x : Strand) (i : BitVec 3) (v mask : Dword) : (x.writeM i v mask).tinfo = x.tinfo := by unfold Strand.writeM; split <;> (try split) <;> rfl
@[simp] theorem Strand.writeM_taddr (x : Strand) (i : BitVec 3) (v mask : Dword) : (x.writeM i v mask).taddr = x.taddr := by unfold Strand.writeM; split <;> (try split) <;> rfl
@[simp] theorem Strand.writeM_tscr (x : Strand) (i : BitVec 3) (v mask : Dword) : (x.writeM i v mask).tscr = x.tscr := by unfold Strand.writeM; split <;> (try split) <;> rfl
@[simp] theorem Strand.writeM_vfsel (x : Strand) (i : BitVec 3) (v mask : Dword) : (x.writeM i v mask).vfsel = x.vfsel := by unfold Strand.writeM; split <;> (try split) <;> rfl
@[simp] theorem Strand.writeM_handler (x : Strand) (i : BitVec 3) (v mask : Dword) : (x.writeM i v mask).handler = x.handler := by unfold Strand.writeM; split <;> (try split) <;> rfl
@[simp] theorem Strand.writeM_entered (x : Strand) (i : BitVec 3) (v mask : Dword) : (x.writeM i v mask).entered = x.entered := by unfold Strand.writeM; split <;> (try split) <;> rfl
@[simp] theorem Strand.writeM_armed (x : Strand) (i : BitVec 3) (v mask : Dword) : (x.writeM i v mask).armed = x.armed := by unfold Strand.writeM; split <;> (try split) <;> rfl
@[simp] theorem Strand.writeM_armedAt (x : Strand) (i : BitVec 3) (v mask : Dword) : (x.writeM i v mask).armedAt = x.armedAt := by unfold Strand.writeM; split <;> (try split) <;> rfl
@[simp] theorem Strand.writeM_halted (x : Strand) (i : BitVec 3) (v mask : Dword) : (x.writeM i v mask).halted = x.halted := by unfold Strand.writeM; split <;> (try split) <;> rfl
@[simp] theorem Strand.writeM_sleepEnd (x : Strand) (i : BitVec 3) (v mask : Dword) : (x.writeM i v mask).sleepEnd = x.sleepEnd := by unfold Strand.writeM; split <;> (try split) <;> rfl
@[simp] theorem Strand.writeM_queues (x : Strand) (i : BitVec 3) (v mask : Dword) : (x.writeM i v mask).queues = x.queues := by unfold Strand.writeM; split <;> (try split) <;> rfl
@[simp] theorem Strand.writeM_pfx (x : Strand) (i : BitVec 3) (v mask : Dword) : (x.writeM i v mask).pfx = x.pfx := by unfold Strand.writeM; split <;> (try split) <;> rfl
@[simp] theorem Strand.writeM_pfxAt (x : Strand) (i : BitVec 3) (v mask : Dword) : (x.writeM i v mask).pfxAt = x.pfxAt := by unfold Strand.writeM; split <;> (try split) <;> rfl
@[simp] theorem Strand.writeM_fblk (x : Strand) (i : BitVec 3) (v mask : Dword) : (x.writeM i v mask).fblk = x.fblk := by unfold Strand.writeM; split <;> (try split) <;> rfl
@[simp] theorem Strand.writeM_seq (x : Strand) (i : BitVec 3) (v mask : Dword) : (x.writeM i v mask).seq = x.seq := by unfold Strand.writeM; split <;> (try split) <;> rfl
@[simp] theorem Strand.writeM_fetchFrom (x : Strand) (i : BitVec 3) (v mask : Dword) : (x.writeM i v mask).fetchFrom = x.fetchFrom := by unfold Strand.writeM; split <;> (try split) <;> rfl
@[simp] theorem Strand.writeM_issueFrom (x : Strand) (i : BitVec 3) (v mask : Dword) : (x.writeM i v mask).issueFrom = x.issueFrom := by unfold Strand.writeM; split <;> (try split) <;> rfl
@[simp] theorem Strand.writeM_pend (x : Strand) (i : BitVec 3) (v mask : Dword) : (x.writeM i v mask).pend = x.pend := by unfold Strand.writeM; split <;> (try split) <;> rfl
@[simp] theorem Strand.writeM_trap (x : Strand) (i : BitVec 3) (v mask : Dword) : (x.writeM i v mask).trap = x.trap := by unfold Strand.writeM; split <;> (try split) <;> rfl
@[simp] theorem Strand.writeM_lates (x : Strand) (i : BitVec 3) (v mask : Dword) : (x.writeM i v mask).lates = x.lates := by unfold Strand.writeM; split <;> (try split) <;> rfl
@[simp] theorem Strand.writeM_replay (x : Strand) (i : BitVec 3) (v mask : Dword) : (x.writeM i v mask).replay = x.replay := by unfold Strand.writeM; split <;> (try split) <;> rfl
@[simp] theorem Strand.writeM_reports (x : Strand) (i : BitVec 3) (v mask : Dword) : (x.writeM i v mask).reports = x.reports := by unfold Strand.writeM; split <;> (try split) <;> rfl
@[simp] theorem Strand.writeM_qdead (x : Strand) (i : BitVec 3) (v mask : Dword) : (x.writeM i v mask).qdead = x.qdead := by unfold Strand.writeM; split <;> (try split) <;> rfl
@[simp] theorem Strand.writeM_active (x : Strand) (i : BitVec 3) (v mask : Dword) : (x.writeM i v mask).active = x.active := by unfold Strand.writeM; split <;> (try split) <;> rfl
@[simp] theorem Strand.writeM_swReq (x : Strand) (i : BitVec 3) (v mask : Dword) : (x.writeM i v mask).swReq = x.swReq := by unfold Strand.writeM; split <;> (try split) <;> rfl
@[simp] theorem Strand.writeM_swCut (x : Strand) (i : BitVec 3) (v mask : Dword) : (x.writeM i v mask).swCut = x.swCut := by unfold Strand.writeM; split <;> (try split) <;> rfl
@[simp] theorem Strand.writeM_swStop (x : Strand) (i : BitVec 3) (v mask : Dword) : (x.writeM i v mask).swStop = x.swStop := by unfold Strand.writeM; split <;> (try split) <;> rfl
@[simp] theorem Strand.writeM_swHalt (x : Strand) (i : BitVec 3) (v mask : Dword) : (x.writeM i v mask).swHalt = x.swHalt := by unfold Strand.writeM; split <;> (try split) <;> rfl
@[simp] theorem Strand.writeM_wasDormant (x : Strand) (i : BitVec 3) (v mask : Dword) : (x.writeM i v mask).wasDormant = x.wasDormant := by unfold Strand.writeM; split <;> (try split) <;> rfl
@[simp] theorem Strand.writeM_savedSeq (x : Strand) (i : BitVec 3) (v mask : Dword) : (x.writeM i v mask).savedSeq = x.savedSeq := by unfold Strand.writeM; split <;> (try split) <;> rfl
@[simp] theorem Strand.writeM_savedStages (x : Strand) (i : BitVec 3) (v mask : Dword) : (x.writeM i v mask).savedStages = x.savedStages := by unfold Strand.writeM; split <;> (try split) <;> rfl
@[simp] theorem Strand.writeM_pptLoops (x : Strand) (i : BitVec 3) (v mask : Dword) : (x.writeM i v mask).pptLoops = x.pptLoops := by unfold Strand.writeM; split <;> (try split) <;> rfl

end Sys2Proof.Machine
end

