-- ==== Sys2Proof/Laws/Tables.lean ====
section
/-! SUPPORT. The laws of sparse tables: what a read gives after a write, and that the writes keep the canonical form, in which equal
contents are equal data. -/

namespace Sys2Proof

variable {α : Type}

/-! ### Read after write -/

@[simp] theorem tfind_tput_same (k : Nat) (v : α) (t : Table α) : tfind k (tput k v t) = some v := by
  induction t with
  | nil => simp [tput, tfind]
  | cons e r ih =>
    obtain ⟨j, w⟩ := e
    simp only [tput]
    split
    · simp [tfind]
    · split
      · simp [tfind]
      · simp_all [tfind]

theorem tfind_tput_other {i k : Nat} (h : i ≠ k) (v : α) (t : Table α) : tfind i (tput k v t) = tfind i t := by
  have hk : ¬k = i := fun e => h e.symm
  induction t with
  | nil => simp [tput, tfind, hk]
  | cons e r ih =>
    obtain ⟨j, w⟩ := e
    simp only [tput]
    split
    · simp [tfind, hk]
    · split
      · rename_i h'
        subst h'
        simp [tfind, hk]
      · simp [tfind, ih]

@[simp] theorem tfind_tdel_same (k : Nat) (t : Table α) : tfind k (tdel k t) = none := by
  induction t with
  | nil => rfl
  | cons e r ih =>
    obtain ⟨j, w⟩ := e
    simp only [tdel]
    split <;> simp_all [tfind]

theorem tfind_tdel_other {i k : Nat} (h : i ≠ k) (t : Table α) : tfind i (tdel k t) = tfind i t := by
  induction t with
  | nil => rfl
  | cons e r ih =>
    obtain ⟨j, w⟩ := e
    simp only [tdel]
    split
    · rename_i h'
      have : ¬k = i := fun e => h e.symm
      simp [tfind, ih, h', this]
    · simp [tfind, ih]

@[simp] theorem tget_tput_same (d : α) (k : Nat) (v : α) (t : Table α) : tget d (tput k v t) k = v := by simp [tget]

theorem tget_tput_other {i k : Nat} (h : i ≠ k) (d v : α) (t : Table α) : tget d (tput k v t) i = tget d t i := by
  simp [tget, tfind_tput_other h]

theorem tget_tput (d : α) (t : Table α) (k i : Nat) (v : α) : tget d (tput k v t) i = if i = k then v else tget d t i := by
  split
  · subst i; simp
  · exact tget_tput_other ‹_› d v t

variable [DecidableEq α]

@[simp] theorem tget_tset_same (d : α) (t : Table α) (k : Nat) (v : α) : tget d (tset d t k v) k = v := by
  simp only [tset]
  split <;> simp_all [tget]

theorem tget_tset_other {i k : Nat} (h : i ≠ k) (d : α) (t : Table α) (v : α) : tget d (tset d t k v) i = tget d t i := by
  simp only [tset]
  split <;> simp [tget, tfind_tdel_other h, tfind_tput_other h]

theorem tget_tset (d : α) (t : Table α) (k i : Nat) (v : α) : tget d (tset d t k v) i = if i = k then v else tget d t i := by
  split
  · subst i; simp
  · exact tget_tset_other ‹_› d t v

/-! ### The canonical form -/

omit [DecidableEq α] in
theorem risingFrom_mono {b b' : Nat} (h : b' ≤ b) (t : Table α) (ht : risingFrom b t = true) : risingFrom b' t = true := by
  cases t with
  | nil => rfl
  | cons e r =>
    simp only [risingFrom, Bool.and_eq_true, decide_eq_true_eq] at ht ⊢
    exact ⟨Nat.le_trans h ht.1, ht.2⟩

omit [DecidableEq α] in
theorem risingFrom_tput (k : Nat) (v : α) (t : Table α) {b : Nat} (hb : b ≤ k) (ht : risingFrom b t = true) :
    risingFrom b (tput k v t) = true := by
  induction t generalizing b with
  | nil => simp [tput, risingFrom, hb]
  | cons e r ih =>
    obtain ⟨j, w⟩ := e
    simp only [risingFrom, Bool.and_eq_true, decide_eq_true_eq] at ht
    simp only [tput]
    split
    · simp only [risingFrom, Bool.and_eq_true, decide_eq_true_eq]
      exact ⟨hb, by omega, ht.2⟩
    · split
      · simp only [risingFrom, Bool.and_eq_true, decide_eq_true_eq]
        exact ⟨hb, by simpa [*] using ht.2⟩
      · simp only [risingFrom, Bool.and_eq_true, decide_eq_true_eq]
        exact ⟨ht.1, ih (by omega) ht.2⟩

omit [DecidableEq α] in
theorem risingFrom_tdel (k : Nat) (t : Table α) {b : Nat} (ht : risingFrom b t = true) : risingFrom b (tdel k t) = true := by
  induction t generalizing b with
  | nil => rfl
  | cons e r ih =>
    obtain ⟨j, w⟩ := e
    simp only [risingFrom, Bool.and_eq_true, decide_eq_true_eq] at ht
    simp only [tdel]
    split
    · exact risingFrom_mono (by omega) _ (ih ht.2)
    · simp only [risingFrom, Bool.and_eq_true, decide_eq_true_eq]
      exact ⟨ht.1, ih ht.2⟩

omit [DecidableEq α] in
theorem risingFrom_filter (p : Nat × α → Bool) (t : Table α) {b : Nat} (ht : risingFrom b t = true) :
    risingFrom b (t.filter p) = true := by
  induction t generalizing b with
  | nil => rfl
  | cons e r ih =>
    simp only [risingFrom, Bool.and_eq_true, decide_eq_true_eq] at ht
    simp only [List.filter]
    split
    · simp only [risingFrom, Bool.and_eq_true, decide_eq_true_eq]
      exact ⟨ht.1, ih ht.2⟩
    · exact risingFrom_mono (by omega) _ (ih ht.2)

omit [DecidableEq α] in
/-- An entry of a written table is the one written or was there. -/
theorem mem_tput {k : Nat} {v : α} {t : Table α} {e : Nat × α} (h : e ∈ tput k v t) : e = (k, v) ∨ e ∈ t := by
  induction t with
  | nil => simpa [tput] using h
  | cons x r ih =>
    obtain ⟨j, w⟩ := x
    simp only [tput] at h
    split at h
    · simpa using h
    · split at h
      · rcases List.mem_cons.mp h with h | h
        · exact .inl h
        · exact .inr (List.mem_cons_of_mem _ h)
      · rcases List.mem_cons.mp h with h | h
        · exact .inr (by simp [h])
        · exact (ih h).imp id (List.mem_cons_of_mem _)

omit [DecidableEq α] in
theorem mem_tdel {k : Nat} {t : Table α} {e : Nat × α} (h : e ∈ tdel k t) : e ∈ t := by
  induction t with
  | nil => exact h
  | cons x r ih =>
    obtain ⟨j, w⟩ := x
    simp only [tdel] at h
    split at h
    · exact List.mem_cons_of_mem _ (ih h)
    · rcases List.mem_cons.mp h with h | h
      · exact h ▸ List.mem_cons_self
      · exact List.mem_cons_of_mem _ (ih h)

omit [DecidableEq α] in
/-- A property of every entry holds after a write of an entry that has it. -/
theorem all_tput {p : Nat × α → Bool} {k : Nat} {v : α} {t : Table α} (ht : t.all p = true) (hv : p (k, v) = true) :
    (tput k v t).all p = true := by
  rw [List.all_eq_true] at ht ⊢
  intro e he
  rcases mem_tput he with rfl | h
  · exact hv
  · exact ht e h

@[simp] theorem tcanon_nil (d : α) : tcanon d ([] : Table α) = true := rfl

theorem tcanon_tset (d : α) (t : Table α) (k : Nat) (v : α) (ht : tcanon d t = true) : tcanon d (tset d t k v) = true := by
  simp only [tcanon, Bool.and_eq_true, List.all_eq_true] at ht ⊢
  simp only [tset]
  split
  · exact ⟨risingFrom_tdel k t ht.1, fun e he => ht.2 e (mem_tdel he)⟩
  · refine ⟨risingFrom_tput k v t (Nat.zero_le k) ht.1, fun e he => ?_⟩
    rcases mem_tput he with rfl | h
    · simpa using ‹¬v = d›
    · exact ht.2 e h

theorem tcanon_filter (d : α) (p : Nat × α → Bool) (t : Table α) (ht : tcanon d t = true) : tcanon d (t.filter p) = true := by
  simp only [tcanon, Bool.and_eq_true, List.all_eq_true] at ht ⊢
  exact ⟨risingFrom_filter p t ht.1, fun e he => ht.2 e (List.mem_filter.mp he).1⟩

omit [DecidableEq α] in
/-- A key below the first bound is not listed. -/
theorem tfind_below {b k : Nat} (t : Table α) (ht : risingFrom b t = true) (h : k < b) : tfind k t = none := by
  induction t generalizing b with
  | nil => rfl
  | cons e r ih =>
    obtain ⟨j, w⟩ := e
    simp only [risingFrom, Bool.and_eq_true, decide_eq_true_eq] at ht
    have : ¬j = k := by omega
    simp [tfind, this, ih ht.2 (by omega)]

omit [DecidableEq α] in
theorem table_ext_of_rising {t u : Table α} {b : Nat} (ht : risingFrom b t = true) (hu : risingFrom b u = true)
    (h : ∀ k, tfind k t = tfind k u) : t = u := by
  induction t generalizing u b with
  | nil =>
    cases u with
    | nil => rfl
    | cons e r => simpa [tfind] using h e.1
  | cons e r ih =>
    obtain ⟨j, v⟩ := e
    cases u with
    | nil => simpa [tfind] using h j
    | cons f q =>
      obtain ⟨i, w⟩ := f
      simp only [risingFrom, Bool.and_eq_true, decide_eq_true_eq] at ht hu
      have hji : j = i := by
        rcases Nat.lt_trichotomy j i with hlt | heq | hgt
        · have := h j
          simp [tfind, show ¬i = j by omega, tfind_below q hu.2 (show j < i + 1 by omega)] at this
        · exact heq
        · have := h i
          simp [tfind, show ¬j = i by omega, tfind_below r ht.2 (show i < j + 1 by omega)] at this
      subst hji
      have hvw : v = w := by simpa [tfind] using h j
      subst hvw
      refine congrArg ((j, v) :: ·) (ih ht.2 hu.2 fun k => ?_)
      by_cases hk : j = k
      · subst hk
        rw [tfind_below r ht.2 (by omega), tfind_below q hu.2 (by omega)]
      · simpa [tfind, hk] using h k

omit [DecidableEq α] in
theorem mem_of_tfind {t : Table α} {k : Nat} {v : α} (h : tfind k t = some v) : (k, v) ∈ t := by
  induction t with
  | nil => simp [tfind] at h
  | cons e r ih =>
    obtain ⟨j, w⟩ := e
    simp only [tfind] at h
    split at h
    · simp_all
    · exact List.mem_cons_of_mem _ (ih h)

/-- Equal contents are equal data: two canonical tables that read the same everywhere are the same table. -/
theorem tcanon_ext {d : α} {t u : Table α} (ht : tcanon d t = true) (hu : tcanon d u = true) (h : ∀ k, tget d t k = tget d u k) : t = u := by
  simp only [tcanon, Bool.and_eq_true, List.all_eq_true] at ht hu
  refine table_ext_of_rising ht.1 hu.1 fun k => ?_
  have hk := h k
  simp only [tget] at hk
  cases h1 : tfind k t with
  | none =>
    cases h2 : tfind k u with
    | none => rfl
    | some w =>
      have := hu.2 _ (mem_of_tfind h2)
      simp_all
  | some v =>
    cases h2 : tfind k u with
    | none =>
      have := ht.2 _ (mem_of_tfind h1)
      simp_all
    | some w => simp_all

end Sys2Proof
end

