-- ==== Sys2Proof/Laws/Memory.lean ====
section
/-! SUPPORT. Device memory: every operation keeps the canonical form of Memory.wf, a read after a write gives the bytes written, and every
other address reads as before. -/

namespace Sys2Proof.Machine

open Sys2Proof

/-! ### Bytes of one sequence -/

theorem tcanon_writeAll (l : List (Nat × Byte)) (t : Table Byte) (h : tcanon 0 t = true) : tcanon 0 (writeAll t l) = true := by
  induction l generalizing t with
  | nil => exact h
  | cons e r ih => exact ih _ (tcanon_tset 0 t e.1 e.2 h)

theorem tget_writeAll_other (l : List (Nat × Byte)) (t : Table Byte) (a : Nat) (h : ∀ e ∈ l, e.1 ≠ a) :
    tget 0 (writeAll t l) a = tget 0 t a := by
  induction l generalizing t with
  | nil => rfl
  | cons e r ih =>
    have hr := ih (tset 0 t e.1 e.2) (fun x hx => h x (List.mem_cons_of_mem _ hx))
    have he : a ≠ e.1 := fun q => h e List.mem_cons_self q.symm
    simpa [writeAll, tget_tset_other he] using hr

theorem mem_placed {a : Nat} {l : List Byte} {e : Nat × Byte} (h : e ∈ placed a l) : a ≤ e.1 ∧ e.1 < a + l.length := by
  induction l generalizing a with
  | nil => simp [placed] at h
  | cons b r ih =>
    simp only [placed, List.mem_cons] at h
    rcases h with rfl | h
    · simp
    · have := ih h
      simp only [List.length_cons]
      omega

/-- A byte of a written range reads as the byte written there. -/
theorem tget_writeAll_placed (a : Nat) (l : List Byte) (t : Table Byte) (i : Nat) (h : i < l.length) :
    tget 0 (writeAll t (placed a l)) (a + i) = l.getD i 0 := by
  induction l generalizing a t i with
  | nil => simp at h
  | cons b r ih =>
    cases i with
    | zero =>
      have hne : ∀ e ∈ placed (a + 1) r, e.1 ≠ a := fun e he => by have := mem_placed he; omega
      simpa [writeAll, placed] using tget_writeAll_other (placed (a + 1) r) (tset 0 t a b) a hne
    | succ i =>
      have := ih (a + 1) (tset 0 t a b) i (by simpa using h)
      simpa [writeAll, placed, Nat.add_assoc, Nat.add_comm 1 i] using this

/-- A byte outside a written range reads as before. -/
theorem tget_writeAll_outside (a : Nat) (l : List Byte) (t : Table Byte) (x : Nat) (h : x < a ∨ a + l.length ≤ x) :
    tget 0 (writeAll t (placed a l)) x = tget 0 t x :=
  tget_writeAll_other _ _ _ fun e he => by have := mem_placed he; omega

/-! ### Device memory -/

theorem Memory.wf_iff (m : DevMem) :
    Memory.wf m = true ↔ (∀ e ∈ m.views, tcanon 0 e.2 = true) ∧ tcanon 0 m.home = true ∧ tcanon false m.poison = true := by
  simp [Memory.wf, List.all_eq_true, and_assoc]

theorem Memory.wf_view {m : DevMem} (h : Memory.wf m = true) (d : Nat) : tcanon 0 (m.view d) = true := by
  have hv := ((Memory.wf_iff m).mp h).1
  simp only [DevMem.view, tget]
  cases hf : tfind d m.views with
  | none => rfl
  | some t => simpa using hv (d, t) (mem_of_tfind hf)

/-- Writing a die's sequence keeps the form. -/
theorem views_tput {m : DevMem} (h : Memory.wf m = true) (d : Nat) (l : List (Nat × Byte)) :
    ∀ e ∈ tput d (writeAll (m.view d) l) m.views, tcanon 0 e.2 = true := fun e he => by
  rcases mem_tput he with rfl | h'
  · exact tcanon_writeAll l _ (Memory.wf_view h d)
  · exact ((Memory.wf_iff m).mp h).1 e h'

theorem DevMem.cure_wf {m : DevMem} (h : Memory.wf m = true) (l : List (Nat × Byte)) : Memory.wf (m.cure l) = true := by
  have := (Memory.wf_iff m).mp h
  unfold DevMem.cure
  split
  · exact h
  · exact (Memory.wf_iff _).mpr ⟨this.1, this.2.1, tcanon_filter _ _ _ this.2.2⟩

theorem DevMem.pass_wf {m : DevMem} (h : Memory.wf m = true) (d : Nat) (hit : Nat → Bool) : Memory.wf (m.pass d hit) = true := by
  unfold DevMem.pass
  split
  · exact h
  · exact h

theorem DevMem.onTurns_wf {m : DevMem} (h : Memory.wf m = true) (f : AtomTurn → AtomTurn) : Memory.wf (m.onTurns f) = true := by
  unfold DevMem.onTurns
  split
  · exact h
  · exact h

theorem DevMem.passAll_wf {m : DevMem} (h : Memory.wf m = true) (hit : Nat → Bool) : Memory.wf (m.passAll hit) = true := DevMem.onTurns_wf h _

theorem tcanon_cleared {t : Table Byte} (w : GWrite) (h : tcanon 0 t = true) : tcanon 0 (w.cleared t) = true := by
  unfold GWrite.cleared
  split
  · exact tcanon_filter _ _ _ h
  · exact h

theorem DevMem.enter_wf {m : DevMem} (h : Memory.wf m = true) (d : Nat) (w : GWrite) : Memory.wf (m.enter d w) = true := by
  have hm := (Memory.wf_iff m).mp h
  unfold DevMem.enter
  apply DevMem.pass_wf
  refine (Memory.wf_iff _).mpr ⟨fun e he => ?_, hm.2⟩
  rcases mem_tput he with rfl | h'
  · exact tcanon_writeAll w.bytes _ (tcanon_cleared w (Memory.wf_view h d))
  · exact hm.1 e h'

theorem DevMem.enterMany_wf {m : DevMem} (h : Memory.wf m = true) (d n : Nat) : Memory.wf (m.enterMany d n) = true := by
  induction n generalizing m with
  | zero => exact h
  | succ n ih =>
    refine ih ?_
    unfold DevMem.enterOne
    split
    · exact DevMem.enter_wf h d _
    · exact h

theorem State.enterWrite_wf {s : State} (h : Memory.wf s.mem = true) (die : Nat) (l : List (Nat × Byte)) :
    Memory.wf (s.enterWrite die l).2.mem = true := by
  have hm := (Memory.wf_iff s.mem).mp h
  simp only [State.enterWrite]
  apply DevMem.onTurns_wf
  apply DevMem.pass_wf
  apply DevMem.cure_wf
  exact (Memory.wf_iff _).mpr ⟨views_tput h die l, tcanon_writeAll l _ hm.2.1, hm.2.2⟩

theorem State.catchUp_wf {s : State} (h : Memory.wf s.mem = true) (d : Nat) : Memory.wf (s.catchUp d).mem = true :=
  DevMem.enterMany_wf h d _

theorem State.settle_wf {s : State} (h : Memory.wf s.mem = true) : Memory.wf s.settle.mem = true := by
  simp only [State.settle, List.foldl]
  exact DevMem.enterMany_wf (DevMem.enterMany_wf (DevMem.enterMany_wf (DevMem.enterMany_wf h _ _) _ _) _ _) _ _

theorem State.zeroAt_wf {s : State} (h : Memory.wf s.mem = true) (die lo n : Nat) : Memory.wf (s.zeroAt die lo n).mem = true := by
  have hm := (Memory.wf_iff s.mem).mp h
  simp only [State.zeroAt]
  apply DevMem.onTurns_wf
  apply DevMem.pass_wf
  refine (Memory.wf_iff _).mpr ⟨fun e he => ?_, tcanon_filter _ _ _ hm.2.1, tcanon_filter _ _ _ hm.2.2⟩
  rcases mem_tput he with rfl | h'
  · exact tcanon_filter _ _ _ (Memory.wf_view h die)
  · exact hm.1 e h'

theorem State.enterAtomic_wf {s : State} (h : Memory.wf s.mem = true) (die : Nat) (l : List (Nat × Byte)) :
    Memory.wf (s.enterAtomic die l).mem = true := by
  have h1 := (Memory.wf_iff _).mp (State.enterWrite_wf h die l)
  exact (Memory.wf_iff _).mpr ⟨h1.1, ((Memory.wf_iff _).mp h).2.1, h1.2.2⟩

theorem State.zeroMem_wf {s : State} (h : Memory.wf s.mem = true) (lo n : Nat) : Memory.wf (s.zeroMem lo n).mem = true := by
  have hm := (Memory.wf_iff _).mp (State.settle_wf h)
  refine DevMem.onTurns_wf (DevMem.passAll_wf ((Memory.wf_iff _).mpr ⟨fun e he => ?_, tcanon_filter _ _ _ hm.2.1, tcanon_filter _ _ _ hm.2.2⟩) _) _
  simp only [List.mem_map] at he
  obtain ⟨x, hx, rfl⟩ := he
  exact tcanon_filter _ _ _ (hm.1 x hx)

theorem State.settleRange_wf {s : State} (h : Memory.wf s.mem = true) (lo n : Nat) : Memory.wf (s.settleRange lo n).mem = true := by
  unfold State.settleRange
  split
  · exact State.settle_wf h
  · exact h

theorem State.allocFrame_wf {s t : State} {vf die f : Nat} (h : Memory.wf s.mem = true) (ha : s.allocFrame vf die = some (f, t)) :
    Memory.wf t.mem = true := by
  simp only [State.allocFrame] at ha
  split at ha
  · cases ha
  · split at ha
    · cases ha
    · cases ha
      exact State.zeroAt_wf (s := (s.settleRange _ _).modVf vf _) (by simpa using State.settleRange_wf h _ _) _ _ _

theorem State.installZero_wf {s t : State} {vf die a : Nat} {w : Dword} (h : Memory.wf s.mem = true) (hi : s.installZero vf die a w = .ok t) :
    Memory.wf t.mem = true := by
  simp only [State.installZero] at hi
  split at hi
  · cases hi
    exact State.catchUp_wf h die
  · split at hi
    · cases hi
    · cases hi
      exact State.enterWrite_wf (State.allocFrame_wf h ‹_›) _ _

theorem State.installPages_wf {s t : State} {vf die va : Nat} (pg : List (Nat × Xlat)) (h : Memory.wf s.mem = true)
    (hi : s.installPages vf die va pg = .ok t) : Memory.wf t.mem = true := by
  induction pg generalizing s with
  | nil => cases hi; exact h
  | cons e r ih =>
    obtain ⟨p, x⟩ := e
    cases x with
    | frame pa => exact ih h hi
    | zero leaf w =>
      simp only [State.installPages] at hi
      cases hz : s.installZero vf die leaf w with
      | ok u => rw [hz] at hi; exact ih (State.installZero_wf h hz) hi
      | error e => rw [hz] at hi; cases hi

theorem State.writeVa_wf {s t : State} {agent : Option Nat} {vf die va id : Nat} {l : List Byte} (h : Memory.wf s.mem = true)
    (hw : s.writeVa agent vf die va l = .ok (id, t)) : Memory.wf t.mem = true := by
  simp only [State.writeVa, bind, Except.bind] at hw
  split at hw
  · cases hw
  · split at hw
    · cases hw
    · split at hw
      · cases hw
      · have h2 := State.enterWrite_wf (State.installPages_wf _ h ‹State.installPages s _ _ _ _ = _›) die
          (writable ((placed va l).filterMap (fun e => (paOf ‹_› e.1).map (fun pa => (pa, e.2)))))
        cases hw
        exact h2

theorem reset_memory_wf : Memory.wf State.reset.mem = true := by decide

end Sys2Proof.Machine
end

