-- ==== Sys2Proof/Laws/Issue.lean ====
section
/-! SUPPORT. The laws of issuing a word: what the accessors read after a change, and one lemma for each shared operation that says what it
gives when its conditions hold. -/

namespace Sys2Proof.Machine

open Sys2Proof

/-! ### Cells and strands after a change -/

@[simp] theorem State.cell_modCell_same (s : State) (c : Nat) (f : Cell → Cell) : (s.modCell c f).cell c = f (s.cell c) := by
  simp [State.modCell, State.cell]

theorem State.cell_modCell_other (s : State) {c d : Nat} (h : d ≠ c) (f : Cell → Cell) : (s.modCell c f).cell d = s.cell d := by
  simp [State.modCell, State.cell, tget_tput_other h]

@[simp] theorem Cell.strand_modStrand_same (x : Cell) (k : Nat) (f : Strand → Strand) : (x.modStrand k f).strand k = f (x.strand k) := by
  simp [Cell.modStrand, Cell.strand]

theorem Cell.strand_modStrand_other (x : Cell) {k j : Nat} (h : j ≠ k) (f : Strand → Strand) : (x.modStrand k f).strand j = x.strand j := by
  simp [Cell.modStrand, Cell.strand, tget_tput_other h]

@[simp] theorem State.cell_modStrand_same (s : State) (c k : Nat) (f : Strand → Strand) :
    (s.modStrand c k f).cell c = (s.cell c).modStrand k f := by simp [State.modStrand]

theorem State.cell_modStrand_other (s : State) {c d : Nat} (h : d ≠ c) (k : Nat) (f : Strand → Strand) :
    (s.modStrand c k f).cell d = s.cell d := by simp [State.modStrand, State.cell_modCell_other _ h]

@[simp] theorem State.strand_modStrand_same (s : State) (c k : Nat) (f : Strand → Strand) : (s.modStrand c k f).strand c k = f (s.strand c k) := by
  simp [State.strand]

@[simp] theorem State.me_modMe (s : State) (f : Strand → Strand) : (s.modMe f).me = f s.me := by simp [State.me, State.modMe]

@[simp] theorem State.here_modHere (s : State) (f : Cell → Cell) : (s.modHere f).here = f s.here := by simp [State.here, State.modHere]

@[simp] theorem State.here_modMe (s : State) (f : Strand → Strand) : (s.modMe f).here = s.here.modStrand s.cur.sc f := by
  simp [State.here, State.modMe]

theorem State.me_here (s : State) : s.me = s.here.strand s.cur.sc := rfl

@[simp] theorem State.now_modMe (s : State) (f : Strand → Strand) : (s.modMe f).now = s.now := by simp [State.now]

@[simp] theorem State.vf_modVf_same (s : State) (n : Nat) (f : Vf → Vf) : (s.modVf n f).vf n = f (s.vf n) := by simp [State.modVf, State.vf]

theorem State.vf_modVf_other (s : State) {n m : Nat} (h : m ≠ n) (f : Vf → Vf) : (s.modVf n f).vf m = s.vf m := by
  simp [State.modVf, State.vf, tget_tput_other h]

/-- A change of one cell leaves what every other cell and strand holds. -/
theorem State.strand_modCell_other (s : State) {c d : Nat} (h : d ≠ c) (f : Cell → Cell) (k : Nat) :
    (s.modCell c f).strand d k = s.strand d k := by simp [State.strand, State.cell_modCell_other _ h]

/-! ### Hard-wired registers and queues (R98, R116, R142, R144, R162) -/

@[simp] theorem Strand.readS_zero (st : Strand) : st.readS 0#6 = {} := rfl
@[simp] theorem Strand.writeS_zero (st : Strand) (v : Sval) : st.writeS 0#6 v = st := rfl
@[simp] theorem Strand.readP_zero (st : Strand) : st.readP 0#3 = true := rfl
@[simp] theorem Strand.writeP_zero (st : Strand) (v : Bool) : st.writeP 0#3 v = st := rfl
@[simp] theorem Strand.readM_zero (st : Strand) : st.readM 0#3 = BitVec.allOnes 64 := rfl
@[simp] theorem Strand.writeM_zero (st : Strand) (v m : Dword) : st.writeM 0#3 v m = st := rfl

theorem Strand.readS_writeS_same (st : Strand) {r : BitVec 6} (h0 : r ≠ 0) (hq : isQ r = false) (v : Sval) : (st.writeS r v).readS r = v := by
  simp only [Strand.writeS, Strand.readS, if_neg h0, hq, Bool.false_eq_true, if_false, tget_tset_same]

theorem Strand.readS_writeS_other (st : Strand) {r q : BitVec 6} (h : q ≠ r) (v : Sval) (hr : isQ r = false) : (st.writeS r v).readS q = st.readS q := by
  have : q.toNat ≠ r.toNat := fun e => h (BitVec.eq_of_toNat_eq e)
  by_cases h0 : r = 0
  · subst h0; rfl
  · simp only [Strand.writeS, if_neg h0, hr, Strand.readS, Bool.false_eq_true, if_false]
    split
    · rfl
    · split
      · rfl
      · simp [tget_tset_other this]

/-- A push joins the tail of its queue. -/
theorem Strand.queue_writeS (st : Strand) {r : BitVec 6} (hq : isQ r = true) (v : Sval) :
    (st.writeS r v).queue (qOf r) = st.queue (qOf r) ++ [v] := by
  have h0 : r ≠ 0 := by rintro rfl; simp [isQ] at hq
  simp only [Strand.writeS, if_neg h0, hq, if_true, Strand.queue, tget_tset_same]

/-- A pop takes the oldest entry. -/
@[simp] theorem Strand.queue_popQ (st : Strand) (i : Nat) : (st.popQ i).queue i = (st.queue i).tail := by simp [Strand.popQ, Strand.queue]

/-! ### Pops change the queues alone -/

theorem foldl_popQ (l : List (BitVec 6)) (st : Strand) : l.foldl (fun x r => x.popQ (qOf r)) st = { st with q := (l.foldl (fun x r => x.popQ (qOf r)) st).q } := by
  induction l generalizing st with
  | nil => rfl
  | cons a r ih => exact (ih (st.popQ (qOf a))).trans (by simp [Strand.popQ])

theorem popSources_eq (st : Strand) (rs : List (BitVec 6)) : popSources st rs = { st with q := (popSources st rs).q } :=
  foldl_popQ _ st

theorem popSources_none (st : Strand) (rs : List (BitVec 6)) (h : ∀ r ∈ rs, isQ r = false) : popSources st rs = st := by
  have : rs.filter isQ = [] := by simpa [List.filter_eq_nil_iff] using h
  simp [popSources, this]

/-! ### What an issue comes to -/

@[simp] theorem Issue.outcome_done (s t : State) (occ : Nat) : (Issue.done occ t).outcome s = .next (t.retire occ) := rfl
@[simp] theorem Issue.outcome_fault (s : State) (c : Code) (a : Dword) : (Issue.fault c a).outcome s = .next (s.raise c a) := rfl
@[simp] theorem Issue.outcome_hold (s : State) (q : Bool) : (Issue.hold q).outcome s = .next (s.setHeld q) := rfl
@[simp] theorem Issue.outcome_gone (s t : State) : (Issue.gone t).outcome s = .next t := rfl

/-- Every issue has a next state. -/
theorem Issue.outcome_next (s : State) (i : Issue) : ∃ t, i.outcome s = .next t := by cases i <;> exact ⟨_, rfl⟩

theorem issueWord_granted {s : State} {g : Guard} (h : s.granted g) (ok : Bool) (hp : ok = true ∨ s.unprefixed) (body : State → Issue) :
    issueWord ok g s body = (body s).outcome s := by
  have : (s.cur.ent.pfx.isSome && !ok) = false := by
    rcases hp with rfl | hp
    · simp
    · simp [show s.cur.ent.pfx = none from hp]
  simp [issueWord, this, h.1, h.2]

/-- A word whose guard is false leaves its queue and does nothing else (R93). -/
theorem issueWord_skipped {s : State} {g : Guard} (h0 : s.cur.replay = none) (hg : s.guardNow g = false) (ok : Bool)
    (hp : ok = true ∨ s.unprefixed) (body : State → Issue) : issueWord ok g s body = .next (s.retire 1) := by
  have : (s.cur.ent.pfx.isSome && !ok) = false := by
    rcases hp with rfl | hp
    · simp
    · simp [show s.cur.ent.pfx = none from hp]
  simp [issueWord, this, h0, hg]

theorem issueWord_next (ok : Bool) (g : Guard) (s : State) (body : State → Issue) : ∃ t, issueWord ok g s body = .next t := by
  unfold issueWord
  split
  · exact ⟨_, rfl⟩
  · split
    · exact ⟨_, rfl⟩
    · exact Issue.outcome_next s _

theorem issueLanes_plain {s : State} (h : s.plain) (g : Guard) (body : Dword → State → Issue) :
    issueLanes g s body = (body (guardM s.me s.cur.ent g) s).outcome s := by simp [issueLanes, h.2]

theorem issueBlock_granted {s : State} {g : Guard} (h : s.granted g) (ok : Bool) (hp : ok = true ∨ s.unprefixed) (body : State → Issue) :
    issueBlock ok g s body = (body s).outcome s := by
  have : (s.cur.ent.pfx.isSome && !ok) = false := by
    rcases hp with rfl | hp
    · simp
    · simp [show s.cur.ent.pfx = none from hp]
  simp [issueBlock, this, h.1, h.2]

theorem withScalars_ready {s : State} {rs : List (BitVec 6)} (h0 : s.cur.replay = none) (h : srcReady s.me rs = true)
    (k : List Sval → State → Issue) : withScalars rs s k = k (rs.map s.me.readS) (s.popped rs) := by
  simp [withScalars, h0, h, State.popped]

theorem withVectors_ready {s : State} {rs : List (BitVec 5)} (h0 : s.cur.replay = none) (h : vsrcReady s.me rs = true)
    (k : List Vreg → State → Issue) : withVectors rs s k = k (rs.map s.me.readV) (s.vpopped rs) := by
  simp [withVectors, h0, h, State.vpopped]

@[simp] theorem noPoison_sound {l : List Sval} (h : firstPoison l = none) (k : Issue) : noPoison l k = k := by simp [noPoison, h]
@[simp] theorem noVPoison_sound {l : List Vreg} (h : firstVTag l = none) (k : Issue) : noVPoison l k = k := by simp [noVPoison, h]

@[simp] theorem needs_true (k : Issue) : needs true k = k := rfl
theorem roomFor_room {d : BitVec 6} {s : State} (h : s.room d = true) (k : Issue) : roomFor d s k = k := by simp [roomFor, h]

/-- A destination that is no queue register always has room. -/
theorem State.room_of_not_queue (s : State) {d : BitVec 6} (h : isQ d = false) : s.room d = true := by simp [State.room, h]

/-- Sources that hold no poison leave a result unpoisoned. -/
theorem poisoned_sound {l : List Sval} (h : firstPoison l = none) (v : Dword) : poisoned l v = { val := v } := by
  have : l.find? (fun x => x.tag.isSome) = none := by
    induction l with
    | nil => rfl
    | cons x r ih =>
      simp only [firstPoison] at h
      split at h
      · cases h
      · simp [*]
  simp [poisoned, this]

/-- An S word whose sources are ready and whose destination has room. -/
theorem scalarWord_gives {s : State} {g : Guard} {d : BitVec 6} {rs : List (BitVec 6)} (ok : Bool) (lat occ : Nat) (f : List Dword → Dword)
    (hg : s.granted g) (hp : ok = true ∨ s.unprefixed) (hs : srcReady s.me rs = true) (hr : (s.popped rs).room d = true) :
    scalarWord ok g d rs lat occ s f =
      .next (s.gave rs lat occ (.s d (poisoned (rs.map s.me.readS) (f ((rs.map s.me.readS).map (·.val)))))) := by
  rw [scalarWord, issueWord_granted hg ok hp, withScalars_ready hg.1 hs, roomFor_room hr]
  rfl

/-- A lane word whose ports hold rows. -/
theorem vecWord_gives {s : State} (g : Guard) (d : BitVec 5) (vs : List (BitVec 5)) (lat occ : Nat) (f : List Vec → List (BitVec 32 × Flags))
    (hp : s.plain) (hs : vsrcReady s.me vs = true) :
    vecWord g d vs lat occ s f = .next (s.vgave vs d (guardM s.me s.cur.ent g) lat occ (f ((vs.map s.me.readV).map (·.val)))) := by
  rw [vecWord, issueLanes_plain hp, withVectors_ready hp.1 hs]
  rfl

/-! ### What has issued changes the issuing strand and cell alone -/

/-- After its issue a word is out of its queue, and its engine is busy. -/
theorem State.retire_eq (s : State) (occ : Nat) (h : s.cur.replay = none) :
    s.retire occ = (s.modMe (fun st => { st.setEngq s.cur.eng (st.engq s.cur.eng).tail with active := true })).modHere
      (fun c => { c with lastIssue := tput s.cur.eng s.cur.sc c.lastIssue, busy := tput s.cur.eng (c.time + occ) c.busy }) := by
  unfold State.retire
  simp only [h]
  rfl

@[simp] theorem State.retire_cur (s : State) (occ : Nat) : (s.retire occ).cur = s.cur := by
  unfold State.retire
  cases h : s.cur.replay <;> simp

@[simp] theorem State.retire_mem (s : State) (occ : Nat) : (s.retire occ).mem = s.mem := by
  unfold State.retire
  cases h : s.cur.replay <;> simp

/-- A change of the issuing cell that leaves its strands leaves the issuing strand. -/
theorem State.me_modHere (s : State) (f : Cell → Cell) (h : (f s.here).strands = s.here.strands) : (s.modHere f).me = s.me := by
  simp [State.me_here, Cell.strand, h]

theorem State.retire_me {s : State} (occ : Nat) (h : s.cur.replay = none) :
    (s.retire occ).me = { s.me.setEngq s.cur.eng (s.me.engq s.cur.eng).tail with active := true } := by
  rw [State.retire_eq s occ h, State.me_modHere _ _ rfl, State.me_modMe]

theorem State.retire_here {s : State} (occ : Nat) (h : s.cur.replay = none) :
    (s.retire occ).here =
      { s.here.modStrand s.cur.sc (fun st => { st.setEngq s.cur.eng (st.engq s.cur.eng).tail with active := true }) with
        lastIssue := tput s.cur.eng s.cur.sc s.here.lastIssue, busy := tput s.cur.eng (s.now + occ) s.here.busy } := by
  rw [State.retire_eq s occ h, State.here_modHere, State.here_modMe]
  rfl

/-- The word of a state that kept the issuing strand's queue, the issue bookkeeping and the time has left its queue once it retires. -/
theorem State.issued_retire {s t : State} (occ : Nat) (hc : t.cur = s.cur) (h : s.cur.replay = none)
    (hq : t.me.engq s.cur.eng = s.me.engq s.cur.eng) (hn : t.now = s.now) : s.issued (t.retire occ) occ := by
  have h' : t.cur.replay = none := by rw [hc]; exact h
  refine ⟨by simpa using hc, ?_, ?_⟩
  · rw [State.retire_me occ h', ← hq, ← hc]
    simp [Strand.engq, Strand.setEngq]
  · rw [State.retire_here occ h', ← hn, ← hc]
    simp

/-- A result in flight joins the issuing strand's. -/
theorem State.result_me (s : State) (lat : Nat) (w : PendW) :
    (s.result lat w).me = { s.me with pend := s.me.pend ++ [{ due := s.now + lat, eng := s.cur.eng, ord := s.nextId, seq := s.cur.ent.seq, w := w }] } := by
  simp only [State.result, State.me_modMe]
  rfl

@[simp] theorem State.result_now (s : State) (lat : Nat) (w : PendW) : (s.result lat w).now = s.now := by
  simp only [State.result, State.now_modMe]
  rfl

end Sys2Proof.Machine
end

