-- ==== Sys2Proof/Laws/After.lean ====
section
/-! SUPPORT. One lemma per field for what the issuing strand, its cell and the state hold after a word retires and after a result is put in
flight. -/

namespace Sys2Proof.Machine

open Sys2Proof

/-! What a word leaves when it retires: the state apart from its cells -/

@[simp] theorem State.retire_agenda (s : State) (occ : Nat) : (s.retire occ).agenda = s.agenda := by unfold State.retire; cases s.cur.replay <;> rfl
@[simp] theorem State.retire_phase (s : State) (occ : Nat) : (s.retire occ).phase = s.phase := by unfold State.retire; cases s.cur.replay <;> rfl
@[simp] theorem State.retire_env (s : State) (occ : Nat) : (s.retire occ).env = s.env := by unfold State.retire; cases s.cur.replay <;> rfl
@[simp] theorem State.retire_freeCtr (s : State) (occ : Nat) : (s.retire occ).freeCtr = s.freeCtr := by unfold State.retire; cases s.cur.replay <;> rfl
@[simp] theorem State.retire_nextId (s : State) (occ : Nat) : (s.retire occ).nextId = s.nextId := by unfold State.retire; cases s.cur.replay <;> rfl
@[simp] theorem State.retire_wall3 (s : State) (occ : Nat) : (s.retire occ).wall3 = s.wall3 := by unfold State.retire; cases s.cur.replay <;> rfl
@[simp] theorem State.retire_bhs (s : State) (occ : Nat) : (s.retire occ).bhs = s.bhs := by unfold State.retire; cases s.cur.replay <;> rfl
@[simp] theorem State.retire_sems (s : State) (occ : Nat) : (s.retire occ).sems = s.sems := by unfold State.retire; cases s.cur.replay <;> rfl
@[simp] theorem State.retire_sigs (s : State) (occ : Nat) : (s.retire occ).sigs = s.sigs := by unfold State.retire; cases s.cur.replay <;> rfl
@[simp] theorem State.retire_msgs (s : State) (occ : Nat) : (s.retire occ).msgs = s.msgs := by unfold State.retire; cases s.cur.replay <;> rfl
@[simp] theorem State.retire_waits (s : State) (occ : Nat) : (s.retire occ).waits = s.waits := by unfold State.retire; cases s.cur.replay <;> rfl
@[simp] theorem State.retire_vfs (s : State) (occ : Nat) : (s.retire occ).vfs = s.vfs := by unfold State.retire; cases s.cur.replay <;> rfl
@[simp] theorem State.retire_launches (s : State) (occ : Nat) : (s.retire occ).launches = s.launches := by unfold State.retire; cases s.cur.replay <;> rfl
@[simp] theorem State.retire_groups (s : State) (occ : Nat) : (s.retire occ).groups = s.groups := by unfold State.retire; cases s.cur.replay <;> rfl
@[simp] theorem State.retire_posts (s : State) (occ : Nat) : (s.retire occ).posts = s.posts := by unfold State.retire; cases s.cur.replay <;> rfl
@[simp] theorem State.retire_tdecs (s : State) (occ : Nat) : (s.retire occ).tdecs = s.tdecs := by unfold State.retire; cases s.cur.replay <;> rfl
@[simp] theorem State.retire_cancels (s : State) (occ : Nat) : (s.retire occ).cancels = s.cancels := by unfold State.retire; cases s.cur.replay <;> rfl
@[simp] theorem State.retire_itemCancels (s : State) (occ : Nat) : (s.retire occ).itemCancels = s.itemCancels := by unfold State.retire; cases s.cur.replay <;> rfl
@[simp] theorem State.retire_rings (s : State) (occ : Nat) : (s.retire occ).rings = s.rings := by unfold State.retire; cases s.cur.replay <;> rfl
@[simp] theorem State.retire_svmq (s : State) (occ : Nat) : (s.retire occ).svmq = s.svmq := by unfold State.retire; cases s.cur.replay <;> rfl
@[simp] theorem State.retire_svmLast (s : State) (occ : Nat) : (s.retire occ).svmLast = s.svmLast := by unfold State.retire; cases s.cur.replay <;> rfl
@[simp] theorem State.retire_torus (s : State) (occ : Nat) : (s.retire occ).torus = s.torus := by unfold State.retire; cases s.cur.replay <;> rfl
@[simp] theorem State.retire_aborts (s : State) (occ : Nat) : (s.retire occ).aborts = s.aborts := by unfold State.retire; cases s.cur.replay <;> rfl
@[simp] theorem State.retire_gones (s : State) (occ : Nat) : (s.retire occ).gones = s.gones := by unfold State.retire; cases s.cur.replay <;> rfl
@[simp] theorem State.retire_qps (s : State) (occ : Nat) : (s.retire occ).qps = s.qps := by unfold State.retire; cases s.cur.replay <;> rfl
@[simp] theorem State.retire_mgmt (s : State) (occ : Nat) : (s.retire occ).mgmt = s.mgmt := by unfold State.retire; cases s.cur.replay <;> rfl
@[simp] theorem State.retire_boot (s : State) (occ : Nat) : (s.retire occ).boot = s.boot := by unfold State.retire; cases s.cur.replay <;> rfl
@[simp] theorem State.retire_pod (s : State) (occ : Nat) : (s.retire occ).pod = s.pod := by unfold State.retire; cases s.cur.replay <;> rfl
@[simp] theorem State.retire_linksDown (s : State) (occ : Nat) : (s.retire occ).linksDown = s.linksDown := by unfold State.retire; cases s.cur.replay <;> rfl
@[simp] theorem State.retire_acks (s : State) (occ : Nat) : (s.retire occ).acks = s.acks := by unfold State.retire; cases s.cur.replay <;> rfl
@[simp] theorem State.retire_paused (s : State) (occ : Nat) : (s.retire occ).paused = s.paused := by unfold State.retire; cases s.cur.replay <;> rfl
@[simp] theorem State.retire_out (s : State) (occ : Nat) : (s.retire occ).out = s.out := by unfold State.retire; cases s.cur.replay <;> rfl
@[simp] theorem State.retire_nextPoll (s : State) (occ : Nat) : (s.retire occ).nextPoll = s.nextPoll := by unfold State.retire; cases s.cur.replay <;> rfl

/-! The issuing cell, apart from its strands and the issue bookkeeping -/

theorem State.retire_here_frame (s : State) (occ : Nat) :
    { (s.retire occ).here with strands := s.here.strands, lastIssue := s.here.lastIssue, busy := s.here.busy } = s.here := by
  unfold State.retire
  cases s.cur.replay <;> simp [Cell.modStrand]

@[simp] theorem State.retire_here_vf (s : State) (occ : Nat) : (s.retire occ).here.vf = s.here.vf := by have h := congrArg Cell.vf (State.retire_here_frame s occ); exact h
@[simp] theorem State.retire_here_time (s : State) (occ : Nat) : (s.retire occ).here.time = s.here.time := by have h := congrArg Cell.time (State.retire_here_frame s occ); exact h
@[simp] theorem State.retire_here_frozenOn (s : State) (occ : Nat) : (s.retire occ).here.frozenOn = s.here.frozenOn := by have h := congrArg Cell.frozenOn (State.retire_here_frame s occ); exact h
@[simp] theorem State.retire_here_frozenAt (s : State) (occ : Nat) : (s.retire occ).here.frozenAt = s.here.frozenAt := by have h := congrArg Cell.frozenAt (State.retire_here_frame s occ); exact h
@[simp] theorem State.retire_here_ops (s : State) (occ : Nat) : (s.retire occ).here.ops = s.here.ops := by have h := congrArg Cell.ops (State.retire_here_frame s occ); exact h
@[simp] theorem State.retire_here_lastFetch (s : State) (occ : Nat) : (s.retire occ).here.lastFetch = s.here.lastFetch := by have h := congrArg Cell.lastFetch (State.retire_here_frame s occ); exact h
@[simp] theorem State.retire_here_scratch (s : State) (occ : Nat) : (s.retire occ).here.scratch = s.here.scratch := by have h := congrArg Cell.scratch (State.retire_here_frame s occ); exact h
@[simp] theorem State.retire_here_spoison (s : State) (occ : Nat) : (s.retire occ).here.spoison = s.here.spoison := by have h := congrArg Cell.spoison (State.retire_here_frame s occ); exact h
@[simp] theorem State.retire_here_fill (s : State) (occ : Nat) : (s.retire occ).here.fill = s.here.fill := by have h := congrArg Cell.fill (State.retire_here_frame s occ); exact h
@[simp] theorem State.retire_here_tiles (s : State) (occ : Nat) : (s.retire occ).here.tiles = s.here.tiles := by have h := congrArg Cell.tiles (State.retire_here_frame s occ); exact h
@[simp] theorem State.retire_here_msgs (s : State) (occ : Nat) : (s.retire occ).here.msgs = s.here.msgs := by have h := congrArg Cell.msgs (State.retire_here_frame s occ); exact h
@[simp] theorem State.retire_here_table (s : State) (occ : Nat) : (s.retire occ).here.table = s.here.table := by have h := congrArg Cell.table (State.retire_here_frame s occ); exact h
@[simp] theorem State.retire_here_accs (s : State) (occ : Nat) : (s.retire occ).here.accs = s.here.accs := by have h := congrArg Cell.accs (State.retire_here_frame s occ); exact h
@[simp] theorem State.retire_here_dks (s : State) (occ : Nat) : (s.retire occ).here.dks = s.here.dks := by have h := congrArg Cell.dks (State.retire_here_frame s occ); exact h
@[simp] theorem State.retire_here_strandSide (s : State) (occ : Nat) : (s.retire occ).here.strandSide = s.here.strandSide := by have h := congrArg Cell.strandSide (State.retire_here_frame s occ); exact h
@[simp] theorem State.retire_here_claim (s : State) (occ : Nat) : (s.retire occ).here.claim = s.here.claim := by have h := congrArg Cell.claim (State.retire_here_frame s occ); exact h
@[simp] theorem State.retire_here_shapes (s : State) (occ : Nat) : (s.retire occ).here.shapes = s.here.shapes := by have h := congrArg Cell.shapes (State.retire_here_frame s occ); exact h
@[simp] theorem State.retire_here_array (s : State) (occ : Nat) : (s.retire occ).here.array = s.here.array := by have h := congrArg Cell.array (State.retire_here_frame s occ); exact h
@[simp] theorem State.retire_here_path (s : State) (occ : Nat) : (s.retire occ).here.path = s.here.path := by have h := congrArg Cell.path (State.retire_here_frame s occ); exact h
@[simp] theorem State.retire_here_emptying (s : State) (occ : Nat) : (s.retire occ).here.emptying = s.here.emptying := by have h := congrArg Cell.emptying (State.retire_here_frame s occ); exact h
@[simp] theorem State.retire_here_chain (s : State) (occ : Nat) : (s.retire occ).here.chain = s.here.chain := by have h := congrArg Cell.chain (State.retire_here_frame s occ); exact h
@[simp] theorem State.retire_here_sideTask (s : State) (occ : Nat) : (s.retire occ).here.sideTask = s.here.sideTask := by have h := congrArg Cell.sideTask (State.retire_here_frame s occ); exact h
@[simp] theorem State.retire_here_freeSince (s : State) (occ : Nat) : (s.retire occ).here.freeSince = s.here.freeSince := by have h := congrArg Cell.freeSince (State.retire_here_frame s occ); exact h
@[simp] theorem State.retire_here_flume (s : State) (occ : Nat) : (s.retire occ).here.flume = s.here.flume := by have h := congrArg Cell.flume (State.retire_here_frame s occ); exact h
@[simp] theorem State.retire_here_dirty (s : State) (occ : Nat) : (s.retire occ).here.dirty = s.here.dirty := by have h := congrArg Cell.dirty (State.retire_here_frame s occ); exact h
@[simp] theorem State.retire_here_tlb (s : State) (occ : Nat) : (s.retire occ).here.tlb = s.here.tlb := by have h := congrArg Cell.tlb (State.retire_here_frame s occ); exact h
@[simp] theorem State.retire_here_fmtCache (s : State) (occ : Nat) : (s.retire occ).here.fmtCache = s.here.fmtCache := by have h := congrArg Cell.fmtCache (State.retire_here_frame s occ); exact h
@[simp] theorem State.retire_here_fmtFault (s : State) (occ : Nat) : (s.retire occ).here.fmtFault = s.here.fmtFault := by have h := congrArg Cell.fmtFault (State.retire_here_frame s occ); exact h
@[simp] theorem State.retire_here_dl (s : State) (occ : Nat) : (s.retire occ).here.dl = s.here.dl := by have h := congrArg Cell.dl (State.retire_here_frame s occ); exact h
@[simp] theorem State.retire_here_closed (s : State) (occ : Nat) : (s.retire occ).here.closed = s.here.closed := by have h := congrArg Cell.closed (State.retire_here_frame s occ); exact h

@[simp] theorem State.retire_now (s : State) (occ : Nat) : (s.retire occ).now = s.now := State.retire_here_time s occ

/-! The issuing strand, apart from its queues -/

theorem State.retire_me_frame (s : State) (occ : Nat) :
    { (s.retire occ).me with queues := s.me.queues, replay := s.me.replay, active := s.me.active } = s.me := by
  unfold State.retire
  cases s.cur.replay <;> simp [State.me_modHere]

@[simp] theorem State.retire_me_st (s : State) (occ : Nat) : (s.retire occ).me.st = s.me.st := by have h := congrArg Strand.st (State.retire_me_frame s occ); exact h
@[simp] theorem State.retire_me_launch (s : State) (occ : Nat) : (s.retire occ).me.launch = s.me.launch := by have h := congrArg Strand.launch (State.retire_me_frame s occ); exact h
@[simp] theorem State.retire_me_wid (s : State) (occ : Nat) : (s.retire occ).me.wid = s.me.wid := by have h := congrArg Strand.wid (State.retire_me_frame s occ); exact h
@[simp] theorem State.retire_me_idx (s : State) (occ : Nat) : (s.retire occ).me.idx = s.me.idx := by have h := congrArg Strand.idx (State.retire_me_frame s occ); exact h
@[simp] theorem State.retire_me_pc (s : State) (occ : Nat) : (s.retire occ).me.pc = s.me.pc := by have h := congrArg Strand.pc (State.retire_me_frame s occ); exact h
@[simp] theorem State.retire_me_s (s : State) (occ : Nat) : (s.retire occ).me.s = s.me.s := by have h := congrArg Strand.s (State.retire_me_frame s occ); exact h
@[simp] theorem State.retire_me_q (s : State) (occ : Nat) : (s.retire occ).me.q = s.me.q := by have h := congrArg Strand.q (State.retire_me_frame s occ); exact h
@[simp] theorem State.retire_me_p (s : State) (occ : Nat) : (s.retire occ).me.p = s.me.p := by have h := congrArg Strand.p (State.retire_me_frame s occ); exact h
@[simp] theorem State.retire_me_m (s : State) (occ : Nat) : (s.retire occ).me.m = s.me.m := by have h := congrArg Strand.m (State.retire_me_frame s occ); exact h
@[simp] theorem State.retire_me_v (s : State) (occ : Nat) : (s.retire occ).me.v = s.me.v := by have h := congrArg Strand.v (State.retire_me_frame s occ); exact h
@[simp] theorem State.retire_me_y (s : State) (occ : Nat) : (s.retire occ).me.y = s.me.y := by have h := congrArg Strand.y (State.retire_me_frame s occ); exact h
@[simp] theorem State.retire_me_loops (s : State) (occ : Nat) : (s.retire occ).me.loops = s.me.loops := by have h := congrArg Strand.loops (State.retire_me_frame s occ); exact h
@[simp] theorem State.retire_me_pmark (s : State) (occ : Nat) : (s.retire occ).me.pmark = s.me.pmark := by have h := congrArg Strand.pmark (State.retire_me_frame s occ); exact h
@[simp] theorem State.retire_me_fk (s : State) (occ : Nat) : (s.retire occ).me.fk = s.me.fk := by have h := congrArg Strand.fk (State.retire_me_frame s occ); exact h
@[simp] theorem State.retire_me_ftb (s : State) (occ : Nat) : (s.retire occ).me.ftb = s.me.ftb := by have h := congrArg Strand.ftb (State.retire_me_frame s occ); exact h
@[simp] theorem State.retire_me_stat (s : State) (occ : Nat) : (s.retire occ).me.stat = s.me.stat := by have h := congrArg Strand.stat (State.retire_me_frame s occ); exact h
@[simp] theorem State.retire_me_srkey (s : State) (occ : Nat) : (s.retire occ).me.srkey = s.me.srkey := by have h := congrArg Strand.srkey (State.retire_me_frame s occ); exact h
@[simp] theorem State.retire_me_tvec (s : State) (occ : Nat) : (s.retire occ).me.tvec = s.me.tvec := by have h := congrArg Strand.tvec (State.retire_me_frame s occ); exact h
@[simp] theorem State.retire_me_cause (s : State) (occ : Nat) : (s.retire occ).me.cause = s.me.cause := by have h := congrArg Strand.cause (State.retire_me_frame s occ); exact h
@[simp] theorem State.retire_me_tinfo (s : State) (occ : Nat) : (s.retire occ).me.tinfo = s.me.tinfo := by have h := congrArg Strand.tinfo (State.retire_me_frame s occ); exact h
@[simp] theorem State.retire_me_taddr (s : State) (occ : Nat) : (s.retire occ).me.taddr = s.me.taddr := by have h := congrArg Strand.taddr (State.retire_me_frame s occ); exact h
@[simp] theorem State.retire_me_tscr (s : State) (occ : Nat) : (s.retire occ).me.tscr = s.me.tscr := by have h := congrArg Strand.tscr (State.retire_me_frame s occ); exact h
@[simp] theorem State.retire_me_vfsel (s : State) (occ : Nat) : (s.retire occ).me.vfsel = s.me.vfsel := by have h := congrArg Strand.vfsel (State.retire_me_frame s occ); exact h
@[simp] theorem State.retire_me_handler (s : State) (occ : Nat) : (s.retire occ).me.handler = s.me.handler := by have h := congrArg Strand.handler (State.retire_me_frame s occ); exact h
@[simp] theorem State.retire_me_entered (s : State) (occ : Nat) : (s.retire occ).me.entered = s.me.entered := by have h := congrArg Strand.entered (State.retire_me_frame s occ); exact h
@[simp] theorem State.retire_me_armed (s : State) (occ : Nat) : (s.retire occ).me.armed = s.me.armed := by have h := congrArg Strand.armed (State.retire_me_frame s occ); exact h
@[simp] theorem State.retire_me_armedAt (s : State) (occ : Nat) : (s.retire occ).me.armedAt = s.me.armedAt := by have h := congrArg Strand.armedAt (State.retire_me_frame s occ); exact h
@[simp] theorem State.retire_me_halted (s : State) (occ : Nat) : (s.retire occ).me.halted = s.me.halted := by have h := congrArg Strand.halted (State.retire_me_frame s occ); exact h
@[simp] theorem State.retire_me_sleepEnd (s : State) (occ : Nat) : (s.retire occ).me.sleepEnd = s.me.sleepEnd := by have h := congrArg Strand.sleepEnd (State.retire_me_frame s occ); exact h
@[simp] theorem State.retire_me_pfx (s : State) (occ : Nat) : (s.retire occ).me.pfx = s.me.pfx := by have h := congrArg Strand.pfx (State.retire_me_frame s occ); exact h
@[simp] theorem State.retire_me_pfxAt (s : State) (occ : Nat) : (s.retire occ).me.pfxAt = s.me.pfxAt := by have h := congrArg Strand.pfxAt (State.retire_me_frame s occ); exact h
@[simp] theorem State.retire_me_fblk (s : State) (occ : Nat) : (s.retire occ).me.fblk = s.me.fblk := by have h := congrArg Strand.fblk (State.retire_me_frame s occ); exact h
@[simp] theorem State.retire_me_seq (s : State) (occ : Nat) : (s.retire occ).me.seq = s.me.seq := by have h := congrArg Strand.seq (State.retire_me_frame s occ); exact h
@[simp] theorem State.retire_me_fetchFrom (s : State) (occ : Nat) : (s.retire occ).me.fetchFrom = s.me.fetchFrom := by have h := congrArg Strand.fetchFrom (State.retire_me_frame s occ); exact h
@[simp] theorem State.retire_me_issueFrom (s : State) (occ : Nat) : (s.retire occ).me.issueFrom = s.me.issueFrom := by have h := congrArg Strand.issueFrom (State.retire_me_frame s occ); exact h
@[simp] theorem State.retire_me_pend (s : State) (occ : Nat) : (s.retire occ).me.pend = s.me.pend := by have h := congrArg Strand.pend (State.retire_me_frame s occ); exact h
@[simp] theorem State.retire_me_trap (s : State) (occ : Nat) : (s.retire occ).me.trap = s.me.trap := by have h := congrArg Strand.trap (State.retire_me_frame s occ); exact h
@[simp] theorem State.retire_me_lates (s : State) (occ : Nat) : (s.retire occ).me.lates = s.me.lates := by have h := congrArg Strand.lates (State.retire_me_frame s occ); exact h
@[simp] theorem State.retire_me_reports (s : State) (occ : Nat) : (s.retire occ).me.reports = s.me.reports := by have h := congrArg Strand.reports (State.retire_me_frame s occ); exact h
@[simp] theorem State.retire_me_qdead (s : State) (occ : Nat) : (s.retire occ).me.qdead = s.me.qdead := by have h := congrArg Strand.qdead (State.retire_me_frame s occ); exact h
@[simp] theorem State.retire_me_swReq (s : State) (occ : Nat) : (s.retire occ).me.swReq = s.me.swReq := by have h := congrArg Strand.swReq (State.retire_me_frame s occ); exact h
@[simp] theorem State.retire_me_swCut (s : State) (occ : Nat) : (s.retire occ).me.swCut = s.me.swCut := by have h := congrArg Strand.swCut (State.retire_me_frame s occ); exact h
@[simp] theorem State.retire_me_swStop (s : State) (occ : Nat) : (s.retire occ).me.swStop = s.me.swStop := by have h := congrArg Strand.swStop (State.retire_me_frame s occ); exact h
@[simp] theorem State.retire_me_swHalt (s : State) (occ : Nat) : (s.retire occ).me.swHalt = s.me.swHalt := by have h := congrArg Strand.swHalt (State.retire_me_frame s occ); exact h
@[simp] theorem State.retire_me_wasDormant (s : State) (occ : Nat) : (s.retire occ).me.wasDormant = s.me.wasDormant := by have h := congrArg Strand.wasDormant (State.retire_me_frame s occ); exact h
@[simp] theorem State.retire_me_savedSeq (s : State) (occ : Nat) : (s.retire occ).me.savedSeq = s.me.savedSeq := by have h := congrArg Strand.savedSeq (State.retire_me_frame s occ); exact h
@[simp] theorem State.retire_me_savedStages (s : State) (occ : Nat) : (s.retire occ).me.savedStages = s.me.savedStages := by have h := congrArg Strand.savedStages (State.retire_me_frame s occ); exact h
@[simp] theorem State.retire_me_pptLoops (s : State) (occ : Nat) : (s.retire occ).me.pptLoops = s.me.pptLoops := by have h := congrArg Strand.pptLoops (State.retire_me_frame s occ); exact h

@[simp] theorem State.retire_me_lc (s : State) (occ k : Nat) : (s.retire occ).me.lc k = s.me.lc k := by simp [Strand.lc]

/-! A result in flight: the issuing strand apart from its results -/

@[simp] theorem State.result_me_st (s : State) (lat : Nat) (w : PendW) : (s.result lat w).me.st = s.me.st := by simp [State.result_me]
@[simp] theorem State.result_me_launch (s : State) (lat : Nat) (w : PendW) : (s.result lat w).me.launch = s.me.launch := by simp [State.result_me]
@[simp] theorem State.result_me_wid (s : State) (lat : Nat) (w : PendW) : (s.result lat w).me.wid = s.me.wid := by simp [State.result_me]
@[simp] theorem State.result_me_idx (s : State) (lat : Nat) (w : PendW) : (s.result lat w).me.idx = s.me.idx := by simp [State.result_me]
@[simp] theorem State.result_me_pc (s : State) (lat : Nat) (w : PendW) : (s.result lat w).me.pc = s.me.pc := by simp [State.result_me]
@[simp] theorem State.result_me_s (s : State) (lat : Nat) (w : PendW) : (s.result lat w).me.s = s.me.s := by simp [State.result_me]
@[simp] theorem State.result_me_q (s : State) (lat : Nat) (w : PendW) : (s.result lat w).me.q = s.me.q := by simp [State.result_me]
@[simp] theorem State.result_me_p (s : State) (lat : Nat) (w : PendW) : (s.result lat w).me.p = s.me.p := by simp [State.result_me]
@[simp] theorem State.result_me_m (s : State) (lat : Nat) (w : PendW) : (s.result lat w).me.m = s.me.m := by simp [State.result_me]
@[simp] theorem State.result_me_v (s : State) (lat : Nat) (w : PendW) : (s.result lat w).me.v = s.me.v := by simp [State.result_me]
@[simp] theorem State.result_me_y (s : State) (lat : Nat) (w : PendW) : (s.result lat w).me.y = s.me.y := by simp [State.result_me]
@[simp] theorem State.result_me_loops (s : State) (lat : Nat) (w : PendW) : (s.result lat w).me.loops = s.me.loops := by simp [State.result_me]
@[simp] theorem State.result_me_pmark (s : State) (lat : Nat) (w : PendW) : (s.result lat w).me.pmark = s.me.pmark := by simp [State.result_me]
@[simp] theorem State.result_me_fk (s : State) (lat : Nat) (w : PendW) : (s.result lat w).me.fk = s.me.fk := by simp [State.result_me]
@[simp] theorem State.result_me_ftb (s : State) (lat : Nat) (w : PendW) : (s.result lat w).me.ftb = s.me.ftb := by simp [State.result_me]
@[simp] theorem State.result_me_stat (s : State) (lat : Nat) (w : PendW) : (s.result lat w).me.stat = s.me.stat := by simp [State.result_me]
@[simp] theorem State.result_me_srkey (s : State) (lat : Nat) (w : PendW) : (s.result lat w).me.srkey = s.me.srkey := by simp [State.result_me]
@[simp] theorem State.result_me_tvec (s : State) (lat : Nat) (w : PendW) : (s.result lat w).me.tvec = s.me.tvec := by simp [State.result_me]
@[simp] theorem State.result_me_cause (s : State) (lat : Nat) (w : PendW) : (s.result lat w).me.cause = s.me.cause := by simp [State.result_me]
@[simp] theorem State.result_me_tinfo (s : State) (lat : Nat) (w : PendW) : (s.result lat w).me.tinfo = s.me.tinfo := by simp [State.result_me]
@[simp] theorem State.result_me_taddr (s : State) (lat : Nat) (w : PendW) : (s.result lat w).me.taddr = s.me.taddr := by simp [State.result_me]
@[simp] theorem State.result_me_tscr (s : State) (lat : Nat) (w : PendW) : (s.result lat w).me.tscr = s.me.tscr := by simp [State.result_me]
@[simp] theorem State.result_me_vfsel (s : State) (lat : Nat) (w : PendW) : (s.result lat w).me.vfsel = s.me.vfsel := by simp [State.result_me]
@[simp] theorem State.result_me_handler (s : State) (lat : Nat) (w : PendW) : (s.result lat w).me.handler = s.me.handler := by simp [State.result_me]
@[simp] theorem State.result_me_entered (s : State) (lat : Nat) (w : PendW) : (s.result lat w).me.entered = s.me.entered := by simp [State.result_me]
@[simp] theorem State.result_me_armed (s : State) (lat : Nat) (w : PendW) : (s.result lat w).me.armed = s.me.armed := by simp [State.result_me]
@[simp] theorem State.result_me_armedAt (s : State) (lat : Nat) (w : PendW) : (s.result lat w).me.armedAt = s.me.armedAt := by simp [State.result_me]
@[simp] theorem State.result_me_halted (s : State) (lat : Nat) (w : PendW) : (s.result lat w).me.halted = s.me.halted := by simp [State.result_me]
@[simp] theorem State.result_me_sleepEnd (s : State) (lat : Nat) (w : PendW) : (s.result lat w).me.sleepEnd = s.me.sleepEnd := by simp [State.result_me]
@[simp] theorem State.result_me_queues (s : State) (lat : Nat) (w : PendW) : (s.result lat w).me.queues = s.me.queues := by simp [State.result_me]
@[simp] theorem State.result_me_pfx (s : State) (lat : Nat) (w : PendW) : (s.result lat w).me.pfx = s.me.pfx := by simp [State.result_me]
@[simp] theorem State.result_me_pfxAt (s : State) (lat : Nat) (w : PendW) : (s.result lat w).me.pfxAt = s.me.pfxAt := by simp [State.result_me]
@[simp] theorem State.result_me_fblk (s : State) (lat : Nat) (w : PendW) : (s.result lat w).me.fblk = s.me.fblk := by simp [State.result_me]
@[simp] theorem State.result_me_seq (s : State) (lat : Nat) (w : PendW) : (s.result lat w).me.seq = s.me.seq := by simp [State.result_me]
@[simp] theorem State.result_me_fetchFrom (s : State) (lat : Nat) (w : PendW) : (s.result lat w).me.fetchFrom = s.me.fetchFrom := by simp [State.result_me]
@[simp] theorem State.result_me_issueFrom (s : State) (lat : Nat) (w : PendW) : (s.result lat w).me.issueFrom = s.me.issueFrom := by simp [State.result_me]
@[simp] theorem State.result_me_trap (s : State) (lat : Nat) (w : PendW) : (s.result lat w).me.trap = s.me.trap := by simp [State.result_me]
@[simp] theorem State.result_me_lates (s : State) (lat : Nat) (w : PendW) : (s.result lat w).me.lates = s.me.lates := by simp [State.result_me]
@[simp] theorem State.result_me_replay (s : State) (lat : Nat) (w : PendW) : (s.result lat w).me.replay = s.me.replay := by simp [State.result_me]
@[simp] theorem State.result_me_reports (s : State) (lat : Nat) (w : PendW) : (s.result lat w).me.reports = s.me.reports := by simp [State.result_me]
@[simp] theorem State.result_me_qdead (s : State) (lat : Nat) (w : PendW) : (s.result lat w).me.qdead = s.me.qdead := by simp [State.result_me]
@[simp] theorem State.result_me_active (s : State) (lat : Nat) (w : PendW) : (s.result lat w).me.active = s.me.active := by simp [State.result_me]
@[simp] theorem State.result_me_swReq (s : State) (lat : Nat) (w : PendW) : (s.result lat w).me.swReq = s.me.swReq := by simp [State.result_me]
@[simp] theorem State.result_me_swCut (s : State) (lat : Nat) (w : PendW) : (s.result lat w).me.swCut = s.me.swCut := by simp [State.result_me]
@[simp] theorem State.result_me_swStop (s : State) (lat : Nat) (w : PendW) : (s.result lat w).me.swStop = s.me.swStop := by simp [State.result_me]
@[simp] theorem State.result_me_swHalt (s : State) (lat : Nat) (w : PendW) : (s.result lat w).me.swHalt = s.me.swHalt := by simp [State.result_me]
@[simp] theorem State.result_me_wasDormant (s : State) (lat : Nat) (w : PendW) : (s.result lat w).me.wasDormant = s.me.wasDormant := by simp [State.result_me]
@[simp] theorem State.result_me_savedSeq (s : State) (lat : Nat) (w : PendW) : (s.result lat w).me.savedSeq = s.me.savedSeq := by simp [State.result_me]
@[simp] theorem State.result_me_savedStages (s : State) (lat : Nat) (w : PendW) : (s.result lat w).me.savedStages = s.me.savedStages := by simp [State.result_me]
@[simp] theorem State.result_me_pptLoops (s : State) (lat : Nat) (w : PendW) : (s.result lat w).me.pptLoops = s.me.pptLoops := by simp [State.result_me]

@[simp] theorem State.result_me_lc (s : State) (lat : Nat) (w : PendW) (k : Nat) : (s.result lat w).me.lc k = s.me.lc k := by simp [Strand.lc]

@[simp] theorem State.result_me_engq (s : State) (lat : Nat) (w : PendW) (e : Nat) : (s.result lat w).me.engq e = s.me.engq e := by simp [Strand.engq]

/-! Pops change the queues of the issuing strand alone -/

@[simp] theorem popSources_st (st : Strand) (rs : List (BitVec 6)) : (popSources st rs).st = st.st := by rw [popSources_eq]
@[simp] theorem popSources_launch (st : Strand) (rs : List (BitVec 6)) : (popSources st rs).launch = st.launch := by rw [popSources_eq]
@[simp] theorem popSources_wid (st : Strand) (rs : List (BitVec 6)) : (popSources st rs).wid = st.wid := by rw [popSources_eq]
@[simp] theorem popSources_idx (st : Strand) (rs : List (BitVec 6)) : (popSources st rs).idx = st.idx := by rw [popSources_eq]
@[simp] theorem popSources_pc (st : Strand) (rs : List (BitVec 6)) : (popSources st rs).pc = st.pc := by rw [popSources_eq]
@[simp] theorem popSources_s (st : Strand) (rs : List (BitVec 6)) : (popSources st rs).s = st.s := by rw [popSources_eq]
@[simp] theorem popSources_p (st : Strand) (rs : List (BitVec 6)) : (popSources st rs).p = st.p := by rw [popSources_eq]
@[simp] theorem popSources_m (st : Strand) (rs : List (BitVec 6)) : (popSources st rs).m = st.m := by rw [popSources_eq]
@[simp] theorem popSources_v (st : Strand) (rs : List (BitVec 6)) : (popSources st rs).v = st.v := by rw [popSources_eq]
@[simp] theorem popSources_y (st : Strand) (rs : List (BitVec 6)) : (popSources st rs).y = st.y := by rw [popSources_eq]
@[simp] theorem popSources_loops (st : Strand) (rs : List (BitVec 6)) : (popSources st rs).loops = st.loops := by rw [popSources_eq]
@[simp] theorem popSources_pmark (st : Strand) (rs : List (BitVec 6)) : (popSources st rs).pmark = st.pmark := by rw [popSources_eq]
@[simp] theorem popSources_fk (st : Strand) (rs : List (BitVec 6)) : (popSources st rs).fk = st.fk := by rw [popSources_eq]
@[simp] theorem popSources_ftb (st : Strand) (rs : List (BitVec 6)) : (popSources st rs).ftb = st.ftb := by rw [popSources_eq]
@[simp] theorem popSources_stat (st : Strand) (rs : List (BitVec 6)) : (popSources st rs).stat = st.stat := by rw [popSources_eq]
@[simp] theorem popSources_srkey (st : Strand) (rs : List (BitVec 6)) : (popSources st rs).srkey = st.srkey := by rw [popSources_eq]
@[simp] theorem popSources_tvec (st : Strand) (rs : List (BitVec 6)) : (popSources st rs).tvec = st.tvec := by rw [popSources_eq]
@[simp] theorem popSources_cause (st : Strand) (rs : List (BitVec 6)) : (popSources st rs).cause = st.cause := by rw [popSources_eq]
@[simp] theorem popSources_tinfo (st : Strand) (rs : List (BitVec 6)) : (popSources st rs).tinfo = st.tinfo := by rw [popSources_eq]
@[simp] theorem popSources_taddr (st : Strand) (rs : List (BitVec 6)) : (popSources st rs).taddr = st.taddr := by rw [popSources_eq]
@[simp] theorem popSources_tscr (st : Strand) (rs : List (BitVec 6)) : (popSources st rs).tscr = st.tscr := by rw [popSources_eq]
@[simp] theorem popSources_vfsel (st : Strand) (rs : List (BitVec 6)) : (popSources st rs).vfsel = st.vfsel := by rw [popSources_eq]
@[simp] theorem popSources_handler (st : Strand) (rs : List (BitVec 6)) : (popSources st rs).handler = st.handler := by rw [popSources_eq]
@[simp] theorem popSources_entered (st : Strand) (rs : List (BitVec 6)) : (popSources st rs).entered = st.entered := by rw [popSources_eq]
@[simp] theorem popSources_armed (st : Strand) (rs : List (BitVec 6)) : (popSources st rs).armed = st.armed := by rw [popSources_eq]
@[simp] theorem popSources_armedAt (st : Strand) (rs : List (BitVec 6)) : (popSources st rs).armedAt = st.armedAt := by rw [popSources_eq]
@[simp] theorem popSources_halted (st : Strand) (rs : List (BitVec 6)) : (popSources st rs).halted = st.halted := by rw [popSources_eq]
@[simp] theorem popSources_sleepEnd (st : Strand) (rs : List (BitVec 6)) : (popSources st rs).sleepEnd = st.sleepEnd := by rw [popSources_eq]
@[simp] theorem popSources_queues (st : Strand) (rs : List (BitVec 6)) : (popSources st rs).queues = st.queues := by rw [popSources_eq]
@[simp] theorem popSources_pfx (st : Strand) (rs : List (BitVec 6)) : (popSources st rs).pfx = st.pfx := by rw [popSources_eq]
@[simp] theorem popSources_pfxAt (st : Strand) (rs : List (BitVec 6)) : (popSources st rs).pfxAt = st.pfxAt := by rw [popSources_eq]
@[simp] theorem popSources_fblk (st : Strand) (rs : List (BitVec 6)) : (popSources st rs).fblk = st.fblk := by rw [popSources_eq]
@[simp] theorem popSources_seq (st : Strand) (rs : List (BitVec 6)) : (popSources st rs).seq = st.seq := by rw [popSources_eq]
@[simp] theorem popSources_fetchFrom (st : Strand) (rs : List (BitVec 6)) : (popSources st rs).fetchFrom = st.fetchFrom := by rw [popSources_eq]
@[simp] theorem popSources_issueFrom (st : Strand) (rs : List (BitVec 6)) : (popSources st rs).issueFrom = st.issueFrom := by rw [popSources_eq]
@[simp] theorem popSources_pend (st : Strand) (rs : List (BitVec 6)) : (popSources st rs).pend = st.pend := by rw [popSources_eq]
@[simp] theorem popSources_trap (st : Strand) (rs : List (BitVec 6)) : (popSources st rs).trap = st.trap := by rw [popSources_eq]
@[simp] theorem popSources_lates (st : Strand) (rs : List (BitVec 6)) : (popSources st rs).lates = st.lates := by rw [popSources_eq]
@[simp] theorem popSources_replay (st : Strand) (rs : List (BitVec 6)) : (popSources st rs).replay = st.replay := by rw [popSources_eq]
@[simp] theorem popSources_reports (st : Strand) (rs : List (BitVec 6)) : (popSources st rs).reports = st.reports := by rw [popSources_eq]
@[simp] theorem popSources_qdead (st : Strand) (rs : List (BitVec 6)) : (popSources st rs).qdead = st.qdead := by rw [popSources_eq]
@[simp] theorem popSources_active (st : Strand) (rs : List (BitVec 6)) : (popSources st rs).active = st.active := by rw [popSources_eq]
@[simp] theorem popSources_swReq (st : Strand) (rs : List (BitVec 6)) : (popSources st rs).swReq = st.swReq := by rw [popSources_eq]
@[simp] theorem popSources_swCut (st : Strand) (rs : List (BitVec 6)) : (popSources st rs).swCut = st.swCut := by rw [popSources_eq]
@[simp] theorem popSources_swStop (st : Strand) (rs : List (BitVec 6)) : (popSources st rs).swStop = st.swStop := by rw [popSources_eq]
@[simp] theorem popSources_swHalt (st : Strand) (rs : List (BitVec 6)) : (popSources st rs).swHalt = st.swHalt := by rw [popSources_eq]
@[simp] theorem popSources_wasDormant (st : Strand) (rs : List (BitVec 6)) : (popSources st rs).wasDormant = st.wasDormant := by rw [popSources_eq]
@[simp] theorem popSources_savedSeq (st : Strand) (rs : List (BitVec 6)) : (popSources st rs).savedSeq = st.savedSeq := by rw [popSources_eq]
@[simp] theorem popSources_savedStages (st : Strand) (rs : List (BitVec 6)) : (popSources st rs).savedStages = st.savedStages := by rw [popSources_eq]
@[simp] theorem popSources_pptLoops (st : Strand) (rs : List (BitVec 6)) : (popSources st rs).pptLoops = st.pptLoops := by rw [popSources_eq]

@[simp] theorem popSources_engq (st : Strand) (rs : List (BitVec 6)) (e : Nat) : (popSources st rs).engq e = st.engq e := by simp [Strand.engq]

@[simp] theorem State.popped_me (s : State) (rs : List (BitVec 6)) : (s.popped rs).me = popSources s.me rs := by simp [State.popped]

@[simp] theorem State.popped_cur (s : State) (rs : List (BitVec 6)) : (s.popped rs).cur = s.cur := rfl

@[simp] theorem State.popped_now (s : State) (rs : List (BitVec 6)) : (s.popped rs).now = s.now := by simp [State.popped]

@[simp] theorem State.popped_here_frame (s : State) (rs : List (BitVec 6)) : { (s.popped rs).here with strands := s.here.strands } = s.here := by
  simp [State.popped, Cell.modStrand]

end Sys2Proof.Machine
end

