-- ==== Sys2Proof/Laws/Exec.lean ====
section
/-! SUPPORT. The meaning of each instruction by name: one equation per arm of exec, so that a proof about one instruction never unfolds the
dispatch. -/

namespace Sys2Proof.Machine

open Sys2Proof

theorem exec_bNop x0 s : exec (.bNop x0) s = execBNop x0 s := rfl
theorem exec_bJmp x0 x1 s : exec (.bJmp x0 x1) s = execBJmp x0 x1 s := rfl
theorem exec_bJmpr x0 x1 s : exec (.bJmpr x0 x1) s = execBJmpr x0 x1 s := rfl
theorem exec_bCall x0 x1 s : exec (.bCall x0 x1) s = execBCall x0 x1 s := rfl
theorem exec_bCallr x0 x1 s : exec (.bCallr x0 x1) s = execBCallr x0 x1 s := rfl
theorem exec_bRet x0 s : exec (.bRet x0) s = execBRet x0 s := rfl
theorem exec_bLoop x0 x1 x2 x3 x4 s : exec (.bLoop x0 x1 x2 x3 x4) s = execBLoop x0 x1 x2 x3 x4 s := rfl
theorem exec_bLbrk x0 x1 s : exec (.bLbrk x0 x1) s = execBLbrk x0 x1 s := rfl
theorem exec_bHalt x0 s : exec (.bHalt x0) s = execBHalt x0 s := rfl
theorem exec_bYield x0 s : exec (.bYield x0) s = execBYield x0 s := rfl
theorem exec_bSleep x0 x1 s : exec (.bSleep x0 x1) s = execBSleep x0 x1 s := rfl
theorem exec_bArm x0 x1 s : exec (.bArm x0 x1) s = execBArm x0 x1 s := rfl
theorem exec_bMsg x0 x1 x2 x3 s : exec (.bMsg x0 x1 x2 x3) s = execBMsg x0 x1 x2 x3 s := rfl
theorem exec_bTrap x0 x1 s : exec (.bTrap x0 x1) s = execBTrap x0 x1 s := rfl
theorem exec_bSys x0 x1 s : exec (.bSys x0 x1) s = execBSys x0 x1 s := rfl
theorem exec_bRfe x0 s : exec (.bRfe x0) s = execBRfe x0 s := rfl
theorem exec_bFmt x0 x1 x2 s : exec (.bFmt x0 x1 x2) s = execBFmt x0 x1 x2 s := rfl
theorem exec_bPpt x0 s : exec (.bPpt x0) s = execBPpt x0 s := rfl
theorem exec_bPost x0 x1 s : exec (.bPost x0 x1) s = execBPost x0 x1 s := rfl
theorem exec_bTdec x0 x1 s : exec (.bTdec x0 x1) s = execBTdec x0 x1 s := rfl
theorem exec_bCancel x0 x1 x2 s : exec (.bCancel x0 x1 x2) s = execBCancel x0 x1 x2 s := rfl
theorem exec_bCancelL x0 x1 x2 s : exec (.bCancelL x0 x1 x2) s = execBCancelL x0 x1 x2 s := rfl
theorem exec_bLaunch x0 x1 s : exec (.bLaunch x0 x1) s = execBLaunch x0 x1 s := rfl
theorem exec_bWait x0 x1 x2 s : exec (.bWait x0 x1 x2) s = execBWait x0 x1 x2 s := rfl
theorem exec_bSig x0 x1 x2 s : exec (.bSig x0 x1 x2) s = execBSig x0 x1 x2 s := rfl
theorem exec_bSmap x0 x1 x2 s : exec (.bSmap x0 x1 x2) s = execBSmap x0 x1 x2 s := rfl
theorem exec_sAdd x0 x1 x2 x3 s : exec (.sAdd x0 x1 x2 x3) s = execSAdd x0 x1 x2 x3 s := rfl
theorem exec_sSub x0 x1 x2 x3 s : exec (.sSub x0 x1 x2 x3) s = execSSub x0 x1 x2 x3 s := rfl
theorem exec_sAddi x0 x1 x2 x3 s : exec (.sAddi x0 x1 x2 x3) s = execSAddi x0 x1 x2 x3 s := rfl
theorem exec_sMul x0 x1 x2 x3 s : exec (.sMul x0 x1 x2 x3) s = execSMul x0 x1 x2 x3 s := rfl
theorem exec_sMulh x0 x1 x2 x3 s : exec (.sMulh x0 x1 x2 x3) s = execSMulh x0 x1 x2 x3 s := rfl
theorem exec_sMulhn x0 x1 x2 x3 s : exec (.sMulhn x0 x1 x2 x3) s = execSMulhn x0 x1 x2 x3 s := rfl
theorem exec_sDiv x0 x1 x2 x3 s : exec (.sDiv x0 x1 x2 x3) s = execSDiv x0 x1 x2 x3 s := rfl
theorem exec_sDivn x0 x1 x2 x3 s : exec (.sDivn x0 x1 x2 x3) s = execSDivn x0 x1 x2 x3 s := rfl
theorem exec_sRem x0 x1 x2 x3 s : exec (.sRem x0 x1 x2 x3) s = execSRem x0 x1 x2 x3 s := rfl
theorem exec_sRemn x0 x1 x2 x3 s : exec (.sRemn x0 x1 x2 x3) s = execSRemn x0 x1 x2 x3 s := rfl
theorem exec_sAnd x0 x1 x2 x3 s : exec (.sAnd x0 x1 x2 x3) s = execSAnd x0 x1 x2 x3 s := rfl
theorem exec_sOr x0 x1 x2 x3 s : exec (.sOr x0 x1 x2 x3) s = execSOr x0 x1 x2 x3 s := rfl
theorem exec_sXor x0 x1 x2 x3 s : exec (.sXor x0 x1 x2 x3) s = execSXor x0 x1 x2 x3 s := rfl
theorem exec_sAndn x0 x1 x2 x3 s : exec (.sAndn x0 x1 x2 x3) s = execSAndn x0 x1 x2 x3 s := rfl
theorem exec_sShl x0 x1 x2 x3 s : exec (.sShl x0 x1 x2 x3) s = execSShl x0 x1 x2 x3 s := rfl
theorem exec_sShr x0 x1 x2 x3 s : exec (.sShr x0 x1 x2 x3) s = execSShr x0 x1 x2 x3 s := rfl
theorem exec_sSra x0 x1 x2 x3 s : exec (.sSra x0 x1 x2 x3) s = execSSra x0 x1 x2 x3 s := rfl
theorem exec_sRot x0 x1 x2 x3 s : exec (.sRot x0 x1 x2 x3) s = execSRot x0 x1 x2 x3 s := rfl
theorem exec_sShli x0 x1 x2 x3 s : exec (.sShli x0 x1 x2 x3) s = execSShli x0 x1 x2 x3 s := rfl
theorem exec_sShri x0 x1 x2 x3 s : exec (.sShri x0 x1 x2 x3) s = execSShri x0 x1 x2 x3 s := rfl
theorem exec_sSrai x0 x1 x2 x3 s : exec (.sSrai x0 x1 x2 x3) s = execSSrai x0 x1 x2 x3 s := rfl
theorem exec_sMin x0 x1 x2 x3 s : exec (.sMin x0 x1 x2 x3) s = execSMin x0 x1 x2 x3 s := rfl
theorem exec_sMax x0 x1 x2 x3 s : exec (.sMax x0 x1 x2 x3) s = execSMax x0 x1 x2 x3 s := rfl
theorem exec_sMinn x0 x1 x2 x3 s : exec (.sMinn x0 x1 x2 x3) s = execSMinn x0 x1 x2 x3 s := rfl
theorem exec_sMaxn x0 x1 x2 x3 s : exec (.sMaxn x0 x1 x2 x3) s = execSMaxn x0 x1 x2 x3 s := rfl
theorem exec_sClz x0 x1 x2 s : exec (.sClz x0 x1 x2) s = execSClz x0 x1 x2 s := rfl
theorem exec_sPopc x0 x1 x2 s : exec (.sPopc x0 x1 x2) s = execSPopc x0 x1 x2 s := rfl
theorem exec_sExt x0 x1 x2 x3 s : exec (.sExt x0 x1 x2 x3) s = execSExt x0 x1 x2 x3 s := rfl
theorem exec_sIns x0 x1 x2 x3 s : exec (.sIns x0 x1 x2 x3) s = execSIns x0 x1 x2 x3 s := rfl
theorem exec_sMov x0 x1 x2 s : exec (.sMov x0 x1 x2) s = execSMov x0 x1 x2 s := rfl
theorem exec_sLi x0 x1 x2 s : exec (.sLi x0 x1 x2) s = execSLi x0 x1 x2 s := rfl
theorem exec_sCmp x0 x1 x2 x3 x4 s : exec (.sCmp x0 x1 x2 x3 x4) s = execSCmp x0 x1 x2 x3 x4 s := rfl
theorem exec_sCmpi x0 x1 x2 x3 x4 s : exec (.sCmpi x0 x1 x2 x3 x4) s = execSCmpi x0 x1 x2 x3 x4 s := rfl
theorem exec_sPand x0 x1 x2 x3 s : exec (.sPand x0 x1 x2 x3) s = execSPand x0 x1 x2 x3 s := rfl
theorem exec_sPor x0 x1 x2 x3 s : exec (.sPor x0 x1 x2 x3) s = execSPor x0 x1 x2 x3 s := rfl
theorem exec_sPxor x0 x1 x2 x3 s : exec (.sPxor x0 x1 x2 x3) s = execSPxor x0 x1 x2 x3 s := rfl
theorem exec_sPnot x0 x1 x2 s : exec (.sPnot x0 x1 x2) s = execSPnot x0 x1 x2 s := rfl
theorem exec_sWid x0 x1 x2 s : exec (.sWid x0 x1 x2) s = execSWid x0 x1 x2 s := rfl
theorem exec_sRdsr x0 x1 x2 s : exec (.sRdsr x0 x1 x2) s = execSRdsr x0 x1 x2 s := rfl
theorem exec_sWrsr x0 x1 x2 s : exec (.sWrsr x0 x1 x2) s = execSWrsr x0 x1 x2 s := rfl
theorem exec_sRdcyc x0 x1 s : exec (.sRdcyc x0 x1) s = execSRdcyc x0 x1 s := rfl
theorem exec_sChk x0 x1 s : exec (.sChk x0 x1) s = execSChk x0 x1 s := rfl
theorem exec_vFadd x0 x1 x2 x3 s : exec (.vFadd x0 x1 x2 x3) s = execVFadd x0 x1 x2 x3 s := rfl
theorem exec_vFsub x0 x1 x2 x3 s : exec (.vFsub x0 x1 x2 x3) s = execVFsub x0 x1 x2 x3 s := rfl
theorem exec_vFmul x0 x1 x2 x3 s : exec (.vFmul x0 x1 x2 x3) s = execVFmul x0 x1 x2 x3 s := rfl
theorem exec_vFfma x0 x1 x2 x3 s : exec (.vFfma x0 x1 x2 x3) s = execVFfma x0 x1 x2 x3 s := rfl
theorem exec_vFmin x0 x1 x2 x3 s : exec (.vFmin x0 x1 x2 x3) s = execVFmin x0 x1 x2 x3 s := rfl
theorem exec_vFmax x0 x1 x2 x3 s : exec (.vFmax x0 x1 x2 x3) s = execVFmax x0 x1 x2 x3 s := rfl
theorem exec_vFabs x0 x1 x2 s : exec (.vFabs x0 x1 x2) s = execVFabs x0 x1 x2 s := rfl
theorem exec_vIadd x0 x1 x2 x3 s : exec (.vIadd x0 x1 x2 x3) s = execVIadd x0 x1 x2 x3 s := rfl
theorem exec_vIsub x0 x1 x2 x3 s : exec (.vIsub x0 x1 x2 x3) s = execVIsub x0 x1 x2 x3 s := rfl
theorem exec_vImul x0 x1 x2 x3 s : exec (.vImul x0 x1 x2 x3) s = execVImul x0 x1 x2 x3 s := rfl
theorem exec_vImin x0 x1 x2 x3 s : exec (.vImin x0 x1 x2 x3) s = execVImin x0 x1 x2 x3 s := rfl
theorem exec_vImax x0 x1 x2 x3 s : exec (.vImax x0 x1 x2 x3) s = execVImax x0 x1 x2 x3 s := rfl
theorem exec_vAnd x0 x1 x2 x3 s : exec (.vAnd x0 x1 x2 x3) s = execVAnd x0 x1 x2 x3 s := rfl
theorem exec_vOr x0 x1 x2 x3 s : exec (.vOr x0 x1 x2 x3) s = execVOr x0 x1 x2 x3 s := rfl
theorem exec_vXor x0 x1 x2 x3 s : exec (.vXor x0 x1 x2 x3) s = execVXor x0 x1 x2 x3 s := rfl
theorem exec_vShl x0 x1 x2 x3 s : exec (.vShl x0 x1 x2 x3) s = execVShl x0 x1 x2 x3 s := rfl
theorem exec_vShr x0 x1 x2 x3 s : exec (.vShr x0 x1 x2 x3) s = execVShr x0 x1 x2 x3 s := rfl
theorem exec_vSra x0 x1 x2 x3 s : exec (.vSra x0 x1 x2 x3) s = execVSra x0 x1 x2 x3 s := rfl
theorem exec_vFcmp x0 x1 x2 x3 x4 s : exec (.vFcmp x0 x1 x2 x3 x4) s = execVFcmp x0 x1 x2 x3 x4 s := rfl
theorem exec_vIcmp x0 x1 x2 x3 x4 s : exec (.vIcmp x0 x1 x2 x3 x4) s = execVIcmp x0 x1 x2 x3 x4 s := rfl
theorem exec_vMov x0 x1 x2 s : exec (.vMov x0 x1 x2) s = execVMov x0 x1 x2 s := rfl
theorem exec_vBcast x0 x1 x2 s : exec (.vBcast x0 x1 x2) s = execVBcast x0 x1 x2 s := rfl
theorem exec_vMvs x0 x1 x2 x3 s : exec (.vMvs x0 x1 x2 x3) s = execVMvs x0 x1 x2 x3 s := rfl
theorem exec_vIns x0 x1 x2 x3 s : exec (.vIns x0 x1 x2 x3) s = execVIns x0 x1 x2 x3 s := rfl
theorem exec_vPerm x0 x1 x2 x3 s : exec (.vPerm x0 x1 x2 x3) s = execVPerm x0 x1 x2 x3 s := rfl
theorem exec_vVid x0 x1 s : exec (.vVid x0 x1) s = execVVid x0 x1 s := rfl
theorem exec_vRedsum x0 x1 x2 s : exec (.vRedsum x0 x1 x2) s = execVRedsum x0 x1 x2 s := rfl
theorem exec_vRedmax x0 x1 x2 s : exec (.vRedmax x0 x1 x2) s = execVRedmax x0 x1 x2 s := rfl
theorem exec_vRedmaxi x0 x1 x2 s : exec (.vRedmaxi x0 x1 x2) s = execVRedmaxi x0 x1 x2 s := rfl
theorem exec_vRedmin x0 x1 x2 s : exec (.vRedmin x0 x1 x2) s = execVRedmin x0 x1 x2 s := rfl
theorem exec_vScan x0 x1 x2 x3 s : exec (.vScan x0 x1 x2 x3) s = execVScan x0 x1 x2 x3 s := rfl
theorem exec_vCvt x0 x1 x2 x3 x4 x5 s : exec (.vCvt x0 x1 x2 x3 x4 x5) s = execVCvt x0 x1 x2 x3 x4 x5 s := rfl
theorem exec_vPack x0 x1 x2 x3 x4 s : exec (.vPack x0 x1 x2 x3 x4) s = execVPack x0 x1 x2 x3 x4 s := rfl
theorem exec_vUnpk x0 x1 x2 x3 x4 s : exec (.vUnpk x0 x1 x2 x3 x4) s = execVUnpk x0 x1 x2 x3 x4 s := rfl
theorem exec_vScal x0 x1 x2 x3 x4 s : exec (.vScal x0 x1 x2 x3 x4) s = execVScal x0 x1 x2 x3 x4 s := rfl
theorem exec_vDraw x0 x1 x2 x3 s : exec (.vDraw x0 x1 x2 x3) s = execVDraw x0 x1 x2 x3 s := rfl
theorem exec_vChk x0 x1 s : exec (.vChk x0 x1) s = execVChk x0 x1 s := rfl
theorem exec_vMand x0 x1 x2 x3 s : exec (.vMand x0 x1 x2 x3) s = execVMand x0 x1 x2 x3 s := rfl
theorem exec_vMor x0 x1 x2 x3 s : exec (.vMor x0 x1 x2 x3) s = execVMor x0 x1 x2 x3 s := rfl
theorem exec_vMnot x0 x1 x2 s : exec (.vMnot x0 x1 x2) s = execVMnot x0 x1 x2 s := rfl
theorem exec_vMpop x0 x1 x2 s : exec (.vMpop x0 x1 x2) s = execVMpop x0 x1 x2 s := rfl
theorem exec_xExp2 x0 x1 x2 s : exec (.xExp2 x0 x1 x2) s = execXExp2 x0 x1 x2 s := rfl
theorem exec_xLog2 x0 x1 x2 s : exec (.xLog2 x0 x1 x2) s = execXLog2 x0 x1 x2 s := rfl
theorem exec_xRcp x0 x1 x2 s : exec (.xRcp x0 x1 x2) s = execXRcp x0 x1 x2 s := rfl
theorem exec_xRsqrt x0 x1 x2 s : exec (.xRsqrt x0 x1 x2) s = execXRsqrt x0 x1 x2 s := rfl
theorem exec_xSqrt x0 x1 x2 s : exec (.xSqrt x0 x1 x2) s = execXSqrt x0 x1 x2 s := rfl
theorem exec_xTanh x0 x1 x2 s : exec (.xTanh x0 x1 x2) s = execXTanh x0 x1 x2 s := rfl
theorem exec_xSigm x0 x1 x2 s : exec (.xSigm x0 x1 x2) s = execXSigm x0 x1 x2 s := rfl
theorem exec_lLds x0 x1 x2 x3 s : exec (.lLds x0 x1 x2 x3) s = execLLds x0 x1 x2 x3 s := rfl
theorem exec_lSts x0 x1 x2 x3 s : exec (.lSts x0 x1 x2 x3) s = execLSts x0 x1 x2 x3 s := rfl
theorem exec_lLdvs x0 x1 x2 x3 s : exec (.lLdvs x0 x1 x2 x3) s = execLLdvs x0 x1 x2 x3 s := rfl
theorem exec_lStvs x0 x1 x2 x3 s : exec (.lStvs x0 x1 x2 x3) s = execLStvs x0 x1 x2 x3 s := rfl
theorem exec_lLdt x0 x1 x2 x3 x4 x5 s : exec (.lLdt x0 x1 x2 x3 x4 x5) s = execLLdt x0 x1 x2 x3 x4 x5 s := rfl
theorem exec_lAtom x0 x1 x2 x3 x4 s : exec (.lAtom x0 x1 x2 x3 x4) s = execLAtom x0 x1 x2 x3 x4 s := rfl
theorem exec_lHnew x0 x1 x2 x3 s : exec (.lHnew x0 x1 x2 x3) s = execLHnew x0 x1 x2 x3 s := rfl
theorem exec_lHfree x0 x1 s : exec (.lHfree x0 x1) s = execLHfree x0 x1 s := rfl
theorem exec_lHinfo x0 x1 x2 x3 s : exec (.lHinfo x0 x1 x2 x3) s = execLHinfo x0 x1 x2 x3 s := rfl
theorem exec_lLdl x0 x1 x2 x3 x4 x5 s : exec (.lLdl x0 x1 x2 x3 x4 x5) s = execLLdl x0 x1 x2 x3 x4 x5 s := rfl
theorem exec_lRel x0 x1 s : exec (.lRel x0 x1) s = execLRel x0 x1 s := rfl
theorem exec_lLdg x0 x1 x2 x3 x4 s : exec (.lLdg x0 x1 x2 x3 x4) s = execLLdg x0 x1 x2 x3 x4 s := rfl
theorem exec_lStg x0 x1 x2 x3 s : exec (.lStg x0 x1 x2 x3) s = execLStg x0 x1 x2 x3 s := rfl
theorem exec_lLdvg x0 x1 x2 x3 x4 s : exec (.lLdvg x0 x1 x2 x3 x4) s = execLLdvg x0 x1 x2 x3 x4 s := rfl
theorem exec_lStvg x0 x1 x2 x3 s : exec (.lStvg x0 x1 x2 x3) s = execLStvg x0 x1 x2 x3 s := rfl
theorem exec_lGatom x0 x1 x2 x3 x4 s : exec (.lGatom x0 x1 x2 x3 x4) s = execLGatom x0 x1 x2 x3 x4 s := rfl
theorem exec_lPref x0 x1 x2 s : exec (.lPref x0 x1 x2) s = execLPref x0 x1 x2 s := rfl
theorem exec_lLdtg x0 x1 x2 x3 x4 x5 s : exec (.lLdtg x0 x1 x2 x3 x4 x5) s = execLLdtg x0 x1 x2 x3 x4 x5 s := rfl
theorem exec_lLdk x0 x1 x2 x3 x4 x5 s : exec (.lLdk x0 x1 x2 x3 x4 x5) s = execLLdk x0 x1 x2 x3 x4 x5 s := rfl
theorem exec_lStk x0 x1 x2 x3 s : exec (.lStk x0 x1 x2 x3) s = execLStk x0 x1 x2 x3 s := rfl
theorem exec_lKfork x0 x1 x2 s : exec (.lKfork x0 x1 x2) s = execLKfork x0 x1 x2 s := rfl
theorem exec_lKfree x0 x1 s : exec (.lKfree x0 x1) s = execLKfree x0 x1 s := rfl
theorem exec_lRatom x0 x1 x2 x3 x4 s : exec (.lRatom x0 x1 x2 x3 x4) s = execLRatom x0 x1 x2 x3 x4 s := rfl
theorem exec_lBarr x0 x1 x2 x3 s : exec (.lBarr x0 x1 x2 x3) s = execLBarr x0 x1 x2 x3 s := rfl
theorem exec_lBarw x0 x1 x2 x3 s : exec (.lBarw x0 x1 x2 x3) s = execLBarw x0 x1 x2 x3 s := rfl
theorem exec_lBare x0 x1 x2 x3 s : exec (.lBare x0 x1 x2 x3) s = execLBare x0 x1 x2 x3 s := rfl
theorem exec_lFence x0 x1 x2 s : exec (.lFence x0 x1 x2) s = execLFence x0 x1 x2 s := rfl
theorem exec_lTfence x0 x1 s : exec (.lTfence x0 x1) s = execLTfence x0 x1 s := rfl
theorem exec_mFuse x0 x1 s : exec (.mFuse x0 x1) s = execMFuse x0 x1 s := rfl
theorem exec_mZero x0 x1 s : exec (.mZero x0 x1) s = execMZero x0 x1 s := rfl
theorem exec_mMma x0 x1 x2 x3 x4 x5 x6 s : exec (.mMma x0 x1 x2 x3 x4 x5 x6) s = execMMma x0 x1 x2 x3 x4 x5 x6 s := rfl
theorem exec_mMmaw x0 x1 x2 x3 x4 x5 x6 s : exec (.mMmaw x0 x1 x2 x3 x4 x5 x6) s = execMMmaw x0 x1 x2 x3 x4 x5 x6 s := rfl
theorem exec_mDrain x0 x1 x2 x3 s : exec (.mDrain x0 x1 x2 x3) s = execMDrain x0 x1 x2 x3 s := rfl
theorem exec_mDrainQ x0 x1 x2 s : exec (.mDrainQ x0 x1 x2) s = execMDrainQ x0 x1 x2 s := rfl
theorem exec_mDrainPeer x0 x1 x2 x3 s : exec (.mDrainPeer x0 x1 x2 x3) s = execMDrainPeer x0 x1 x2 x3 s := rfl
theorem exec_mScale x0 x1 x2 s : exec (.mScale x0 x1 x2) s = execMScale x0 x1 x2 s := rfl
theorem exec_mDkr x0 x1 x2 x3 s : exec (.mDkr x0 x1 x2 x3) s = execMDkr x0 x1 x2 x3 s := rfl
theorem exec_mDkw x0 x1 x2 x3 s : exec (.mDkw x0 x1 x2 x3) s = execMDkw x0 x1 x2 x3 s := rfl
theorem exec_mTfree x0 x1 s : exec (.mTfree x0 x1) s = execMTfree x0 x1 s := rfl
theorem exec_mMwait x0 x1 s : exec (.mMwait x0 x1) s = execMMwait x0 x1 s := rfl
theorem exec_mMsave x0 x1 x2 x3 s : exec (.mMsave x0 x1 x2 x3) s = execMMsave x0 x1 x2 x3 s := rfl
theorem exec_mMrest x0 x1 x2 x3 s : exec (.mMrest x0 x1 x2 x3) s = execMMrest x0 x1 x2 x3 s := rfl
theorem exec_mChb x0 x1 x2 x3 x4 s : exec (.mChb x0 x1 x2 x3 x4) s = execMChb x0 x1 x2 x3 x4 s := rfl
theorem exec_mChs x0 x1 x2 x3 s : exec (.mChs x0 x1 x2 x3) s = execMChs x0 x1 x2 x3 s := rfl
theorem exec_mCheQ x0 x1 s : exec (.mCheQ x0 x1) s = execMCheQ x0 x1 s := rfl
theorem exec_mChe x0 x1 x2 s : exec (.mChe x0 x1 x2) s = execMChe x0 x1 x2 s := rfl
theorem exec_mChsv x0 x1 x2 s : exec (.mChsv x0 x1 x2) s = execMChsv x0 x1 x2 s := rfl
theorem exec_mChld x0 x1 x2 s : exec (.mChld x0 x1 x2) s = execMChld x0 x1 x2 s := rfl
theorem exec_fLi x0 x1 s : exec (.fLi x0 x1) s = execFLi x0 x1 s := rfl
theorem exec_fAdd x0 x1 x2 s : exec (.fAdd x0 x1 x2) s = execFAdd x0 x1 x2 s := rfl
theorem exec_fJmp x0 s : exec (.fJmp x0) s = execFJmp x0 s := rfl
theorem exec_fLoop x0 x1 s : exec (.fLoop x0 x1) s = execFLoop x0 x1 s := rfl
theorem exec_fEnd s : exec (.fEnd) s = execFEnd s := rfl
theorem exec_fCopy x0 x1 s : exec (.fCopy x0 x1) s = execFCopy x0 x1 s := rfl
theorem exec_fXlist x0 x1 s : exec (.fXlist x0 x1) s = execFXlist x0 x1 s := rfl
theorem exec_fGath x0 x1 s : exec (.fGath x0 x1) s = execFGath x0 x1 s := rfl
theorem exec_fScat x0 x1 s : exec (.fScat x0 x1) s = execFScat x0 x1 s := rfl
theorem exec_fKvcp x0 x1 s : exec (.fKvcp x0 x1) s = execFKvcp x0 x1 s := rfl
theorem exec_fSvm x0 x1 s : exec (.fSvm x0 x1) s = execFSvm x0 x1 s := rfl
theorem exec_fRing x0 x1 s : exec (.fRing x0 x1) s = execFRing x0 x1 s := rfl
theorem exec_fColl x0 x1 x2 s : exec (.fColl x0 x1 x2) s = execFColl x0 x1 x2 s := rfl
theorem exec_fWait x0 x1 s : exec (.fWait x0 x1) s = execFWait x0 x1 s := rfl
theorem exec_fSig x0 x1 s : exec (.fSig x0 x1) s = execFSig x0 x1 s := rfl
theorem exec_fBar x0 x1 x2 s : exec (.fBar x0 x1 x2) s = execFBar x0 x1 x2 s := rfl
theorem exec_fFence x0 x1 s : exec (.fFence x0 x1) s = execFFence x0 x1 s := rfl
theorem exec_pExt x0 s : exec (.pExt x0) s = execPExt x0 s := rfl
theorem exec_fetch x0 s : exec (.fetch x0) s = execFetch x0 s := rfl
theorem exec_launchQueuePoll s : exec (.launchQueuePoll) s = execLaunchQueuePoll s := rfl
theorem exec_launchStart x0 x1 s : exec (.launchStart x0 x1) s = execLaunchStart x0 x1 s := rfl
theorem exec_launchAcknowledgement x0 x1 s : exec (.launchAcknowledgement x0 x1) s = execLaunchAcknowledgement x0 x1 s := rfl
theorem exec_overflowLaunchStart x0 s : exec (.overflowLaunchStart x0) s = execOverflowLaunchStart x0 s := rfl
theorem exec_itemTake x0 s : exec (.itemTake x0) s = execItemTake x0 s := rfl
theorem exec_itemAging x0 x1 s : exec (.itemAging x0 x1) s = execItemAging x0 x1 s := rfl
theorem exec_flumeStreamStart x0 s : exec (.flumeStreamStart x0) s = execFlumeStreamStart x0 s := rfl
theorem exec_itemCompletion x0 x1 s : exec (.itemCompletion x0 x1) s = execItemCompletion x0 x1 s := rfl
theorem exec_shareComplete x0 x1 s : exec (.shareComplete x0 x1) s = execShareComplete x0 x1 s := rfl
theorem exec_launchCompletion x0 s : exec (.launchCompletion x0) s = execLaunchCompletion x0 s := rfl
theorem exec_timedArrival x0 x1 s : exec (.timedArrival x0 x1) s = execTimedArrival x0 x1 s := rfl
theorem exec_lateDataLanding x0 x1 s : exec (.lateDataLanding x0 x1) s = execLateDataLanding x0 x1 s := rfl
theorem exec_errorResponse x0 x1 s : exec (.errorResponse x0 x1) s = execErrorResponse x0 x1 s := rfl
theorem exec_watchdog x0 x1 s : exec (.watchdog x0 x1) s = execWatchdog x0 x1 s := rfl
theorem exec_qdead x0 x1 s : exec (.qdead x0 x1) s = execQdead x0 x1 s := rfl
theorem exec_sleepEnd x0 x1 s : exec (.sleepEnd x0 x1) s = execSleepEnd x0 x1 s := rfl
theorem exec_messageStore x0 s : exec (.messageStore x0) s = execMessageStore x0 s := rfl
theorem exec_sendBufferRelease x0 x1 s : exec (.sendBufferRelease x0 x1) s = execSendBufferRelease x0 x1 s := rfl
theorem exec_messageDelivery x0 x1 s : exec (.messageDelivery x0 x1) s = execMessageDelivery x0 x1 s := rfl
theorem exec_itemCancellation x0 s : exec (.itemCancellation x0) s = execItemCancellation x0 s := rfl
theorem exec_tileLoadComplete x0 x1 s : exec (.tileLoadComplete x0 x1) s = execTileLoadComplete x0 x1 s := rfl
theorem exec_handleFree x0 x1 s : exec (.handleFree x0 x1) s = execHandleFree x0 x1 s := rfl
theorem exec_landingAutoFree x0 x1 s : exec (.landingAutoFree x0 x1) s = execLandingAutoFree x0 x1 s := rfl
theorem exec_peerAccessAtOwner x0 s : exec (.peerAccessAtOwner x0) s = execPeerAccessAtOwner x0 s := rfl
theorem exec_remoteAtomicAtOwner x0 s : exec (.remoteAtomicAtOwner x0) s = execRemoteAtomicAtOwner x0 s := rfl
theorem exec_sideClaim x0 x1 s : exec (.sideClaim x0 x1) s = execSideClaim x0 x1 s := rfl
theorem exec_chunkResult x0 x1 s : exec (.chunkResult x0 x1) s = execChunkResult x0 x1 s := rfl
theorem exec_drainCompletion x0 x1 s : exec (.drainCompletion x0 x1) s = execDrainCompletion x0 x1 s := rfl
theorem exec_resultQueueRowPush x0 x1 s : exec (.resultQueueRowPush x0 x1) s = execResultQueueRowPush x0 x1 s := rfl
theorem exec_peerAddition x0 s : exec (.peerAddition x0) s = execPeerAddition x0 s := rfl
theorem exec_peerDrainAck x0 x1 s : exec (.peerDrainAck x0 x1) s = execPeerDrainAck x0 x1 s := rfl
theorem exec_mrestCompletion x0 x1 s : exec (.mrestCompletion x0 x1) s = execMrestCompletion x0 x1 s := rfl
theorem exec_chainValuePhase x0 s : exec (.chainValuePhase x0) s = execChainValuePhase x0 s := rfl
theorem exec_chainStepCompletion x0 s : exec (.chainStepCompletion x0) s = execChainStepCompletion x0 s := rfl
theorem exec_chainClose x0 x1 s : exec (.chainClose x0 x1) s = execChainClose x0 x1 s := rfl
theorem exec_chldCompletion x0 x1 s : exec (.chldCompletion x0 x1) s = execChldCompletion x0 x1 s := rfl
theorem exec_taskEntry x0 s : exec (.taskEntry x0) s = execTaskEntry x0 s := rfl
theorem exec_taskStart x0 s : exec (.taskStart x0) s = execTaskStart x0 s := rfl
theorem exec_taskSteal x0 x1 s : exec (.taskSteal x0 x1) s = execTaskSteal x0 x1 s := rfl
theorem exec_taskChunkIssue x0 x1 s : exec (.taskChunkIssue x0 x1) s = execTaskChunkIssue x0 x1 s := rfl
theorem exec_taskDrainCheck x0 x1 s : exec (.taskDrainCheck x0 x1) s = execTaskDrainCheck x0 x1 s := rfl
theorem exec_taskCompletion x0 x1 s : exec (.taskCompletion x0 x1) s = execTaskCompletion x0 x1 s := rfl
theorem exec_taskDecrement x0 s : exec (.taskDecrement x0) s = execTaskDecrement x0 s := rfl
theorem exec_taskAging x0 x1 s : exec (.taskAging x0 x1) s = execTaskAging x0 x1 s := rfl
theorem exec_reportTaken x0 x1 s : exec (.reportTaken x0 x1) s = execReportTaken x0 x1 s := rfl
theorem exec_branchCancellation x0 s : exec (.branchCancellation x0) s = execBranchCancellation x0 s := rfl
theorem exec_semaphoreSignalArrival x0 s : exec (.semaphoreSignalArrival x0) s = execSemaphoreSignalArrival x0 s := rfl
theorem exec_semaphoreWaitArrival x0 s : exec (.semaphoreWaitArrival x0) s = execSemaphoreWaitArrival x0 s := rfl
theorem exec_semaphoreGrantLanding x0 x1 s : exec (.semaphoreGrantLanding x0 x1) s = execSemaphoreGrantLanding x0 x1 s := rfl
theorem exec_smapApply x0 x1 s : exec (.smapApply x0 x1) s = execSmapApply x0 x1 s := rfl
theorem exec_fenceRetirement x0 x1 s : exec (.fenceRetirement x0 x1) s = execFenceRetirement x0 x1 s := rfl
theorem exec_barwRetirement x0 x1 s : exec (.barwRetirement x0 x1) s = execBarwRetirement x0 x1 s := rfl
theorem exec_remoteWaiterRetry x0 x1 s : exec (.remoteWaiterRetry x0 x1) s = execRemoteWaiterRetry x0 x1 s := rfl
theorem exec_writePropagation x0 x1 s : exec (.writePropagation x0 x1) s = execWritePropagation x0 x1 s := rfl
theorem exec_gatomAtHome x0 s : exec (.gatomAtHome x0) s = execGatomAtHome x0 s := rfl
theorem exec_demandZeroInstall x0 x1 s : exec (.demandZeroInstall x0 x1) s = execDemandZeroInstall x0 x1 s := rfl
theorem exec_frameReturn x0 s : exec (.frameReturn x0) s = execFrameReturn x0 s := rfl
theorem exec_storeAcknowledgement x0 x1 s : exec (.storeAcknowledgement x0 x1) s = execStoreAcknowledgement x0 x1 s := rfl
theorem exec_kvStoreApply x0 s : exec (.kvStoreApply x0) s = execKvStoreApply x0 s := rfl
theorem exec_kvForkApply x0 s : exec (.kvForkApply x0) s = execKvForkApply x0 s := rfl
theorem exec_kvFreeApply x0 s : exec (.kvFreeApply x0) s = execKvFreeApply x0 s := rfl
theorem exec_kvPageOperation x0 x1 s : exec (.kvPageOperation x0 x1) s = execKvPageOperation x0 x1 s := rfl
theorem exec_flumePiece x0 x1 s : exec (.flumePiece x0 x1) s = execFlumePiece x0 x1 s := rfl
theorem exec_flumeOperationEnd x0 x1 s : exec (.flumeOperationEnd x0 x1) s = execFlumeOperationEnd x0 x1 s := rfl
theorem exec_svmRun x0 s : exec (.svmRun x0) s = execSvmRun x0 s := rfl
theorem exec_torusPacketArrival x0 s : exec (.torusPacketArrival x0) s = execTorusPacketArrival x0 s := rfl
theorem exec_ringPieceAtTarget x0 s : exec (.ringPieceAtTarget x0) s = execRingPieceAtTarget x0 s := rfl
theorem exec_collectiveStep x0 x1 s : exec (.collectiveStep x0 x1) s = execCollectiveStep x0 x1 s := rfl
theorem exec_goneNotice x0 s : exec (.goneNotice x0) s = execGoneNotice x0 s := rfl
theorem exec_abortNotice x0 x1 s : exec (.abortNotice x0 x1) s = execAbortNotice x0 x1 s := rfl
theorem exec_linkdown x0 s : exec (.linkdown x0) s = execLinkdown x0 s := rfl
theorem exec_mgmtPoll s : exec (.mgmtPoll) s = execMgmtPoll s := rfl
theorem exec_create x0 s : exec (.create x0) s = execCreate x0 s := rfl
theorem exec_destroy x0 s : exec (.destroy x0) s = execDestroy x0 s := rfl
theorem exec_reset x0 s : exec (.reset x0) s = execReset x0 s := rfl
theorem exec_window x0 s : exec (.window x0) s = execWindow x0 s := rfl
theorem exec_keyload x0 s : exec (.keyload x0) s = execKeyload x0 s := rfl
theorem exec_peertab x0 s : exec (.peertab x0) s = execPeertab x0 s := rfl
theorem exec_setquota x0 s : exec (.setquota x0) s = execSetquota x0 s := rfl
theorem exec_stats x0 s : exec (.stats x0) s = execStats x0 s := rfl
theorem exec_quote x0 s : exec (.quote x0) s = execQuote x0 s := rfl
theorem exec_measure x0 s : exec (.measure x0) s = execMeasure x0 s := rfl
theorem exec_pod x0 s : exec (.pod x0) s = execPod x0 s := rfl
theorem exec_bindqp x0 s : exec (.bindqp x0) s = execBindqp x0 s := rfl
theorem exec_schedSet x0 s : exec (.schedSet x0) s = execSchedSet x0 s := rfl
theorem exec_schedSwitch x0 s : exec (.schedSwitch x0) s = execSchedSwitch x0 s := rfl
theorem exec_schedRelease x0 s : exec (.schedRelease x0) s = execSchedRelease x0 s := rfl
theorem exec_lcancel x0 s : exec (.lcancel x0) s = execLcancel x0 s := rfl
theorem exec_bhfault x0 x1 s : exec (.bhfault x0 x1) s = execBhfault x0 x1 s := rfl
theorem exec_uncorrectableError x0 s : exec (.uncorrectableError x0) s = execUncorrectableError x0 s := rfl
theorem exec_correctedError x0 s : exec (.correctedError x0) s = execCorrectedError x0 s := rfl
theorem exec_thermal s : exec (.thermal) s = execThermal s := rfl
theorem exec_coldPlateCritical s : exec (.coldPlateCritical) s = execColdPlateCritical s := rfl
theorem exec_commonBlockError s : exec (.commonBlockError) s = execCommonBlockError s := rfl
theorem exec_rdmaWrite x0 x1 x2 x3 s : exec (.rdmaWrite x0 x1 x2 x3) s = execRdmaWrite x0 x1 x2 x3 s := rfl
theorem exec_rdmaRead x0 x1 x2 x3 s : exec (.rdmaRead x0 x1 x2 x3) s = execRdmaRead x0 x1 x2 x3 s := rfl
theorem exec_rdmaCompareAndSwap x0 x1 x2 x3 x4 s : exec (.rdmaCompareAndSwap x0 x1 x2 x3 x4) s = execRdmaCompareAndSwap x0 x1 x2 x3 x4 s := rfl
theorem exec_rdmaFetchAndAdd x0 x1 x2 x3 s : exec (.rdmaFetchAndAdd x0 x1 x2 x3) s = execRdmaFetchAndAdd x0 x1 x2 x3 s := rfl
theorem exec_rdmaUnsupported x0 s : exec (.rdmaUnsupported x0) s = execRdmaUnsupported x0 s := rfl
theorem exec_powerOn s : exec (.powerOn) s = execPowerOn s := rfl
theorem exec_bootImageSubmit s : exec (.bootImageSubmit) s = execBootImageSubmit s := rfl
theorem exec_trapEntry x0 x1 s : exec (.trapEntry x0 x1) s = execTrapEntry x0 x1 s := rfl
theorem exec_partitionReset x0 s : exec (.partitionReset x0) s = execPartitionReset x0 s := rfl
theorem exec_switchTick x0 s : exec (.switchTick x0) s = execSwitchTick x0 s := rfl
theorem exec_strandSwitchStop x0 x1 s : exec (.strandSwitchStop x0 x1) s = execStrandSwitchStop x0 x1 s := rfl
theorem exec_cellClose x0 s : exec (.cellClose x0) s = execCellClose x0 s := rfl
theorem exec_yarderSave x0 x1 s : exec (.yarderSave x0 x1) s = execYarderSave x0 x1 s := rfl
theorem exec_saveDeadline x0 s : exec (.saveDeadline x0) s = execSaveDeadline x0 s := rfl
theorem exec_restore x0 s : exec (.restore x0) s = execRestore x0 s := rfl
theorem exec_flumeFetch x0 s : exec (.flumeFetch x0) s = execFlumeFetch x0 s := rfl
theorem exec_bulkheadResetComplete x0 s : exec (.bulkheadResetComplete x0) s = execBulkheadResetComplete x0 s := rfl
theorem exec_powerOff s : exec (.powerOff) s = execPowerOff s := rfl
theorem exec_packageResetOrLoss x0 s : exec (.packageResetOrLoss x0) s = execPackageResetOrLoss x0 s := rfl
theorem exec_congestionNotificationPacket x0 s : exec (.congestionNotificationPacket x0) s = execCongestionNotificationPacket x0 s := rfl
theorem exec_priorityFlowControlPause x0 x1 s : exec (.priorityFlowControlPause x0 x1) s = execPriorityFlowControlPause x0 x1 s := rfl

end Sys2Proof.Machine
end

