-- ==== Sys2Proof/Laws/Translate.lean ====
section
/-! SUPPORT. Accesses by address: what a read of pages gives when no word is poisoned, how many bytes a read has, and that the
management window of VF0 can be read and written. -/

namespace Sys2Proof.Machine

open Sys2Proof

theorem span_length (lo n : Nat) : (span lo n).length = n := by
  induction n generalizing lo with
  | zero => rfl
  | succ n ih => simp [span, ih]

theorem mem_span {lo n a : Nat} : a ∈ span lo n ↔ lo ≤ a ∧ a < lo + n := by
  induction n generalizing lo with
  | zero => simp [span]
  | succ n ih => rw [span, List.mem_cons, ih]; omega

theorem mapM_ok {α β ε : Type} {f : α → Except ε β} {g : α → β} (l : List α) (h : ∀ a ∈ l, f a = .ok (g a)) : l.mapM f = .ok (l.map g) := by
  induction l with
  | nil => rfl
  | cons a r ih =>
    rw [List.mapM_cons, h a (.head _), ih (fun b hb => h b (.tail _ hb))]
    rfl

theorem mapM_exists {α β ε : Type} {f : α → Except ε β} (l : List α) (h : ∀ a ∈ l, ∃ b, f a = .ok b) : ∃ r, l.mapM f = .ok r := by
  induction l with
  | nil => exact ⟨[], rfl⟩
  | cons a r ih =>
    obtain ⟨b, hb⟩ := h a (.head _)
    obtain ⟨bs, hr⟩ := ih (fun c hc => h c (.tail _ hc))
    exact ⟨b :: bs, by rw [List.mapM_cons, hb, hr]; rfl⟩

theorem mapM_length {α β ε : Type} {f : α → Except ε β} (l : List α) {r : List β} (h : l.mapM f = .ok r) : r.length = l.length := by
  induction l generalizing r with
  | nil => cases h; rfl
  | cons a l ih =>
    rw [List.mapM_cons] at h
    cases ha : f a with
    | error e => rw [ha] at h; cases h
    | ok b =>
      cases hl : l.mapM f with
      | error e => rw [ha, hl] at h; cases h
      | ok bs => rw [ha, hl] at h; cases h; simp [ih hl]

/-- R320: without poison a read through translated pages has every byte, and 0 in a demand-zero page. -/
theorem State.readPages_clean (s : State) (die : Nat) (pg : List (Nat × Xlat)) (va n : Nat) (h : s.mem.poison = []) :
    s.readPages die pg va n = .ok ((span va n).map (fun a => match paOf pg a with | none => 0 | some pa => s.byteAt die pa)) := by
  refine mapM_ok _ (fun a _ => ?_)
  cases paOf pg a with
  | none => rfl
  | some pa => simp [DevMem.poisoned, h, tget, tfind]

/-- Outside the measurement registers a byte is the one that the die's sequence has. -/
theorem State.byteAt_of (s : State) (die pa : Nat) (h : inMeasures pa = false) : s.byteAt die pa = tget 0 (s.mem.view die) pa := by
  simp [State.byteAt, h]

theorem State.readVa_length {s : State} {agent : Option Nat} {vf die va n : Nat} {l : List Byte} (h : s.readVa agent vf die va n = .ok l) :
    l.length = n := by
  unfold State.readVa at h
  cases hp : s.pages agent vf die va n .rd with
  | error e => rw [hp] at h; cases h
  | ok pg => rw [hp] at h; simpa [span_length] using mapM_length _ (h : s.readPages die pg va n = .ok l)

/-- R424: the management window of VF0 translates for every access but an execution. -/
theorem State.translate_mgmt (s : State) (agent : Option Nat) (die va : Nat) (acc : Acc) (h : mgmtVa ≤ va) (hi : va < mgmtVa + 0x40000) (hx : acc ≠ .ex) :
    s.translate agent 0 die va acc = .ok (.frame ((va - mgmtVa) / frameBytes * frameBytes)) := by
  have hm : inMgmt 0 va = true := by simp [inMgmt, h, hi]
  have hb : ¬ 2 ^ 60 ≤ va := by simp only [mgmtVa] at hi; omega
  unfold State.translate
  rw [if_neg hb, if_pos hm]
  cases acc <;> first | rfl | exact absurd rfl hx

theorem State.pages_mgmt (s : State) (agent : Option Nat) (die va n : Nat) (acc : Acc) (h : mgmtVa ≤ va) (hn : 0 < n)
    (hi : va + n ≤ mgmtVa + 0x40000) (hx : acc ≠ .ex) :
    s.pages agent 0 die va n acc = .ok ((span (va / frameBytes) ((va + n - 1) / frameBytes - va / frameBytes + 1)).map
      (fun p => (p, .frame ((p * frameBytes - mgmtVa) / frameBytes * frameBytes)))) := by
  refine mapM_ok _ (fun p hp => ?_)
  have hp' : va / frameBytes ≤ p ∧ p < va / frameBytes + ((va + n - 1) / frameBytes - va / frameBytes + 1) := mem_span.mp hp
  rw [s.translate_mgmt agent die (p * frameBytes) acc (by simp only [mgmtVa, frameBytes] at *; omega) (by simp only [mgmtVa, frameBytes] at *; omega) hx]

/-- R424: a read in the management window of VF0 succeeds where no word is poisoned. -/
theorem State.readVa_mgmt (s : State) (agent : Option Nat) (die va n : Nat) (h : mgmtVa ≤ va) (hn : 0 < n) (hi : va + n ≤ mgmtVa + 0x40000)
    (hp : s.mem.poison = []) : ∃ l, s.readVa agent 0 die va n = .ok l := by
  unfold State.readVa
  rw [s.pages_mgmt agent die va n .rd h hn hi (by decide)]
  exact ⟨_, s.readPages_clean die _ va n hp⟩

theorem paOf_map {l : List Nat} {f : Nat → Nat} {va pa : Nat} (h : paOf (l.map (fun p => (p, Xlat.frame (f p)))) va = some pa) :
    pa = f (va / frameBytes) + va % frameBytes := by
  unfold paOf at h
  split at h
  · next e heq =>
    have hm := List.mem_of_find?_eq_some heq
    have hp := List.find?_some heq
    simp only [List.mem_map, Prod.mk.injEq, Xlat.frame.injEq] at hm
    obtain ⟨p, _, hp1, hp2⟩ := hm
    simp only [beq_iff_eq] at hp
    subst hp2
    subst hp1
    cases h
    rw [hp]
  · cases h

/-- R424: memory that holds nothing reads as zeros there, past the measurement registers. -/
theorem State.readVa_mgmt_zero (s : State) (agent : Option Nat) (die va n : Nat) (h : mgmtVa + 0x1000 ≤ va) (hn : 0 < n)
    (hi : va + n ≤ mgmtVa + 0x40000) (hp : s.mem.poison = []) (hz : ∀ a, tget 0 (s.mem.view die) a = 0) :
    s.readVa agent 0 die va n = .ok (List.replicate n 0#8) := by
  unfold State.readVa
  rw [s.pages_mgmt agent die va n .rd (Nat.le_trans (Nat.le_add_right _ _) h) hn hi (by decide)]
  refine (s.readPages_clean die _ va n hp).trans (congrArg Except.ok ?_)
  refine Eq.trans (List.map_congr_left (g := fun _ => (0 : Byte)) (fun a ha => ?_)) (by rw [List.map_const', span_length]; rfl)
  have hb := mem_span.mp ha
  split
  · rfl
  · next pa hpa =>
    have := paOf_map hpa
    have ho : 0x900 ≤ pa := by simp only [mgmtVa, frameBytes] at *; omega
    have hm : inMeasures pa = false := by simp [inMeasures, ho]
    rw [s.byteAt_of die pa hm, hz pa]

theorem State.installPages_frames (s : State) (vf die va : Nat) (l : List Nat) (f : Nat → Nat) :
    s.installPages vf die va (l.map (fun p => (p, Xlat.frame (f p)))) = .ok s := by
  induction l with
  | nil => rfl
  | cons p r ih => exact ih

/-- R424: a write in the management window of VF0 succeeds. -/
theorem State.writeVa_mgmt (s : State) (agent : Option Nat) (die va : Nat) (l : List Byte) (h : mgmtVa ≤ va) (hn : 0 < l.length)
    (hi : va + l.length ≤ mgmtVa + 0x40000) : ∃ r, s.writeVa agent 0 die va l = .ok r := by
  unfold State.writeVa
  rw [s.pages_mgmt agent die va l.length .wr h hn hi (by decide)]
  simp only [bind, Except.bind, State.installPages_frames, pure, Except.pure, s.pages_mgmt agent die va l.length .wr h hn hi (by decide)]
  exact ⟨_, rfl⟩

/-! ### Zeroed and placed ranges, and an access within one page -/

theorem tfind_filter_keys {α : Type} (p : Nat → Bool) (t : Table α) (k : Nat) (h : p k = true) : tfind k (t.filter (fun e => p e.1)) = tfind k t := by
  induction t with
  | nil => rfl
  | cons e r ih =>
    by_cases he : p e.1 = true
    · rw [List.filter_cons_of_pos (by simpa using he)]
      unfold tfind
      rw [ih]
    · have hk : e.1 ≠ k := fun q => he (q ▸ h)
      rw [List.filter_cons_of_neg (by simpa using he), ih]
      simp [tfind, hk]

/-- A place outside a zeroed range reads as before. -/
theorem tget_tclear_outside {α : Type} (d : α) (t : Table α) (lo n x : Nat) (h : x < lo ∨ lo + n ≤ x) : tget d (tclear t lo n) x = tget d t x := by
  unfold tget tclear
  rw [tfind_filter_keys (fun k => !(decide (lo ≤ k) && decide (k < lo + n))) t x (by simp; omega)]

theorem tfind_map_keys {α : Type} (f : α → α) (t : Table α) (k : Nat) : tfind k (t.map (fun e => (e.1, f e.2))) = (tfind k t).map f := by
  induction t with
  | nil => rfl
  | cons e r ih =>
    simp only [List.map_cons, tfind]
    split <;> simp_all

theorem DevMem.enterMany_idle (m : DevMem) (d n : Nat) (h : m.flight = []) : m.enterMany d n = m := by
  induction n with
  | zero => rfl
  | succ n ih => simp only [DevMem.enterMany, DevMem.enterOne, h, List.find?_nil, ih]

/-- Nothing is in flight: there is nothing to take. -/
theorem State.settle_idle {s : State} (h : s.mem.flight = []) : s.settle = s := by
  simp only [State.settle, List.foldl, DevMem.enterMany_idle _ _ _ h]

@[simp] theorem DevMem.onTurns_view (m : DevMem) (f : AtomTurn → AtomTurn) (k : Nat) : (m.onTurns f).view k = m.view k := by
  unfold DevMem.onTurns; split <;> rfl

@[simp] theorem DevMem.onTurns_flight (m : DevMem) (f : AtomTurn → AtomTurn) : (m.onTurns f).flight = m.flight := by
  unfold DevMem.onTurns; split <;> rfl

@[simp] theorem DevMem.onTurns_home (m : DevMem) (f : AtomTurn → AtomTurn) : (m.onTurns f).home = m.home := by
  unfold DevMem.onTurns; split <;> rfl

@[simp] theorem DevMem.onTurns_poison (m : DevMem) (f : AtomTurn → AtomTurn) : (m.onTurns f).poison = m.poison := by
  unfold DevMem.onTurns; split <;> rfl

theorem State.view_zeroMem {s : State} (h : s.mem.flight = []) (lo n d : Nat) : (s.zeroMem lo n).mem.view d = tclear (s.mem.view d) lo n := by
  have hk := tfind_map_keys (fun t => tclear t lo n) s.mem.views d
  simp only [State.zeroMem, State.settle_idle h, DevMem.passAll, DevMem.onTurns_view]
  change (tfind d (s.mem.views.map (fun e => (e.1, tclear e.2 lo n)))).getD [] = tclear ((tfind d s.mem.views).getD []) lo n
  rw [hk]
  cases tfind d s.mem.views <;> rfl

@[simp] theorem State.zeroMem_flight {s : State} (h : s.mem.flight = []) (lo n : Nat) : (s.zeroMem lo n).mem.flight = [] := by
  simp only [State.zeroMem, State.settle_idle h, h, DevMem.passAll, DevMem.onTurns_flight]

@[simp] theorem DevMem.pass_view (m : DevMem) (d : Nat) (hit : Nat → Bool) (k : Nat) : (m.pass d hit).view k = m.view k := by
  unfold DevMem.pass; split <;> rfl

@[simp] theorem DevMem.cure_view (m : DevMem) (l : List (Nat × Byte)) (k : Nat) : (m.cure l).view k = m.view k := by
  unfold DevMem.cure; split <;> rfl

@[simp] theorem DevMem.pass_poison (m : DevMem) (d : Nat) (hit : Nat → Bool) : (m.pass d hit).poison = m.poison := by
  unfold DevMem.pass; split <;> rfl

@[simp] theorem DevMem.cure_flight (m : DevMem) (l : List (Nat × Byte)) : (m.cure l).flight = m.flight := by
  unfold DevMem.cure; split <;> rfl

theorem State.view_enterWrite (s : State) (die : Nat) (l : List (Nat × Byte)) : (s.enterWrite die l).2.mem.view die = writeAll (s.mem.view die) l := by
  simp only [State.enterWrite, DevMem.onTurns_view, DevMem.pass_view, DevMem.cure_view]
  change tget [] (tput die (writeAll (s.mem.view die) l) s.mem.views) die = _
  rw [tget_tput, if_pos rfl]

theorem State.view_kvPlace_zero {s : State} (h : s.mem.flight = []) (l : List (Nat × Byte)) :
    (s.kvPlace l).mem.view 0 = writeAll (s.mem.view 0) l := by
  simp only [State.kvPlace, State.settle_idle h, DevMem.passAll, DevMem.onTurns_view, DevMem.cure_view]
  change tget [] (tput 3 _ (tput 2 _ (tput 1 _ (tput 0 (writeAll (s.mem.view 0) l) s.mem.views)))) 0 = _
  simp only [tget_tput]
  rfl

theorem State.kvPlace_flight {s : State} (h : s.mem.flight = []) (l : List (Nat × Byte)) : (s.kvPlace l).mem.flight = [] := by
  simp only [State.kvPlace, State.settle_idle h, DevMem.passAll, DevMem.onTurns_flight, DevMem.cure_flight, h]

theorem leRead_congr {t u : Table Byte} {n a b : Nat} (h : ∀ i, i < n → tget 0 t (a + i) = tget 0 u (b + i)) : leRead t a n = leRead u b n := by
  induction n generalizing a b with
  | zero => rfl
  | succ n ih =>
    have h0 := h 0 (by omega)
    simp only [Nat.add_zero] at h0
    rw [leRead, leRead, h0, ih (fun i hi => by have := h (i + 1) (by omega); rwa [← Nat.add_assoc, Nat.add_right_comm, ← Nat.add_assoc, Nat.add_right_comm b] at this)]

/-- R316: an access within one page has that page's translation. -/
theorem State.pages_one (s : State) (vf die va n p : Nat) (acc : Acc) (x : Xlat) (hp : va / frameBytes = p) (he : (va + n - 1) / frameBytes = p)
    (ht : s.translate none vf die (p * frameBytes) acc = .ok x) : s.pages none vf die va n acc = .ok [(p, x)] := by
  unfold State.pages
  rw [hp, he, Nat.sub_self]
  simp only [span, List.mapM_cons, List.mapM_nil, ht]
  rfl

theorem span_getElem (lo n i : Nat) (h : i < (span lo n).length) : (span lo n)[i] = lo + i := by
  induction n generalizing lo i with
  | zero => simp [span] at h
  | succ n ih =>
    cases i with
    | zero => rfl
    | succ i => simp only [span, List.getElem_cons_succ, ih]; omega

theorem bytesAt_getD (t : Table Byte) (a n i : Nat) (h : i < n) : (bytesAt t a n).getD i 0 = tget 0 t (a + i) := by
  have hl : i < (span a n).length := by rwa [span_length]
  simp [bytesAt, List.getD, List.getElem?_eq_getElem hl, span_getElem]

theorem bytesAt_congr {t u : Table Byte} {n a b : Nat} (h : ∀ i, i < n → tget 0 t (a + i) = tget 0 u (b + i)) : bytesAt t a n = bytesAt u b n := by
  refine List.ext_getElem (by simp [bytesAt, span_length]) (fun i h1 h2 => ?_)
  rw [bytesAt, List.length_map, span_length] at h1
  simpa [bytesAt, span_getElem] using h i h1

/-- R316: a read within one resident page, without poison, gives the bytes of its frame. -/
theorem State.readVa_one (s : State) (vf die va n p pa : Nat) (hp : va / frameBytes = p) (he : (va + n - 1) / frameBytes = p)
    (ht : s.translate none vf die (p * frameBytes) .rd = .ok (.frame pa)) (hz : s.mem.poison = [])
    (ho : 0x900 ≤ pa + va % frameBytes) :
    s.readVa none vf die va n = .ok (bytesAt (s.mem.view die) (pa + va % frameBytes) n) := by
  unfold State.readVa
  rw [State.pages_one s vf die va n p .rd _ hp he ht]
  refine (s.readPages_clean die _ va n hz).trans (congrArg Except.ok ?_)
  unfold bytesAt
  refine List.ext_getElem (by simp [span_length]) (fun i h1 h2 => ?_)
  rw [List.length_map, span_length] at h1
  have hi : (va + i) / frameBytes = p := by simp only [frameBytes] at *; omega
  have hm : (va + i) % frameBytes = va % frameBytes + i := by simp only [frameBytes] at *; omega
  have hb := s.byteAt_of die (pa + (va % frameBytes + i)) (by simp [inMeasures]; omega)
  simp [span_getElem, paOf, hi, hm, hb, Nat.add_assoc]

end Sys2Proof.Machine
end

