-- ==== Sys2Proof/Laws/Quote.lean ====
section
/-! SUPPORT. The lengths of what QUOTE writes: hashes of 32 bytes, a body of 376 bytes, signatures whose length depends on nothing. -/

namespace Sys2Proof

open Sys2Proof.Machine

theorem upto_length (n : Nat) : (upto n).length = n := span_length 0 n

theorem beBytes_length (v n : Nat) : (beBytes v n).length = n := by simp [beBytes, upto_length]

theorem leBytes_length (v n : Nat) : (leBytes v n).length = n := by
  induction n generalizing v with
  | zero => rfl
  | succ n ih => simp [leBytes, ih]

theorem bytesAt_length (t : Table Byte) (a n : Nat) : (bytesAt t a n).length = n := by simp [bytesAt, span_length]

theorem nodeBytes_length (x : Node) : (nodeBytes x).length = 32 := beBytes_length _ _

theorem shaBlock_length (h : List (BitVec 32)) (b : List Byte) (hh : h.length = 8) : (shaBlock h b).length = 8 := by
  have round (l v : List (BitVec 32)) (hv : v.length = 8) : (l.foldl shaRound v).length = 8 := by
    induction l generalizing v with
    | nil => exact hv
    | cons k r ih => exact ih _ rfl
  simp [shaBlock, round _ h hh, hh]

/-- A hash has 32 bytes. -/
theorem sha256_length (m : List Byte) : (sha256 m).length = 32 := by
  have block (l : List (List Byte)) (v : List (BitVec 32)) (hv : v.length = 8) : (l.foldl shaBlock v).length = 8 := by
    induction l generalizing v with
    | nil => exact hv
    | cons k r ih => exact ih _ (shaBlock_length v k hv)
  simp [sha256, List.length_flatMap, beBytes_length, List.map_const', block _ shaInit rfl]

end Sys2Proof

namespace Sys2Proof.Machine

open Sys2Proof

theorem lmsSign_length (id : BitVec 128) (seed : Node) (h typ q : Nat) (c : Node) (msg : List Byte) :
    (lmsSign id seed h typ q c msg).length = 1132 + 32 * h := by
  simp [lmsSign, beBytes_length, nodeBytes_length, upto_length, List.length_flatMap, List.map_const']; omega

theorem lmsPublic_length (id : BitVec 128) (seed : Node) (h typ : Nat) : (lmsPublic id seed h typ).length = 56 := by
  simp [lmsPublic, beBytes_length, nodeBytes_length]

/-- R394: every HSS signature has the same length. -/
theorem hssSignature_length (d : List Byte) (e n : Nat) : (hssSignature d e n).length = 3444 := by
  simp [hssSignature, bottomKey, beBytes_length, lmsSign_length, lmsPublic_length]

/-- R394: a quote's body has 376 bytes when its slot is whole. -/
theorem State.quoteBody_length (s : State) (vf : Nat) (h : 48 ≤ s.mgmt.slot.length) : (s.quoteBody vf).length = 376 := by
  have hm : ((upto 8).flatMap s.measure).length = 256 := by
    simp [State.measure, List.length_flatMap, nodeBytes_length, List.map_const', upto_length]
  simp [State.quoteBody, leBytes_length, sha256_length, hm]; omega

end Sys2Proof.Machine
end

