-- ==== Sys2Proof/Laws/Start.lean ====
section
/-! SUPPORT. The laws of starting an operation: what State.startOp adds and leaves, that pops and retirement leave the operations in flight,
and one lemma for a word that starts an operation. -/

namespace Sys2Proof.Machine

open Sys2Proof

/-- The operation that State.startOp adds, before its own fields are set. -/
def State.newOp (s : State) (lat : Nat) (body : OpBody) : Op :=
  { id := s.nextId, sc := s.cur.sc, eng := s.cur.eng, ent := s.cur.ent, slot := s.cur.replay.isSome, issued := s.now, due := s.now + lat,
    body := body }

@[simp] theorem State.startOp_cur (s : State) (lat : Nat) (body : OpBody) (f : Op → Op) : (s.startOp lat body f).2.cur = s.cur := rfl
@[simp] theorem State.startOp_mem (s : State) (lat : Nat) (body : OpBody) (f : Op → Op) : (s.startOp lat body f).2.mem = s.mem := rfl
@[simp] theorem State.startOp_id (s : State) (lat : Nat) (body : OpBody) (f : Op → Op) : (s.startOp lat body f).1 = s.nextId := rfl

theorem State.startOp_here (s : State) (lat : Nat) (body : OpBody) (f : Op → Op) :
    (s.startOp lat body f).2.here = { s.here with ops := s.here.ops ++ [f (s.newOp lat body)] } := by
  have h : (s.startOp lat body f).2.here = (s.startOp lat body f).2.cell s.cur.cell := rfl
  rw [h]
  simp only [State.startOp, State.fresh, State.addOp, State.cell_modCell_same]
  rfl

theorem State.startOp_cell_other (s : State) (lat : Nat) (body : OpBody) (f : Op → Op) {c : Nat} (h : c ≠ s.cur.cell) :
    (s.startOp lat body f).2.cell c = s.cell c := by
  simp only [State.startOp, State.fresh, State.addOp, State.cell_modCell_other _ h]
  rfl

@[simp] theorem State.startOp_ops (s : State) (lat : Nat) (body : OpBody) (f : Op → Op) :
    (s.startOp lat body f).2.ops s.cur.cell = s.ops s.cur.cell ++ [f (s.newOp lat body)] :=
  congrArg Cell.ops (s.startOp_here lat body f)

@[simp] theorem State.startOp_me (s : State) (lat : Nat) (body : OpBody) (f : Op → Op) : (s.startOp lat body f).2.me = s.me := by
  rw [State.me_here, State.startOp_here]
  rfl

@[simp] theorem State.startOp_now (s : State) (lat : Nat) (body : OpBody) (f : Op → Op) : (s.startOp lat body f).2.now = s.now := by
  simp [State.now, State.startOp_here]

/-! ### What pops and retirement leave of the cells -/

/-- A change of strands leaves every part of a cell that a function of it reads past its strands. -/
theorem State.cell_modStrand_part {β : Type} (p : Cell → β) (hp : ∀ (x : Cell) (l : Table Strand), p { x with strands := l } = p x)
    (s : State) (c k : Nat) (f : Strand → Strand) (d : Nat) : p ((s.modStrand c k f).cell d) = p (s.cell d) := by
  by_cases h : d = c
  · subst h
    rw [State.cell_modStrand_same]
    exact hp _ _
  · rw [State.cell_modStrand_other s h]

theorem State.cell_popped {β : Type} (p : Cell → β) (hp : ∀ (x : Cell) (l : Table Strand), p { x with strands := l } = p x) (s : State)
    (rs : List (BitVec 6)) (d : Nat) : p ((s.popped rs).cell d) = p (s.cell d) := State.cell_modStrand_part p hp ..

theorem State.cell_vpopped {β : Type} (p : Cell → β) (hp : ∀ (x : Cell) (l : Table Strand), p { x with strands := l } = p x) (s : State)
    (rs : List (BitVec 5)) (d : Nat) : p ((s.vpopped rs).cell d) = p (s.cell d) := State.cell_modStrand_part p hp ..

/-- Retirement leaves every part of a cell but its strands and its issue bookkeeping. -/
theorem State.cell_retire {β : Type} (p : Cell → β)
    (hp : ∀ (x : Cell) (l : Table Strand) (a b : Table Nat), p { x with strands := l, lastIssue := a, busy := b } = p x)
    (s : State) (occ d : Nat) : p ((s.retire occ).cell d) = p (s.cell d) := by
  have hs : ∀ (f : Strand → Strand) (x : Cell), p (x.modStrand s.cur.sc f) = p x := fun f x => hp x _ x.lastIssue x.busy
  unfold State.retire
  by_cases h : d = s.cur.cell
  · subst h
    cases hr : s.cur.replay <;> simp only [State.modHere, State.modMe] <;>
      exact (congrArg p (State.cell_modCell_same _ _ _)).trans
        ((hp _ _ _ _).trans ((congrArg p (State.cell_modStrand_same _ _ _ _)).trans (hs _ _)))
  · cases hr : s.cur.replay <;> simp only [State.modHere, State.modMe] <;>
      exact congrArg p ((State.cell_modCell_other _ h _).trans (State.cell_modStrand_other _ h _ _))

@[simp] theorem State.retire_ops (s : State) (occ c : Nat) : (s.retire occ).ops c = s.ops c := State.cell_retire Cell.ops (fun _ _ _ _ => rfl) s occ c
@[simp] theorem State.popped_ops (s : State) (rs : List (BitVec 6)) (c : Nat) : (s.popped rs).ops c = s.ops c :=
  State.cell_popped Cell.ops (fun _ _ => rfl) s rs c
@[simp] theorem State.vpopped_ops (s : State) (rs : List (BitVec 5)) (c : Nat) : (s.vpopped rs).ops c = s.ops c :=
  State.cell_vpopped Cell.ops (fun _ _ => rfl) s rs c
@[simp] theorem State.popped_mem (s : State) (rs : List (BitVec 6)) : (s.popped rs).mem = s.mem := rfl
@[simp] theorem State.vpopped_cur (s : State) (rs : List (BitVec 5)) : (s.vpopped rs).cur = s.cur := rfl
@[simp] theorem State.vpopped_mem (s : State) (rs : List (BitVec 5)) : (s.vpopped rs).mem = s.mem := rfl
@[simp] theorem State.vpopped_now (s : State) (rs : List (BitVec 5)) : (s.vpopped rs).now = s.now :=
  State.cell_vpopped Cell.time (fun _ _ => rfl) s rs s.cur.cell


/-- Pops of scalar sources leave every handle of the cells. -/
theorem State.popped_cellHandle (s : State) (rs : List (BitVec 6)) (c : Nat) (h : Dword) : (s.popped rs).cellHandle c h = s.cellHandle c h := by
  have ht := State.cell_popped Cell.table (fun _ _ => rfl) s rs
  simp [State.cellHandle, Cell.checkEntry, Cell.liveEntry, Cell.entry, ht]

theorem State.popped_landHandle (s : State) (rs : List (BitVec 6)) (c : Nat) (h : Dword) : (s.popped rs).landHandle c h = s.landHandle c h := rfl

/-! ### A word that starts an operation -/

theorem State.started_retire {s t : State} {lat : Nat} {p : Op → Prop} (occ : Nat) (h : s.started t lat p) : s.started (t.retire occ) lat p := by
  obtain ⟨o, h1, h2⟩ := h
  exact ⟨o, by simpa using h1, h2⟩

theorem State.started_startOp {s t : State} {lat : Nat} {body : OpBody} {f : Op → Op} {p : Op → Prop} (hc : t.cur = s.cur)
    (ho : t.ops s.cur.cell = s.ops s.cur.cell) (hn : t.now = s.now)
    (hf : ∀ o, (f o).sc = o.sc ∧ (f o).eng = o.eng ∧ (f o).ent = o.ent ∧ (f o).due = o.due) (hp : ∀ o, o.body = body → p (f o)) :
    s.started (t.startOp lat body f).2 lat p := by
  refine ⟨f (t.newOp lat body), ?_, ?_, ?_, ?_, ?_, hp _ rfl⟩
  · have h := t.startOp_ops lat body f
    rw [hc, ho] at h
    exact h
  · rw [(hf _).1, ← hc]; rfl
  · rw [(hf _).2.1, ← hc]; rfl
  · rw [(hf _).2.2.1, ← hc]; rfl
  · rw [(hf _).2.2.2, ← hn]; rfl

/-- A word with scalar sources that are ready and sound is its body on what they hold, after their pops. -/
theorem issueWord_scalars {s : State} {g : Guard} (ok : Bool) (hg : s.granted g) (hp : ok = true ∨ s.unprefixed) (rs : List (BitVec 6))
    (hs : s.sources rs) (k : List Sval → State → Issue) :
    issueWord ok g s (fun s => withScalars rs s (fun xs s => noPoison xs (k xs s))) = (k (rs.map s.me.readS) (s.popped rs)).outcome s := by
  rw [issueWord_granted hg ok hp, withScalars_ready hg.1 hs.1, noPoison_sound hs.2]

end Sys2Proof.Machine
end

