-- ==== Sys2Proof/Tests/Slice0.lean ====
section
/-! SUPPORT. Tests: words written out from the spec's encodings and the instructions that they stand for, terms and words that the checks
refuse, one-step cases worked in the spec, and for each statement with hypotheses a state and operands that meet them. -/

namespace Sys2Proof.Tests

open Sys2Proof Sys2Proof.Machine

set_option maxRecDepth 20000

/-! ### Words written out from the encodings of the spec -/

/-- R105: the words of B. -/
theorem test_decode_control_1 :
    decodeWord 0b000_0000000_0_011_000000_000000_000000 = .ok (.bNop ⟨false, 3⟩) ∧
    decodeWord 0b000_0000001_1_010_111111_111111_111101 = .ok (.bJmp ⟨true, 2⟩ 0x3FFFD) ∧
    decodeWord 0b000_0000010_0_000_000000_000111_000000 = .ok (.bJmpr ⟨false, 0⟩ 7) ∧
    decodeWord 0b000_0000011_0_011_000001_000001_000011 = .ok (.bCall ⟨false, 3⟩ 0x01043) ∧
    decodeWord 0b000_0000100_1_010_000000_001001_000000 = .ok (.bCallr ⟨true, 2⟩ 9) ∧
    decodeWord 0b000_0000101_0_000_000000_000000_000000 = .ok (.bRet ⟨false, 0⟩) ∧
    decodeWord 0b000_0000110_0_011_0_101_10_001011_111110 = .ok (.bLoop ⟨false, 3⟩ 5 2 11 62) ∧
    decodeWord 0b000_0000111_1_010_0000_11_000000_000000 = .ok (.bLbrk ⟨true, 2⟩ 3) ∧
    decodeWord 0b000_0001000_0_000_000000_000000_000000 = .ok (.bHalt ⟨false, 0⟩) ∧
    decodeWord 0b000_0001001_0_011_000000_000000_000000 = .ok (.bYield ⟨false, 3⟩) :=
  ⟨rfl, rfl, rfl, rfl, rfl, rfl, rfl, rfl, rfl, rfl⟩

/-- R105: the words of B. -/
theorem test_decode_control_2 :
    decodeWord 0b000_0001010_1_010_000000_000111_000000 = .ok (.bSleep ⟨true, 2⟩ 7) ∧
    decodeWord 0b000_0001011_0_000_000010_000001_000001 = .ok (.bArm ⟨false, 0⟩ 0x02041) ∧
    decodeWord 0b000_0001100_0_011_110010_110000_00_0010 = .ok (.bMsg ⟨false, 3⟩ 50 48 2) ∧
    decodeWord 0b000_0001101_1_010_111111_000000_000001 = .ok (.bTrap ⟨true, 2⟩ 0x3F001) ∧
    decodeWord 0b000_0001110_0_000_000001_000000_000000 = .ok (.bSys ⟨false, 0⟩ 0x01000) ∧
    decodeWord 0b000_0001111_0_011_000000_000000_000000 = .ok (.bRfe ⟨false, 3⟩) ∧
    decodeWord 0b000_0010000_1_010_0000_10_000000_100001 = .ok (.bFmt ⟨true, 2⟩ 2 33) ∧
    decodeWord 0b000_0010001_0_000_000000_000000_000000 = .ok (.bPpt ⟨false, 0⟩) ∧
    decodeWord 0b000_0010010_0_011_000000_000101_000000 = .ok (.bPost ⟨false, 3⟩ 5) ∧
    decodeWord 0b000_0010011_1_010_000000_000110_000000 = .ok (.bTdec ⟨true, 2⟩ 6) :=
  ⟨rfl, rfl, rfl, rfl, rfl, rfl, rfl, rfl, rfl, rfl⟩

/-- R105: the words of B. -/
theorem test_decode_control_3 :
    decodeWord 0b000_0010100_0_000_000000_000111_001000 = .ok (.bCancel ⟨false, 0⟩ 7 8) ∧
    decodeWord 0b000_0010100_0_011_000001_000111_001000 = .ok (.bCancelL ⟨false, 3⟩ 7 8) ∧
    decodeWord 0b000_0010101_1_010_000000_000100_000000 = .ok (.bLaunch ⟨true, 2⟩ 4) ∧
    decodeWord 0b000_0010110_0_000_000110_0000_11000101 = .ok (.bWait ⟨false, 0⟩ 6 0xC5) ∧
    decodeWord 0b000_0010111_0_011_000110_0000_01000101 = .ok (.bSig ⟨false, 3⟩ 6 0x45) ∧
    decodeWord 0b000_0011000_1_010_000000_000011_000010 = .ok (.bSmap ⟨true, 2⟩ 3 2) :=
  ⟨rfl, rfl, rfl, rfl, rfl, rfl⟩

/-- R105: the words of S. -/
theorem test_decode_scalar_1 :
    decodeWord 0b001_0000000_0_011_000100_000101_100110 = .ok (.sAdd ⟨false, 3⟩ 4 5 38) ∧
    decodeWord 0b001_0000001_1_010_000100_000101_100110 = .ok (.sSub ⟨true, 2⟩ 4 5 38) ∧
    decodeWord 0b001_0000011_0_000_000100_000101_100110 = .ok (.sMul ⟨false, 0⟩ 4 5 38) ∧
    decodeWord 0b001_0000100_0_011_000100_000101_100110 = .ok (.sMulh ⟨false, 3⟩ 4 5 38) ∧
    decodeWord 0b001_0000101_1_010_000100_000101_100110 = .ok (.sMulhn ⟨true, 2⟩ 4 5 38) ∧
    decodeWord 0b001_0000110_0_000_000100_000101_100110 = .ok (.sDiv ⟨false, 0⟩ 4 5 38) ∧
    decodeWord 0b001_0000111_0_011_000100_000101_100110 = .ok (.sDivn ⟨false, 3⟩ 4 5 38) ∧
    decodeWord 0b001_0001000_1_010_000100_000101_100110 = .ok (.sRem ⟨true, 2⟩ 4 5 38) ∧
    decodeWord 0b001_0001001_0_000_000100_000101_100110 = .ok (.sRemn ⟨false, 0⟩ 4 5 38) ∧
    decodeWord 0b001_0001010_0_011_000100_000101_100110 = .ok (.sAnd ⟨false, 3⟩ 4 5 38) :=
  ⟨rfl, rfl, rfl, rfl, rfl, rfl, rfl, rfl, rfl, rfl⟩

/-- R105: the words of S. -/
theorem test_decode_scalar_2 :
    decodeWord 0b001_0001011_1_010_000100_000101_100110 = .ok (.sOr ⟨true, 2⟩ 4 5 38) ∧
    decodeWord 0b001_0001100_0_000_000100_000101_100110 = .ok (.sXor ⟨false, 0⟩ 4 5 38) ∧
    decodeWord 0b001_0001101_0_011_000100_000101_100110 = .ok (.sAndn ⟨false, 3⟩ 4 5 38) ∧
    decodeWord 0b001_0001110_1_010_000100_000101_100110 = .ok (.sShl ⟨true, 2⟩ 4 5 38) ∧
    decodeWord 0b001_0001111_0_000_000100_000101_100110 = .ok (.sShr ⟨false, 0⟩ 4 5 38) ∧
    decodeWord 0b001_0010000_0_011_000100_000101_100110 = .ok (.sSra ⟨false, 3⟩ 4 5 38) ∧
    decodeWord 0b001_0010001_1_010_000100_000101_100110 = .ok (.sRot ⟨true, 2⟩ 4 5 38) ∧
    decodeWord 0b001_0010101_0_000_000100_000101_100110 = .ok (.sMin ⟨false, 0⟩ 4 5 38) ∧
    decodeWord 0b001_0010110_0_011_000100_000101_100110 = .ok (.sMax ⟨false, 3⟩ 4 5 38) ∧
    decodeWord 0b001_0010111_1_010_000100_000101_100110 = .ok (.sMinn ⟨true, 2⟩ 4 5 38) :=
  ⟨rfl, rfl, rfl, rfl, rfl, rfl, rfl, rfl, rfl, rfl⟩

/-- R105: the words of S. -/
theorem test_decode_scalar_3 :
    decodeWord 0b001_0011000_0_000_000100_000101_100110 = .ok (.sMaxn ⟨false, 0⟩ 4 5 38) ∧
    decodeWord 0b001_0011011_0_011_000100_000101_100110 = .ok (.sExt ⟨false, 3⟩ 4 5 38) ∧
    decodeWord 0b001_0011100_1_010_000100_000101_100110 = .ok (.sIns ⟨true, 2⟩ 4 5 38) ∧
    decodeWord 0b001_0000010_0_000_000100_000101_100110 = .ok (.sAddi ⟨false, 0⟩ 4 5 38) ∧
    decodeWord 0b001_0010010_0_011_000100_000101_100110 = .ok (.sShli ⟨false, 3⟩ 4 5 38) ∧
    decodeWord 0b001_0010011_1_010_000100_000101_100110 = .ok (.sShri ⟨true, 2⟩ 4 5 38) ∧
    decodeWord 0b001_0010100_0_000_000100_000101_100110 = .ok (.sSrai ⟨false, 0⟩ 4 5 38) ∧
    decodeWord 0b001_0011001_0_011_000100_100101_000000 = .ok (.sClz ⟨false, 3⟩ 4 37) ∧
    decodeWord 0b001_0011010_1_010_000100_100101_000000 = .ok (.sPopc ⟨true, 2⟩ 4 37) ∧
    decodeWord 0b001_0011101_0_000_000100_100101_000000 = .ok (.sMov ⟨false, 0⟩ 4 37) :=
  ⟨rfl, rfl, rfl, rfl, rfl, rfl, rfl, rfl, rfl, rfl⟩

/-- R105: the words of S. -/
theorem test_decode_scalar_4 :
    decodeWord 0b001_0011110_0_011_001001_111111_000001 = .ok (.sLi ⟨false, 3⟩ 9 0xFC1) ∧
    decodeWord 0b001_0100000_1_010_110_010_000100_000101 = .ok (.sCmp ⟨true, 2⟩ 6 2 4 5) ∧
    decodeWord 0b001_0100001_0_000_101_001_000100_111111 = .ok (.sCmpi ⟨false, 0⟩ 5 1 4 63) ∧
    decodeWord 0b001_0100010_0_011_000001_000010_000011 = .ok (.sPand ⟨false, 3⟩ 1 2 3) ∧
    decodeWord 0b001_0100011_1_010_000001_000010_000011 = .ok (.sPor ⟨true, 2⟩ 1 2 3) ∧
    decodeWord 0b001_0100100_0_000_000001_000010_000011 = .ok (.sPxor ⟨false, 0⟩ 1 2 3) ∧
    decodeWord 0b001_0100101_0_011_000100_000101_000000 = .ok (.sPnot ⟨false, 3⟩ 4 5) ∧
    decodeWord 0b001_0100110_1_010_001000_000000_000_111 = .ok (.sWid ⟨true, 2⟩ 8 7) ∧
    decodeWord 0b001_0100111_0_000_000100_0000_00110001 = .ok (.sRdsr ⟨false, 0⟩ 4 0x031) ∧
    decodeWord 0b001_0101000_0_011_000110_0000_00010001 = .ok (.sWrsr ⟨false, 3⟩ 6 0x011) :=
  ⟨rfl, rfl, rfl, rfl, rfl, rfl, rfl, rfl, rfl, rfl⟩

/-- R105: the words of S. -/
theorem test_decode_scalar_5 :
    decodeWord 0b001_0101001_1_010_001100_000000_000000 = .ok (.sRdcyc ⟨true, 2⟩ 12) ∧
    decodeWord 0b001_0101010_0_000_000000_001001_000000 = .ok (.sChk ⟨false, 0⟩ 9) :=
  ⟨rfl, rfl⟩

/-- R105: the words of V. -/
theorem test_decode_vector_1 :
    decodeWord 0b010_0000000_0_011_011011_011100_000011 = .ok (.vFadd ⟨false, 3⟩ 27 28 3) ∧
    decodeWord 0b010_0000001_1_010_011011_011100_000011 = .ok (.vFsub ⟨true, 2⟩ 27 28 3) ∧
    decodeWord 0b010_0000010_0_000_011011_011100_000011 = .ok (.vFmul ⟨false, 0⟩ 27 28 3) ∧
    decodeWord 0b010_0000011_0_011_011011_011100_000011 = .ok (.vFfma ⟨false, 3⟩ 27 28 3) ∧
    decodeWord 0b010_0000100_1_010_011011_011100_000011 = .ok (.vFmin ⟨true, 2⟩ 27 28 3) ∧
    decodeWord 0b010_0000101_0_000_011011_011100_000011 = .ok (.vFmax ⟨false, 0⟩ 27 28 3) ∧
    decodeWord 0b010_0000111_0_011_011011_011100_000011 = .ok (.vIadd ⟨false, 3⟩ 27 28 3) ∧
    decodeWord 0b010_0001000_1_010_011011_011100_000011 = .ok (.vIsub ⟨true, 2⟩ 27 28 3) ∧
    decodeWord 0b010_0001001_0_000_011011_011100_000011 = .ok (.vImul ⟨false, 0⟩ 27 28 3) ∧
    decodeWord 0b010_0001010_0_011_011011_011100_000011 = .ok (.vImin ⟨false, 3⟩ 27 28 3) :=
  ⟨rfl, rfl, rfl, rfl, rfl, rfl, rfl, rfl, rfl, rfl⟩

/-- R105: the words of V. -/
theorem test_decode_vector_2 :
    decodeWord 0b010_0001011_1_010_011011_011100_000011 = .ok (.vImax ⟨true, 2⟩ 27 28 3) ∧
    decodeWord 0b010_0001100_0_000_011011_011100_000011 = .ok (.vAnd ⟨false, 0⟩ 27 28 3) ∧
    decodeWord 0b010_0001101_0_011_011011_011100_000011 = .ok (.vOr ⟨false, 3⟩ 27 28 3) ∧
    decodeWord 0b010_0001110_1_010_011011_011100_000011 = .ok (.vXor ⟨true, 2⟩ 27 28 3) ∧
    decodeWord 0b010_0001111_0_000_011011_011100_000011 = .ok (.vShl ⟨false, 0⟩ 27 28 3) ∧
    decodeWord 0b010_0010000_0_011_011011_011100_000011 = .ok (.vShr ⟨false, 3⟩ 27 28 3) ∧
    decodeWord 0b010_0010001_1_010_011011_011100_000011 = .ok (.vSra ⟨true, 2⟩ 27 28 3) ∧
    decodeWord 0b010_0011000_0_000_011011_011100_000011 = .ok (.vPerm ⟨false, 0⟩ 27 28 3) ∧
    decodeWord 0b010_0000110_0_011_000001_011111_000000 = .ok (.vFabs ⟨false, 3⟩ 1 31) ∧
    decodeWord 0b010_0010100_1_010_000001_000010_000000 = .ok (.vMov ⟨true, 2⟩ 1 2) :=
  ⟨rfl, rfl, rfl, rfl, rfl, rfl, rfl, rfl, rfl, rfl⟩

/-- R105: the words of V. -/
theorem test_decode_vector_3 :
    decodeWord 0b010_0010010_0_000_111_011_000101_000110 = .ok (.vFcmp ⟨false, 0⟩ 7 3 5 6) ∧
    decodeWord 0b010_0010011_0_011_001_011_000101_000110 = .ok (.vIcmp ⟨false, 3⟩ 1 3 5 6) ∧
    decodeWord 0b010_0010101_1_010_000010_101000_000000 = .ok (.vBcast ⟨true, 2⟩ 2 40) ∧
    decodeWord 0b010_0010110_0_000_110010_000011_101001 = .ok (.vMvs ⟨false, 0⟩ 50 3 41) ∧
    decodeWord 0b010_0010111_0_011_000010_101000_101001 = .ok (.vIns ⟨false, 3⟩ 2 40 41) ∧
    decodeWord 0b010_0011001_1_010_001001_000000_000000 = .ok (.vVid ⟨true, 2⟩ 9) ∧
    decodeWord 0b010_0011010_0_000_001010_000101_000000 = .ok (.vRedsum ⟨false, 0⟩ 10 5) ∧
    decodeWord 0b010_0011011_0_011_001010_000101_000000 = .ok (.vRedmax ⟨false, 3⟩ 10 5) ∧
    decodeWord 0b010_0011100_1_010_001010_000101_000000 = .ok (.vRedmaxi ⟨true, 2⟩ 10 5) ∧
    decodeWord 0b010_0011101_0_000_001010_000101_000000 = .ok (.vRedmin ⟨false, 0⟩ 10 5) :=
  ⟨rfl, rfl, rfl, rfl, rfl, rfl, rfl, rfl, rfl, rfl⟩

/-- R105: the words of V. -/
theorem test_decode_vector_4 :
    decodeWord 0b010_0011110_0_011_000100_000101_0000_10 = .ok (.vScan ⟨false, 3⟩ 4 5 2) ∧
    decodeWord 0b010_0011111_1_010_0_00110_1_00111_00_1001 = .ok (.vCvt ⟨true, 2⟩ false 6 true 7 9) ∧
    decodeWord 0b010_0011111_0_000_1_00110_0_00111_00_0000 = .ok (.vCvt ⟨false, 0⟩ true 6 false 7 0) ∧
    decodeWord 0b010_0100000_0_011_1_00110_000111_000_101 = .ok (.vPack ⟨false, 3⟩ true 6 7 5) ∧
    decodeWord 0b010_0100001_1_010_0_00110_000111_000_101 = .ok (.vUnpk ⟨true, 2⟩ false 6 7 5) ∧
    decodeWord 0b010_0100010_0_000_1_00110_000111_001000 = .ok (.vScal ⟨false, 0⟩ true 6 7 8) ∧
    decodeWord 0b010_0100011_0_011_000110_101010_101011 = .ok (.vDraw ⟨false, 3⟩ 6 42 43) ∧
    decodeWord 0b010_0100100_1_010_000000_000111_000000 = .ok (.vChk ⟨true, 2⟩ 7) ∧
    decodeWord 0b010_0100101_0_000_000001_000010_000011 = .ok (.vMand ⟨false, 0⟩ 1 2 3) ∧
    decodeWord 0b010_0100110_0_011_000001_000010_000011 = .ok (.vMor ⟨false, 3⟩ 1 2 3) :=
  ⟨rfl, rfl, rfl, rfl, rfl, rfl, rfl, rfl, rfl, rfl⟩

/-- R105: the words of V. -/
theorem test_decode_vector_5 :
    decodeWord 0b010_0100111_1_010_000001_000010_000000 = .ok (.vMnot ⟨true, 2⟩ 1 2) ∧
    decodeWord 0b010_0101000_0_000_100001_000010_000000 = .ok (.vMpop ⟨false, 0⟩ 33 2) :=
  ⟨rfl, rfl⟩

/-- R105: the words of X. -/
theorem test_decode_special_1 :
    decodeWord 0b011_0000000_0_011_000100_011110_000000 = .ok (.xExp2 ⟨false, 3⟩ 4 30) ∧
    decodeWord 0b011_0000001_1_010_000100_011110_000000 = .ok (.xLog2 ⟨true, 2⟩ 4 30) ∧
    decodeWord 0b011_0000010_0_000_000100_011110_000000 = .ok (.xRcp ⟨false, 0⟩ 4 30) ∧
    decodeWord 0b011_0000011_0_011_000100_011110_000000 = .ok (.xRsqrt ⟨false, 3⟩ 4 30) ∧
    decodeWord 0b011_0000100_1_010_000100_011110_000000 = .ok (.xSqrt ⟨true, 2⟩ 4 30) ∧
    decodeWord 0b011_0000101_0_000_000100_011110_000000 = .ok (.xTanh ⟨false, 0⟩ 4 30) ∧
    decodeWord 0b011_0000110_0_011_000100_011110_000000 = .ok (.xSigm ⟨false, 3⟩ 4 30) :=
  ⟨rfl, rfl, rfl, rfl, rfl, rfl, rfl⟩

/-- R105: the words of L. -/
theorem test_decode_load_store_1 :
    decodeWord 0b100_0000000_0_011_100001_000101_000110 = .ok (.lLds ⟨false, 3⟩ 33 5 6) ∧
    decodeWord 0b100_0000001_1_010_100001_000101_000110 = .ok (.lSts ⟨true, 2⟩ 33 5 6) ∧
    decodeWord 0b100_0000010_0_000_011011_000101_000110 = .ok (.lLdvs ⟨false, 0⟩ 27 5 6) ∧
    decodeWord 0b100_0000011_0_011_011111_000101_000110 = .ok (.lStvs ⟨false, 3⟩ 31 5 6) ∧
    decodeWord 0b100_0000100_1_010_10_1001_000101_000110 = .ok (.lLdt ⟨true, 2⟩ true false 9 5 6) ∧
    decodeWord 0b100_0001001_0_000_01_1001_000101_000110 = .ok (.lLdl ⟨false, 0⟩ false true 9 5 6) ∧
    decodeWord 0b100_0000101_0_011_100_011_000101_000110 = .ok (.lAtom ⟨false, 3⟩ 4 3 5 6) ∧
    decodeWord 0b100_0000110_1_010_100001_000101_000_110 = .ok (.lHnew ⟨true, 2⟩ 33 5 6) ∧
    decodeWord 0b100_0000111_0_000_000000_000101_000000 = .ok (.lHfree ⟨false, 0⟩ 5) ∧
    decodeWord 0b100_0001010_0_011_000000_000101_000000 = .ok (.lRel ⟨false, 3⟩ 5) :=
  ⟨rfl, rfl, rfl, rfl, rfl, rfl, rfl, rfl, rfl, rfl⟩

/-- R105: the words of L. -/
theorem test_decode_load_store_2 :
    decodeWord 0b100_0001000_1_010_100001_000101_000010 = .ok (.lHinfo ⟨true, 2⟩ 33 5 2) ∧
    decodeWord 0b100_0010000_0_000_100001_1_10001_011000 = .ok (.lLdg ⟨false, 0⟩ 33 true 17 24) ∧
    decodeWord 0b100_0010001_0_011_100001_000101_000110 = .ok (.lStg ⟨false, 3⟩ 33 5 6) ∧
    decodeWord 0b100_0010010_1_010_011011_0_10001_011000 = .ok (.lLdvg ⟨true, 2⟩ 27 false 17 24) ∧
    decodeWord 0b100_0010011_0_000_011110_000101_000110 = .ok (.lStvg ⟨false, 0⟩ 30 5 6) ∧
    decodeWord 0b100_0010100_0_011_110_001_000100_101000 = .ok (.lGatom ⟨false, 3⟩ 6 1 4 40) ∧
    decodeWord 0b100_0010101_1_010_000000_000101_000110 = .ok (.lPref ⟨true, 2⟩ 5 6) ∧
    decodeWord 0b100_0010110_0_000_01_1001_1_10001_011000 = .ok (.lLdtg ⟨false, 0⟩ true 9 true 17 24) ∧
    decodeWord 0b100_0011000_0_011_01_1001_0_10001_011000 = .ok (.lLdk ⟨false, 3⟩ true 9 false 17 24) ∧
    decodeWord 0b100_0011001_1_010_1_11110_000101_000000 = .ok (.lStk ⟨true, 2⟩ true 30 5) :=
  ⟨rfl, rfl, rfl, rfl, rfl, rfl, rfl, rfl, rfl, rfl⟩

/-- R105: the words of L. -/
theorem test_decode_load_store_3 :
    decodeWord 0b100_0011010_0_000_100001_000101_000000 = .ok (.lKfork ⟨false, 0⟩ 33 5) ∧
    decodeWord 0b100_0011011_0_011_000000_000101_000000 = .ok (.lKfree ⟨false, 3⟩ 5) ∧
    decodeWord 0b100_0011100_1_010_010_111_000101_101000 = .ok (.lRatom ⟨true, 2⟩ 2 7 5 40) ∧
    decodeWord 0b100_0100000_0_000_100001_000101_000110 = .ok (.lBarr ⟨false, 0⟩ 33 5 6) ∧
    decodeWord 0b100_0100001_0_011_100001_000101_000110 = .ok (.lBarw ⟨false, 3⟩ 33 5 6) ∧
    decodeWord 0b100_0100010_1_010_100001_000101_000110 = .ok (.lBare ⟨true, 2⟩ 33 5 6) ∧
    decodeWord 0b100_0100011_0_000_10_0_100_000000_000000 = .ok (.lFence ⟨false, 0⟩ 2 4) ∧
    decodeWord 0b100_0100100_0_011_000_011_000000_000000 = .ok (.lTfence ⟨false, 3⟩ 3) :=
  ⟨rfl, rfl, rfl, rfl, rfl, rfl, rfl, rfl⟩

/-- R105: the words of M. -/
theorem test_decode_mat_1 :
    decodeWord 0b101_0000000_0_011_000000_000000_0_10101 = .ok (.mFuse ⟨false, 3⟩ 21) ∧
    decodeWord 0b101_0000001_1_010_00_1101_000000_000000 = .ok (.mZero ⟨true, 2⟩ 13) ∧
    decodeWord 0b101_0000010_0_000_01_1101_0_1_0100_0_0_0101 = .ok (.mMma ⟨false, 0⟩ true 13 true 4 false 5) ∧
    decodeWord 0b101_0000011_0_011_00_1101_0_0_0100_0_1_0101 = .ok (.mMmaw ⟨false, 3⟩ false 13 false 4 true 5) ∧
    decodeWord 0b101_0000100_1_010_00_1101_000101_000110 = .ok (.mDrain ⟨true, 2⟩ 13 5 6) ∧
    decodeWord 0b101_0000100_0_000_01_1101_000011_000000 = .ok (.mDrainQ ⟨false, 0⟩ 13 3) ∧
    decodeWord 0b101_0000100_0_011_10_1101_000101_000110 = .ok (.mDrainPeer ⟨false, 3⟩ 13 5 6) ∧
    decodeWord 0b101_0000101_1_010_00_1101_100001_000000 = .ok (.mScale ⟨true, 2⟩ 13 33) ∧
    decodeWord 0b101_0000110_0_000_100001_001101_00000_1 = .ok (.mDkr ⟨false, 0⟩ 33 13 true) ∧
    decodeWord 0b101_0000111_0_011_00_1101_100001_100010 = .ok (.mDkw ⟨false, 3⟩ 13 33 34) :=
  ⟨rfl, rfl, rfl, rfl, rfl, rfl, rfl, rfl, rfl, rfl⟩

/-- R105: the words of M. -/
theorem test_decode_mat_2 :
    decodeWord 0b101_0001000_1_010_00_1101_000000_000000 = .ok (.mTfree ⟨true, 2⟩ 13) ∧
    decodeWord 0b101_0001001_0_000_000000_000011_000101 = .ok (.mMwait ⟨false, 0⟩ 0xC5) ∧
    decodeWord 0b101_0001010_0_011_000_101_100001_100010 = .ok (.mMsave ⟨false, 3⟩ 5 33 34) ∧
    decodeWord 0b101_0001011_1_010_000_101_100001_100010 = .ok (.mMrest ⟨true, 2⟩ 5 33 34) ∧
    decodeWord 0b101_0010000_0_000_1_0_0100_100001_000000 = .ok (.mChb ⟨false, 0⟩ true false 4 33) ∧
    decodeWord 0b101_0010001_0_011_100001_000101_000110 = .ok (.mChs ⟨false, 3⟩ 33 5 6) ∧
    decodeWord 0b101_0010010_1_010_00_00_11_000000_000000 = .ok (.mCheQ ⟨true, 2⟩ 3) ∧
    decodeWord 0b101_0010010_0_000_01_00_00_000101_000110 = .ok (.mChe ⟨false, 0⟩ 5 6) ∧
    decodeWord 0b101_0010011_0_011_000000_000101_000110 = .ok (.mChsv ⟨false, 3⟩ 5 6) ∧
    decodeWord 0b101_0010100_1_010_000000_000101_000110 = .ok (.mChld ⟨true, 2⟩ 5 6) :=
  ⟨rfl, rfl, rfl, rfl, rfl, rfl, rfl, rfl, rfl, rfl⟩

/-- R92, R105: the words of F, which have no guard. -/
theorem test_decode_flume_1 :
    decodeWord 0b110_0000000_0_000_00_1001_111111_000001 = .ok (.fLi 9 0xFC1) ∧
    decodeWord 0b110_0000001_0_000_00_1001_001010_001011 = .ok (.fAdd 9 10 11) ∧
    decodeWord 0b110_0000010_0_000_111111_111111_111101 = .ok (.fJmp 0x3FFFD) ∧
    decodeWord 0b110_0000011_0_000_00_1001_000000_111110 = .ok (.fLoop 9 62) ∧
    decodeWord 0b110_0000100_0_000_000000_000000_000000 = .ok (.fEnd) ∧
    decodeWord 0b110_0000101_0_000_00_1001_001010_000000 = .ok (.fCopy 9 10) ∧
    decodeWord 0b110_0000110_0_000_00_1001_001010_000000 = .ok (.fXlist 9 10) ∧
    decodeWord 0b110_0000111_0_000_00_1001_001010_000000 = .ok (.fGath 9 10) ∧
    decodeWord 0b110_0001000_0_000_00_1001_001010_000000 = .ok (.fScat 9 10) ∧
    decodeWord 0b110_0001001_0_000_00_1001_001010_000000 = .ok (.fKvcp 9 10) :=
  ⟨rfl, rfl, rfl, rfl, rfl, rfl, rfl, rfl, rfl, rfl⟩

/-- R92, R105: the words of F, which have no guard. -/
theorem test_decode_flume_2 :
    decodeWord 0b110_0001010_0_000_00_1001_001010_000000 = .ok (.fSvm 9 10) ∧
    decodeWord 0b110_0001011_0_000_00_1001_001010_000000 = .ok (.fRing 9 10) ∧
    decodeWord 0b110_0001100_0_000_00_1001_001010_0000_10 = .ok (.fColl 9 10 2) ∧
    decodeWord 0b110_0001101_0_000_00_1001_0000_11000101 = .ok (.fWait 9 0xC5) ∧
    decodeWord 0b110_0001110_0_000_00_1001_0000_01000101 = .ok (.fSig 9 0x45) ∧
    decodeWord 0b110_0001111_0_000_00_1001_001010_001011 = .ok (.fBar 9 10 11) ∧
    decodeWord 0b110_0010000_0_000_01_0_100_000000_000000 = .ok (.fFence 1 4) :=
  ⟨rfl, rfl, rfl, rfl, rfl, rfl, rfl⟩

/-- R94: the prefix. -/
theorem test_decode_prefix : decodeWord 0b111_00000000001100001101000011010 = .ok (.pExt 0x61A1A) := rfl

/-! ### What the checks refuse -/

/-- R106: the reasons for which a word is no instruction: opcode, reserved bits, guard. -/
theorem test_refuse_words :
    decodeWord 0b000_0011001_0_000_000000_000000_000000 = .error .unassigned ∧
    decodeWord 0b000_0000000_0_000_000000_000000_000001 = .error .reserved ∧
    decodeWord 0b000_0000000_1_000_000000_000000_000000 = .error .badGuard ∧
    decodeWord 0b010_0000000_1_000_000001_000010_000011 = .error .badGuard :=
  ⟨rfl, rfl, rfl, rfl⟩

/-- R98, R102 to R104, R134, R153, R201: code fields, vector destinations and system registers. -/
theorem test_refuse_fields :
    decodeWord 0b000_0001100_0_011_110010_110000_00_1001 = .error .badCode ∧
    decodeWord 0b000_0001100_0_011_110010_111111_00_0010 = .error .badCode ∧
    decodeWord 0b001_0100110_1_010_001000_000000_000_110 = .error .badCode ∧
    decodeWord 0b001_0100111_0_000_000100_0000_00000100 = .error .badSysReg ∧
    decodeWord 0b001_0101000_0_011_000110_0000_01010100 = .error .badSysReg ∧
    decodeWord 0b010_0000000_0_011_011100_011100_000011 = .error .badDest ∧
    decodeWord 0b010_0011110_0_011_000100_000101_0000_11 = .error .badCode ∧
    decodeWord 0b100_0000101_0_011_111_011_000101_000110 = .error .badCode ∧
    decodeWord 0b100_0001000_1_010_100001_000101_000011 = .error .badCode ∧
    decodeWord 0b100_0100011_0_000_11_0_100_000000_000000 = .error .badCode ∧
    decodeWord 0b100_0100011_0_000_10_0_101_000000_000000 = .error .badCode ∧
    decodeWord 0b100_0100100_0_011_000_101_000000_000000 = .error .badCode ∧
    decodeWord 0b110_0001100_0_000_00_1001_001010_0000_11 = .error .badCode ∧
    decodeWord 0b110_0010000_0_000_11_0_100_000000_000000 = .error .badCode :=
  ⟨rfl, rfl, rfl, rfl, rfl, rfl, rfl, rfl, rfl, rfl, rfl, rfl, rfl, rfl⟩

/-- R4: an instruction has four bytes, lowest first. -/
theorem test_refuse_short : decodeBytes [0x43, 0x50, 0x24] = .error .short ∧ decodeBytes [0x43, 0x50, 0x24, 0x20, 9] = .ok (.sAdd ⟨true, 1⟩ 5 1 3, [9]) :=
  ⟨rfl, rfl⟩

/-- WellFormed refuses a guard and a field that break each check. -/
theorem test_ill_formed_fields :
    let g : Guard := ⟨false, 0⟩
    (Instr.bNop ⟨true, 0⟩).WellFormed = false ∧ (Instr.bMsg g 0 0 9).WellFormed = false ∧ (Instr.bMsg g 63 0 2).WellFormed = false ∧
      (Instr.bMsg g 50 63 2).WellFormed = false ∧ (Instr.sWid g 1 6).WellFormed = false ∧ (Instr.sRdsr g 1 4).WellFormed = false ∧
      (Instr.sWrsr g 1 0x54).WellFormed = false ∧ (Instr.vScan g 4 5 3).WellFormed = false ∧ (Instr.lHinfo g 1 5 3).WellFormed = false ∧
      (Instr.lHinfo g 1 5 8).WellFormed = false ∧ (Instr.lAtom g 7 0 1 2).WellFormed = false ∧ (Instr.lGatom g 7 0 1 2).WellFormed = false ∧
      (Instr.lRatom g 7 0 1 2).WellFormed = false ∧ (Instr.lFence g 3 0).WellFormed = false ∧ (Instr.lFence g 0 5).WellFormed = false ∧
      (Instr.lTfence g 5).WellFormed = false ∧ (Instr.fFence 3 0).WellFormed = false ∧ (Instr.fFence 0 5).WellFormed = false ∧
      (Instr.fColl 0 0 3).WellFormed = false := by
  decide

/-- WellFormed refuses v28 as a destination of each word that has a vector destination. -/
theorem test_ill_formed_destinations :
    let g : Guard := ⟨false, 0⟩
    (∀ i ∈ [Instr.vFadd g 28 0 0, .vFsub g 28 0 0, .vFmul g 28 0 0, .vFfma g 28 0 0, .vFmin g 28 0 0, .vFmax g 28 0 0, .vFabs g 28 0, .vIadd g 28 0 0,
      .vIsub g 28 0 0, .vImul g 28 0 0, .vImin g 28 0 0, .vImax g 28 0 0, .vAnd g 28 0 0, .vOr g 28 0 0, .vXor g 28 0 0, .vShl g 28 0 0, .vShr g 28 0 0,
      .vSra g 28 0 0, .vMov g 28 0, .vBcast g 28 0], i.WellFormed = false) ∧
    (∀ i ∈ [Instr.vIns g 28 0 0, .vPerm g 28 0 0, .vVid g 28, .vScan g 28 0 0, .vCvt g false 28 false 0 0, .vPack g false 28 0 0, .vUnpk g false 28 0 0, .vScal g false 28 0 0,
      .vDraw g 28 0 0, .xExp2 g 28 0, .xLog2 g 28 0, .xRcp g 28 0, .xRsqrt g 28 0, .xSqrt g 28 0, .xTanh g 28 0, .xSigm g 28 0, .lLdvs g 28 0 0,
      .lLdvg g 28 false 0 0], i.WellFormed = false) := by
  decide

/-! ### States that meet the hypotheses of the statements -/

/-- After reset, with SC0 of cell 0 running and a word of an engine being issued. -/
def at0 (f : Strand → Strand) (eng : Nat := 1) (ent : Entry := {}) : State :=
  let s := State.reset.modStrand 0 0 (fun st => f { st with st := .running })
  { s with cur := { cell := 0, sc := 0, eng := eng, ent := ent } }

/-- No guard. -/
def g0 : Guard := ⟨false, 0⟩

/-- Two scalar registers hold values. -/
def two (x y : Dword) (st : Strand) : Strand := (st.writeS 1 { val := x }).writeS 2 { val := y }

/-- IntegerWordsGiveTheirResults. -/
theorem test_meets_integer_words :
    let s := at0 (two 7 5)
    s.granted g0 ∧ s.unprefixed ∧ s.sources [1, 2] ∧ (s.popped [1, 2]).room 3 = true ∧ s.sources [1] ∧ (s.popped [1]).room 0 = true ∧
      s.sources [1, 2, 3] ∧ (s.popped [1, 2, 3]).room 3 = true ∧ s.room 63 = true := by
  unfold State.granted State.unprefixed State.sources; decide

/-- IntegerWordsGiveTheirResults, with a queue register as source and destination. -/
theorem test_meets_queue_words :
    let s := at0 (fun st => st.writeS 48 { val := 9 })
    s.granted g0 ∧ s.unprefixed ∧ s.sources [48, 48] ∧ (s.popped [48, 48]).room 55 = true := by
  unfold State.granted State.unprefixed State.sources; decide

/-- DivisionGivesQuotientAndRemainder: each case of the operands. -/
theorem test_meets_division :
    let zero := at0 (two 5 0)
    let edge := at0 (two 0x8000000000000000 0xFFFFFFFFFFFFFFFF)
    let other := at0 (two 0x8000000000000000 1)
    (∀ s ∈ [zero, edge, other], s.granted g0 ∧ s.unprefixed ∧ s.sources [1, 2] ∧ (s.popped [1, 2]).room 3 = true) ∧
    zero.sval 2 = 0 ∧ (edge.sval 2 ≠ 0 ∧ (edge.sval 1).toInt = -2 ^ 63 ∧ (edge.sval 2).toInt = -1) ∧
    (other.sval 2 ≠ 0 ∧ ¬((other.sval 1).toInt = -2 ^ 63 ∧ (other.sval 2).toInt = -1)) := by
  unfold State.granted State.unprefixed State.sources; decide

/-- ShiftsMoveBits, and the field words with a queue register that gives the field's length 0. -/
theorem test_meets_shifts :
    let s := at0 (two 0x8000000000000001 127)
    s.granted g0 ∧ s.unprefixed ∧ s.sources [1, 2] ∧ (s.popped [1, 2]).room 3 = true ∧ s.sources [1] ∧ (s.popped [1]).room 3 = true := by
  unfold State.granted State.unprefixed State.sources; decide

/-- IntegerWordsGiveTheirResults, the compares and the poison: a poisoned first source, and none. -/
theorem test_meets_compares :
    let s := at0 (two 1 2)
    let t := at0 (fun st => st.writeS 1 { val := 0xF000000000000008, tag := some Code.page })
    s.granted g0 ∧ s.unprefixed ∧ s.sources [1, 2] ∧ s.sources [1] ∧
    t.granted g0 ∧ t.unprefixed ∧ srcReady t.me [1, 2] = true ∧ (t.me.readS 1).tag = some Code.page ∧ (t.popped [1, 2]).room 3 = true := by
  unfold State.granted State.unprefixed State.sources; decide

/-- SystemRegistersAndPrivilege: from VF0, with a poisoned source and without, and from another VF. -/
theorem test_meets_system_registers :
    let s := at0 (two 1 2)
    let t := s.modCell 0 (fun x => { x with vf := some 3 })
    let u := at0 (fun st => st.writeS 1 { val := 0xF000000000000008, tag := some Code.page })
    s.granted g0 ∧ s.unprefixed ∧ s.sources [1] ∧ s.room 1 = true ∧ s.vfOf s.cur.cell = 0 ∧
    t.granted g0 ∧ t.unprefixed ∧ t.room 1 = true ∧ srcReady t.me [1] = true ∧ ¬(t.vfOf t.cur.cell = 0) ∧
    u.granted g0 ∧ u.unprefixed ∧ srcReady u.me [1] = true ∧ u.vfOf u.cur.cell = 0 ∧ (u.me.readS 1).tag = some Code.page := by
  unfold State.granted State.unprefixed State.sources; decide

/-- BranchesAndLoops, jumps: a guarded word, an aligned and a misaligned target. -/
theorem test_meets_branches :
    let s := at0 (fun st => ((two 0x1000 0x1002 st).writeS 63 { val := 0x2000 }).writeP 1 true) 0
    s.granted ⟨false, 1⟩ ∧ unguarded ⟨false, 1⟩ = false ∧ unguarded g0 = true ∧ s.unprefixed ∧ s.sources [1] ∧ (s.sval 1).extractLsb' 0 2 = 0 ∧
      s.sources [63] ∧ (s.sval 63).extractLsb' 0 2 = 0 ∧ s.sources [2] ∧ (s.sval 2).extractLsb' 0 2 ≠ 0 := by
  unfold State.granted State.unprefixed State.sources; decide

/-- BranchesAndLoops, loops: an offset of 0 and of 1, an active loop and a loop that is not, a count of 0 and of 1. -/
theorem test_meets_loops :
    let s := at0 (fun st => (two 1 0 st).setLc 1 { act := true, start := 8, last := 16, n := 0, lo := 0, hi := 4, tgt := 4, j := 0 }) 0
    s.granted g0 ∧ s.unprefixed ∧ (immRI s.cur.ent 0).slt 1 = true ∧ (immRI s.cur.ent 1).slt 1 = false ∧ s.sources [1] ∧ s.sources [2] ∧
      loopRefused s.me 1 0 s.cur.ent.addr = true ∧ loopRefused s.me 0 0 s.cur.ent.addr = false ∧
      ((s.sval 1).truncate 32 : BitVec 32) ≠ 0 ∧ ((s.sval 2).truncate 32 : BitVec 32) = 0 ∧ (s.me.lc 1).act = true ∧ (s.me.lc 0).act = false := by
  unfold State.granted State.unprefixed State.sources; decide

/-- StrandControlWords: a strand with nothing earlier, and one with an earlier word in another queue; a sleep that has not ended and one that has. -/
theorem test_meets_strand_control :
    let s := at0 (fun st => { two 0 1 st with sleepEnd := some 5, swReq := true }) 0 { seq := 3 }
    let t := at0 (fun st => { two 0 1 st with queues := [(1, [{ seq := 2 }])], sleepEnd := some 0 }) 0 { seq := 3 }
    s.granted g0 ∧ s.unprefixed ∧ s.sources [1] ∧ allIssuedBefore s.me s.cur.ent.seq = true ∧ quiet s.here s.cur.sc = true ∧
      s.me.swReq = true ∧ s.me.swCut = none ∧ (s.strand 0 0).sleepEnd = some 5 ∧ (s.strand 0 0).trap = none ∧ (s.cell 0).time < 5 ∧
    t.granted g0 ∧ t.unprefixed ∧ allIssuedBefore t.me t.cur.ent.seq = false ∧ (t.strand 0 0).sleepEnd = some 0 ∧ (t.strand 0 0).trap = none ∧
      0 ≤ (t.cell 0).time := by
  unfold State.granted State.unprefixed State.sources; decide

/-- TrapsBeginAndEnterTheHandler: a software trap, a strand that the watchdog meets, a report that B reaches and one that it does not, and an entry
whose last awaited operation has completed, with vectors that pass and that do not, too early, and with its frame written. -/
theorem test_meets_trap_entry :
    let s := at0 id 0
    let q := at0 (fun st => { st with qdead := 65536, queues := [(1, [{ addr := 4 }])] })
    let r := at0 (fun st => { st with reports := [{ code := Code.flume, taddr := 64, eng := 6 }] })
    let r' := at0 (fun st => { st with reports := [{ code := Code.flume, taddr := 64, eng := 6 }], queues := [(0, [{ word := 0 }])] })
    let tr : Trap := { at' := 0, code := Code.illegal, taddr := 8, fpc := 8, eng := 1, ready := some 3 }
    let z := at0 (fun st => { st with trap := some tr, tvec := 4, tscr := 64 })
    let e := z.modCell 0 (fun x => { x with time := 4 })
    let f := (at0 (fun st => { st with trap := some tr, tvec := 3 })).modCell 0 (fun x => { x with time := 4 })
    let w := (at0 (fun st => { st with trap := some { tr with framed := some 0 }, tvec := 4, tscr := 64 })).modCell 0 (fun x => { x with time := 68 })
    s.granted g0 ∧ s.unprefixed ∧ s.me.handler = false ∧
    (q.strand 0 0).trap = none ∧ (q.strand 0 0).handler = false ∧ 65536 ≤ (q.strand 0 0).qdead ∧ (q.strand 0 0).watched = [1] ∧
      (q.strand 0 0).head 1 = some ({ addr := 4 }, none) ∧
    (∀ x ∈ [r, r'], (x.strand 0 0).trap = none ∧ (x.strand 0 0).handler = false ∧ (x.strand 0 0).reports = [{ code := Code.flume, taddr := 64, eng := 6 }] ∧
      (x.strand 0 0).st = .running) ∧ r.reachesB 0 0 = false ∧ r'.reachesB 0 0 = true ∧
    (∀ x ∈ [z, e, f, w], (x.strand 0 0).handler = false ∧ (x.strand 0 0).halted = false ∧ (x.cell 0).frozenOn = [] ∧ (x.cell 0).closed = false ∧
      entryReady (x.cell 0) 0 = true) ∧
    (∀ x ∈ [z, e, f], (x.strand 0 0).trap = some tr) ∧ tr.framed = none ∧ (z.cell 0).time ≤ 3 ∧ 3 < (e.cell 0).time ∧ 3 < (f.cell 0).time ∧
    (w.strand 0 0).trap = some { tr with framed := some 0 } ∧ 3 + 65 ≤ (w.cell 0).time ∧ frameStored (w.cell 0) 0 = true ∧
    (e.strand 0 0).vectorsOk = true ∧ (f.strand 0 0).vectorsOk = false := by
  unfold State.granted State.unprefixed; decide

/-- TrapFramesAreSavedAndRestored. -/
theorem test_meets_frames : ∀ j, j < 8 → ((({} : Strand).writeS 48 { val := 1 }).queue j).length ≤ 8 := by decide

/-- TrapFramesAreSavedAndRestored, b.rfe: a strand outside a handler and one in it, and the completion of one whose frame cannot be read, is refused
and is accepted. -/
theorem test_meets_rfe :
    let s := at0 id 0
    let t := at0 (fun st => { st with handler := true, tscr := 0 }) 0
    let o : Op := { id := 7, sc := 0, eng := 0, ent := {}, issued := 1, due := 65, body := .rfe (zeros 10240) }
    let u := (at0 (fun st => { st with handler := true }) 0).modCell 0 (fun x => { x with time := 65, ops := [o] })
    s.granted g0 ∧ s.unprefixed ∧ s.me.handler = false ∧
    t.granted g0 ∧ t.unprefixed ∧ t.me.handler = true ∧ allIssuedBefore t.me t.cur.ent.seq = true ∧ quiet t.here t.cur.sc = true ∧
    o.body = .rfe (zeros 10240) ∧ o.due ≤ (u.cell 0).time ∧ ¬(o.id ∈ u.env.slow) ∧ (∀ q ∈ u.ops 0, q.sc = o.sc → q.id = o.id) ∧ o.err = none ∧
    ({ o with err := some (Code.page, 64) } : Op).err = some (Code.page, 64) := by
  unfold State.granted State.unprefixed; decide +kernel

/-! ### Cases that the spec works out -/

/-- The worked encodings of R93, R94, R114, R141, R171, R201 and R215. -/
theorem test_worked_words :
    decodeWord 0x284D310A = .ok (.sCmpi ⟨false, 3⟩ 2 3 4 10) ∧ decodeWord 0x208040E0 = .ok (.sAddi ⟨false, 0⟩ 4 3 0x20) ∧
      decodeWord 0xE000061A = .ok (.pExt 0x61A) ∧ decodeWord 0x05001105 = .ok (.bCancelL ⟨false, 0⟩ 4 5) ∧
      decodeWord 0x4700A140 = .ok (.vRedmaxi ⟨false, 0⟩ 10 5) ∧ decodeWord 0x4708A140 = .ok (.vRedmaxi ⟨false, 2⟩ 10 5) ∧
      decodeWord 0x81400146 = .ok (.lAtom ⟨false, 0⟩ 0 0 5 6) ∧ decodeWord 0xA0000009 = .ok (.mFuse ⟨false, 0⟩ 9) ∧
      decodeWord 0x47C26140 = .ok (.vCvt ⟨false, 0⟩ true 6 false 5 0) :=
  ⟨rfl, rfl, rfl, rfl, rfl, rfl, rfl, rfl, rfl⟩

/-- Whether an outcome is a next state of which something holds. -/
def after (o : Host.Outcome State Fault Refusal) (p : State → Bool) : Bool := match o with | .next t => p t | _ => false

/-- The last result in flight of the strand that issues. -/
def lastResult (t : State) : Option PendW := t.me.pend.getLast?.map (fun p => p.w)

/-- R94: the prefix 0x61A and the field 0x20 join to 100,000, and alone the field is −32. -/
theorem test_worked_prefix :
    after (exec (.sAddi ⟨false, 0⟩ 4 3 0x20) (at0 id 1 { pfx := some 0x61A })) (fun t => lastResult t == some (.s 4 { val := 100000 })) = true ∧
      after (exec (.sAddi ⟨false, 0⟩ 4 3 0x20) (at0 id 1)) (fun t => lastResult t == some (.s 4 { val := 0 - 32 })) = true := by
  decide

/-- R93: under p3, s.cmpi.lt p3, s4, 10 makes p3 false for 12 and leaves it true for 9; with p3 false it writes nothing. -/
theorem test_worked_guard :
    let s (p : Bool) (v : Dword) : State := at0 (fun st => (st.writeS 4 { val := v }).writeP 3 p) 1
    let i := Instr.sCmpi ⟨false, 3⟩ 2 3 4 10
    after (exec i (s true 12)) (fun t => lastResult t == some (.p 3 false)) = true ∧
      after (exec i (s true 9)) (fun t => lastResult t == some (.p 3 true)) = true ∧
      after (exec i (s false 12)) (fun t => lastResult t == none) = true := by
  decide

/-- R149: s.ext and s.ins of 0xABCD1234 by position 8, length 12, and a field cut at bit 63. -/
theorem test_worked_fields :
    let s (y : Dword) : State := at0 (two 0xABCD1234 y) 1
    after (exec (.sExt g0 3 1 2) (s 0x0C08)) (fun t => lastResult t == some (.s 3 { val := 0xD12 })) = true ∧
      after (exec (.sExt g0 3 1 2) (s 0x10C08)) (fun t => lastResult t == some (.s 3 { val := 0xFFFFFFFFFFFFFD12 })) = true ∧
      after (exec (.sIns g0 3 1 2) (s 0x0C08)) (fun t => lastResult t == some (.s 3 { val := 0x00023400 })) = true ∧
      after (exec (.sIns g0 3 1 2) (s 0x083C)) (fun t => lastResult t == some (.s 3 { val := 0x4000000000000000 })) = true := by
  decide

/-- R147: the corners of division. -/
theorem test_worked_division :
    let s (x y : Dword) : State := at0 (two x y) 1
    let r (i : Instr) (x y v : Dword) : Bool := after (exec i (s x y)) (fun t => lastResult t == some (.s 3 { val := v }))
    r (.sDiv g0 3 1 2) 7 0 0xFFFFFFFFFFFFFFFF = true ∧ r (.sRem g0 3 1 2) 7 0 7 = true ∧
      r (.sDiv g0 3 1 2) 0x8000000000000000 0xFFFFFFFFFFFFFFFF 0x8000000000000000 = true ∧ r (.sRem g0 3 1 2) 0x8000000000000000 0xFFFFFFFFFFFFFFFF 0 = true ∧
      r (.sDiv g0 3 1 2) 0xFFFFFFFFFFFFFFF9 2 0xFFFFFFFFFFFFFFFD = true ∧ r (.sRem g0 3 1 2) 0xFFFFFFFFFFFFFFF9 2 0xFFFFFFFFFFFFFFFF = true := by
  decide

/-- R29, R34: the worked launch of 3,840 items on cells 32 to 39. -/
theorem test_worked_placement :
    let l : Launch := { ctl := 0x0000099000003106, ext := [64, 12, 5, 1, 1, 1] }
    ctlWidths l.ctl = [6, 4, 3, 0, 0, 0] ∧ ctlLc l.ctl = 1 ∧ ctlLb l.ctl = 3 ∧ ctlPrio l.ctl = 2 ∧ l.prodE 0 6 = 3840 ∧
      l.widAt (5 + 64 * (7 + 12 * 3)) = 0xDC5 ∧ l.share { set := 0, pos := 3, ncells := 8, nsets := 1 } = 512 ∧
      l.share { set := 0, pos := 4, ncells := 8, nsets := 1 } = 448 ∧ l.itemAt { set := 0, pos := 3, ncells := 8, nsets := 1 } 0 = 192 := by
  decide

/-- R61: code 0x5B under scale 0x7E, as NH8, NH4 and NH2: 0.357421875, 0.34375 and 0.375. -/
theorem test_worked_nh :
    (rne32 (elemVal 5 8 (some 0x7E) 91)).1 = 0x3EB70000 ∧ (rne32 (elemVal 5 4 (some 0x7E) 5)).1 = 0x3EB00000 ∧
      (rne32 (elemVal 5 2 (some 0x7E) 1)).1 = 0x3EC00000 := by
  decide

/-- R79: 1.0 and a chunk of 2^−24 + 2^−60, and of 2^−24. -/
theorem test_worked_chunk :
    (addChunk 0x3F800000 [FVal.ofInt 1 (-24), FVal.ofInt 1 (-60)]).1 = 0x3F800001 ∧ (addChunk 0x3F800000 [FVal.ofInt 1 (-24)]).1 = 0x3F800000 := by
  decide

/-- R172: the first lane of the maximum, from the lanes that take part; a NaN alone. -/
theorem test_worked_maximum :
    let v : Vec := ofLanes ((List.range 64).map (fun i => if i = 3 ∨ i = 17 then (0x40200000 : BitVec 32) else if i = 40 then 0x7FC00000 else 0xBF800000))
    (redMaxi (BitVec.allOnes 64) v).1 = 3 ∧ (redMaxi 0xFFFFFFFFFFFFFFF7 v).1 = 17 ∧ (redMaxi 0x0000010000000000 v).1 = BitVec.allOnes 64 := by
  decide +kernel

/-- R303, R305: an object of two arrivals and 8,192 bytes expected turns its phase with the last of them. -/
theorem test_worked_barrier :
    barrierUpdate 0x0000000200002000 0 1 8192 = some (0x0000000200001000, 8192, 0) ∧ barrierUpdate 0x0000000200001000 8192 1 0 = some (0x0000000200000000, 8192, 0) ∧
      barrierUpdate 0x0000000200000000 2048 0 (-2048) = some (0x0000000200002001, 0, 0) := by
  decide

/-- R370: shape 0x0A82 names BH24 to BH27 and BH56 to BH59. -/
theorem test_worked_shape : shapeBhs 0x0A82 = [24, 25, 26, 27, 56, 57, 58, 59] ∧ shapeOk 0x0A82 = true ∧ 48 ∈ shapeCells 0x0A82 ∧ 119 ∈ shapeCells 0x0A82 := by
  decide

/-- A BF16 tile of 64 rows of 256 bytes in the scratchpad (R190). -/
def td0 : Dword := 0x04000000000FF03F

/-- SC0 of cell 0 with a table entry 3 of generation 7, and its handle in s1. -/
def with3 (e : TEntry) (f : Strand → Strand) (eng : Nat := 4) (ent : Entry := {}) : State :=
  (at0 (fun st => f ((two (handleVal 7 0 (if tdLvl e.desc = 2 then 2 else 0) 3) 0 st).writeS 3 { val := 7 })) eng ent).modCell 0
    (fun x => x.modEntry 3 (fun _ => { e with used := true, gen := 7 }))

/-- LaneWordsComputeEachLane. -/
theorem test_meets_lane_words :
    let s := at0 id 2
    s.plain ∧ vsrcReady s.me [1, 2] = true ∧ vsrcReady s.me [1] = true ∧ vsrcReady s.me [1, 2, 3] = true ∧
      (0x7F7FFFFF : BitVec 32).extractLsb' 23 8 ≠ 0xFF ∧ (0x80000001 : BitVec 32).extractLsb' 23 8 ≠ 0xFF := by
  unfold State.plain; decide

/-- LaneWordsComputeEachLane, with a row of a result port as source. -/
theorem test_meets_port_words :
    let s := at0 (fun st => { st with y := [(0, [5])] }) 2
    s.plain ∧ vsrcReady s.me [28, 28] = true ∧ s.vsources [28] ∧ s.sources [0] ∧ ((s.vpopped [28]).popped [0]).room 48 = true ∧
      ((s.vpopped [28]).popped [0]).room 3 = true ∧ isQ 48 = true ∧ isQ 3 = false := by
  unfold State.plain State.vsources State.sources; decide

/-- LaneWordsComputeEachLane and ReductionsScansAndChecks: a lane in the mask and one that is not, and a poisoned vector. -/
theorem test_meets_masks :
    let s := at0 (fun st => (two 0 1 st).writeM 2 1 1) 2
    let t := at0 (fun st => { st with v := [(4, { val := 0, tag := some (Code.page, 64) })] }) 2
    let mask := guardM s.me s.cur.ent ⟨false, 2⟩
    s.plain ∧ s.vsources [3, 5] ∧ s.room 7 = true ∧ s.sources [1] ∧ s.sources [1, 2] ∧ s.vsources [3] ∧ isY 3 = false ∧ (s.popped [1]).room 7 = true ∧
      mask.getLsbD ((s.sval 1).toNat % 64) = true ∧ s.sources [2] ∧ (s.popped [2]).room 7 = true ∧ mask.getLsbD ((s.sval 2).toNat % 64) = false ∧
      (s.vpopped [3]).room 7 = true ∧
    t.plain ∧ vsrcReady t.me [4, 5] = true ∧ firstVTag ([4, 5].map t.me.readV) = some (Code.page, 64) ∧ vsrcReady t.me [4] = true ∧
      (t.me.readV 4).tag = some (Code.page, 64) := by
  unfold State.plain State.sources State.vsources; decide

/-- ReductionsScansAndChecks: a lane that holds the maximum. -/
theorem test_meets_maximum : (redMaxi (BitVec.allOnes 64) 0).1 = BitVec.ofNat 64 63 ∨ (redMaxi (BitVec.allOnes 64) 0).1 = BitVec.ofNat 64 0 := by
  decide +kernel

/-- ConversionsAndDraws: a target code, a code that is none, one plane more than one. -/
theorem test_meets_conversions :
    let s := at0 (two 1 2) 2
    s.plain ∧ s.vsources [3] ∧ s.vsources [3, 4] ∧ s.sources [1, 2] ∧ (cvtTarget 1).isSome = true ∧ cvtTarget 15 = none ∧ (7 : BitVec 3) ≠ 0 := by
  unfold State.plain State.sources State.vsources; decide

/-- ConversionsAndDraws: entries of the format cache for the .ft words (a mark, a reserved bit, BF16 to a code that is a target, NH), and a poisoned
source of v.draw. -/
theorem test_meets_format_entries :
    let s := (at0 (fun st => st.writeS 1 { val := 8, tag := some Code.page }) 2).modCell 0 (fun x => { x with
      fmtCache := [(1, 0x4000000), (2, 0xC001), (3, 0x14015)], fmtFault := [(4, (Code.prot, 64))] })
    let ent (i : Nat) : BitVec 32 := match s.ftEntry 0 i with | .ok e => e | .error _ => 0
    s.plain ∧ vsrcReady s.me [3] = true ∧ (match s.ftEntry 0 4 with | .error e => e == (Code.prot, 64) | .ok _ => false) = true ∧ (ent 1).extractLsb' 26 6 ≠ 0 ∧
      (∀ i ∈ [2, 3], (ent i).extractLsb' 26 6 = 0 ∧ (RMode.ofCode (ftRnd (ent i))).isSome = true) ∧ (cvtTarget (ftOut (ent 2))).isSome = true ∧
      (cvtTarget (ftAfmt (ent 2))).isSome = true ∧ ftApl (ent 2) = 0 ∧ ftOut (ent 3) = 5 ∧ ftAfmt (ent 3) = 5 ∧ ftApl (ent 3) ≠ 0 ∧
      (Target.ofCode (ftOut (ent 2)) 8).isSome = true ∧ ftOut (ent 2) ∈ [3, 4, 5] ∧ isY 5 = false ∧ (5 : BitVec 5) ≠ 6 ∧ isY 28 = true ∧
      srcReady s.me [1, 2] = true ∧ (firstPoison ([1, 2].map s.me.readS)).isSome = true := by
  unfold State.plain; decide

/-- ScratchWordsCheckAndStartTheirAccess: the first and the last byte of a tile. -/
theorem test_meets_layout : 0 < tdSize td0 ∧ 16383 < tdSize td0 ∧ 16376 + [1, 2, 3, 4, 5, 6, 7, 8].length ≤ tdSize td0 := by decide

/-- SC0 of cell 0 with a tile's handle in s1 and an offset in s2. -/
def tileAt (o : Dword) : State := with3 { desc := td0, stripe := 2, stripes := 10 } (fun st => st.writeS 2 { val := o })

/-- ScratchWordsCheckAndStartTheirAccess: the first and the last word of a tile, and no handle. -/
theorem test_meets_scratch_words :
    (∀ x ∈ [tileAt 0, tileAt 16376], x.granted g0 ∧ (x.cellHandle 0 (x.sval 1)).map TEntry.desc = some td0 ∧ x.sources [1, 2] ∧
      x.sources [1, 2, 3] ∧ (x.popped [1, 2]).room 7 = true ∧ x.vsources [4] ∧ x.sources (1 :: 2 :: atomSources 4 0)) ∧ tdLvl td0 = 0 ∧
    hdLvl ((tileAt 0).sval 1) = 0 ∧ isY 27 = false ∧ (at0 id 4).granted g0 ∧ (at0 id 4).cellHandle 0 ((at0 id 4).sval 1) = none ∧
    (at0 id 4).sources [1, 2, 3] := by
  unfold State.granted State.sources State.vsources; decide

/-- ScratchWordsCheckAndStartTheirAccess: offsets that fit, a misaligned one, one past the tile's end and one before it. -/
theorem test_meets_scratch_offsets :
    ((tileAt 0).sval 2).toNat % 8 = 0 ∧ 0 ≤ ((tileAt 16376).sval 2).toInt ∧ ((tileAt 16376).sval 2).toNat + 8 ≤ tdSize td0 ∧
    ((tileAt 16128).sval 2).toNat + 256 ≤ tdSize td0 ∧
    ((tileAt 1).sval 2).toNat % 8 ≠ 0 ∧ tdSize td0 < ((tileAt 16384).sval 2).toNat + 8 ∧ ((tileAt (-8)).sval 2).toInt < 0 ∧
    ((tileAt (-8)).sval 2).toNat % 8 = 0 := by
  decide

/-- PeerRequestsAreSentAndApplied: a peer within the shape, and one through a window that is not valid. -/
theorem test_meets_peer_words :
    let td := td0 + 0x8000000000000000
    let s := with3 { desc := td, peer := { target := handleVal 1 1 0 5 } } id
    let t := with3 { desc := td, peer := { target := handleVal 1 8 0 5, win := some (0, 2, 0) } } id
    (∀ x ∈ [s, t], x.granted g0 ∧ (x.cellHandle 0 (x.sval 1)).map TEntry.desc = some td ∧ x.sources [1, 2] ∧ x.sources [1, 2, 3] ∧
      x.sources (1 :: atomSources 4 7) ∧ (x.popped [1, 2]).room 7 = true ∧ x.landingFree = true ∧ x.sendFree = true ∧ hdLvl (x.sval 1) = 2) ∧
    tdLvl td = 2 ∧ (∀ a ∈ [PAcc.load, .store, .atomic], s.windowOk { target := handleVal 1 1 0 5 } a = true ∧
      t.windowOk { target := handleVal 1 8 0 5, win := some (0, 2, 0) } a = false) := by
  unfold State.granted State.sources; decide

/-- The owner of a peer request: cell 1 with an entry 5, and an operation of cell 0 that asks it. -/
def asks (r : Req) (b : OpBody) : State :=
  ((at0 id 4).modCell 1 (fun x => x.modEntry 5 (fun _ => { used := true, gen := 1, desc := td0, stripe := 1, stripes := 10 }))).modCell 0
    (fun x => { x with ops := [{ id := 9, sc := 0, eng := 4, ent := {}, issued := 0, due := 64, body := b, req := some r }] })

/-- PeerRequestsAreSentAndApplied: a request of each kind, one beyond the entry, and a store and a load of which lines are left, at a fill port that is
free and at one that is not. -/
theorem test_meets_owner_requests :
    let p : Peer := { target := handleVal 1 1 0 5 }
    let w := asks (.peerWrite p 16376 [1, 2, 3, 4, 5, 6, 7, 8]) .store
    let f := asks (.peerWrite p 16377 [1, 2, 3, 4, 5, 6, 7, 8]) .store
    let r := asks (.peerRead p [(0, 8)] none) (.timedS 3 none false)
    let a := asks (.ratom p 4 8 1 2) (.timedS 8 none false)
    let part : Part := (partsOf td0 1 0 8).headD {}
    let m := asks (.moving 1 5 true [part] [] 8 none) (.timedS 3 none false)
    let k := asks (.moving 1 5 false [part] [] 0 none) (.timedS 3 none false)
    let full (s : State) : State := s.modCell 1 (fun x => { x with fill := [(part.bank, 5)] })
    let ok (s : State) (off n : Nat) : Bool := match s.ownerEntry p off n with | .ok _ => true | .error _ => false
    (fillMove m.cyc (m.cell 1).fill [] [part]).2.1 = [] ∧ (fillMove m.cyc ((full m).cell 1).fill [] [part]).2.1 ≠ [] ∧
      [part].any (partPoisoned (m.cell 1).spoison) = false ∧
      (fillMove w.cyc (w.cell 1).fill [] (withData (partsOf td0 1 16376 8) [1, 2, 3, 4, 5, 6, 7, 8])).2.1 = [] ∧
    (∀ s ∈ [w, f, r, a, m, k, full m, full k], (s.findAny 9).map (fun x => (x.1, s.reqWaits x.1 x.2)) = some (0, false)) ∧
    ok w 16376 8 = true ∧ (match f.ownerEntry p 16377 8 with | .error c => decide (c = Code.bounds) | .ok _ => false) = true ∧ ok r 0 0 = true ∧ ok r 0 8 = true ∧
      ok a 8 8 = true ∧ (r.cell 1).entryPoisoned ((r.cell 1).entry 5) 0 8 = false ∧ (a.cell 1).entryPoisoned ((a.cell 1).entry 5) 8 8 = false := by
  decide

/-- HandlesAreAllottedReadAndFreed: descriptors that are valid and not, and peer targets within the shape and outside it. -/
theorem test_meets_allotment :
    let s := at0 (fun st => ((two td0 0xC000000000000000 st).writeS 3 { val := td0 + 0x8000000000000000 }).writeS 4 { val := handleVal 1 1 0 5 }) 4
    let ok (h : Dword) : Bool := match s.peerTarget 0 (s.sval 3) h with | .ok _ => true | .error _ => false
    s.granted g0 ∧ s.unprefixed ∧ tdLvl (s.sval 1) ≠ 2 ∧ s.sources [1] ∧ descOk (s.sval 1) = true ∧ (s.popped [1]).room 7 = true ∧ s.sources [2] ∧
      tdLvl (s.sval 2) ≠ 2 ∧ descOk (s.sval 2) = false ∧ tdLvl (s.sval 3) = 2 ∧ descOk (s.sval 3) = true ∧ s.sources [3, 4] ∧
      (s.popped [3, 4]).room 4 = true ∧ ok (s.sval 4) = true ∧ ok (handleVal 1 9 0 5) = false ∧
      tdLvl (td0 + 0x8000000010000000) = 2 ∧ descOk (td0 + 0x8000000010000000) = false := by
  unfold State.granted State.unprefixed State.sources; decide

/-- HandlesAreAllottedReadAndFreed: a live SCRATCH handle, a live LANDING handle, and none. -/
theorem test_meets_handle_words :
    let s := with3 { desc := td0, stripe := 2, stripes := 10 } id
    let l := (at0 (fun st => st.writeS 1 { val := handleVal 9 0 1 4 }) 4).modLanding 0 4 (fun l => { l with used := true, gen := 9, desc := 0x44000000000FF03F })
    s.granted g0 ∧ s.unprefixed ∧ s.sources [1] ∧ (s.popped [1]).room 7 = true ∧ s.landHandle 0 (s.sval 1) = none ∧
      (s.cellHandle 0 (s.sval 1)).isSome = true ∧ s.room 7 = true ∧ s.sources [2] ∧ s.landHandle 0 (s.sval 2) = none ∧ s.cellHandle 0 (s.sval 2) = none ∧
    l.granted g0 ∧ l.unprefixed ∧ l.sources [1] ∧ (l.landHandle 0 (l.sval 1)).isSome = true := by
  unfold State.granted State.unprefixed State.sources; decide

/-- HandlesAreAllottedReadAndFreed: a refused entry and a refused landing that nothing uses. -/
theorem test_meets_refused_handles :
    let s := (with3 { desc := td0, refused := true } id).modLanding 0 4 (fun l => { l with used := true, refused := true })
    ((s.cell 0).entry 3).refused = true ∧ s.freeing (.scratch 0 3) = none ∧ s.inUse (.scratch 0 3) = false ∧
      s.freeAt (.scratch 0 3) ≤ s.cyc ∧
      (s.landing 0 4).refused = true ∧ s.freeing (.landing 0 4) = none ∧ s.inUse (.landing 0 4) = false ∧ s.freeAt (.landing 0 4) ≤ s.cyc ∧
    let t := s.modCell 0 (fun x => { x with ops := [{ id := 9, sc := 0, eng := 4, ent := {}, issued := 0, due := 0, body := .hfree (.scratch 0 3) }] })
    ((t.cell 0).entry 3).refused = true ∧ (t.freeing (.scratch 0 3)).map (fun x => (x.1, x.2.due)) = some (0, 0) ∧ t.inUse (.scratch 0 3) = false ∧
      0 ≤ (t.cell 0).time := by
  decide

/-- SC0 of cell 0 with a PEER handle of a tile in s1 and an offset in s2. -/
def peerTile (o : Dword) : State :=
  with3 { desc := td0 + 0x8000000000000000, peer := { target := handleVal 1 1 0 5 } } (fun st => st.writeS 2 { val := o })

/-- TileLoadsFillARegister: an offset that fits a tile, from the scratchpad and from a landing, and an image's address. -/
theorem test_meets_tile_loads :
    let s := with3 { desc := td0, stripe := 2, stripes := 10 } (fun st => st.writeS 2 { val := 128 })
    let l := (at0 (fun st => two (handleVal 9 0 1 4) 128 st) 4).modLanding 0 4 (fun l => { l with used := true, gen := 9, desc := 0x44000000000FF03F })
    (∀ x ∈ [s, l], x.granted g0 ∧ (x.here.tile 3).st = .empty ∧ x.sources [1, 2] ∧ x.landingFree = true ∧ x.sources [2]) ∧
    (s.cellHandle 0 (s.sval 1)).isSome = true ∧ (l.landHandle 0 (l.sval 1)).isSome = true ∧
    ((peerTile 128).here.tile 3).st = .empty ∧ (peerTile 128).landingFree = true ∧ ((peerTile 128).cellHandle 0 ((peerTile 128).sval 1)).map (fun e =>
      (tdLvl e.desc, (peerTile 128).windowOk e.peer .load)) = some (2, true) ∧ ((s.sval 2).toNat % 64 = 0 ∧ (s.sval 2).toNat < 2 ^ 60) := by
  unfold State.granted State.sources; decide

/-- TileLoadsFillARegister: the load of the second block of a row. -/
theorem test_meets_tile_shapes :
    tdFmt td0 ∉ ([0, 8, 11] : List Nat) ∧ 128 % tdRb td0 % blockBytes (tdFmt td0) (tdPl td0 + 1) = 0 ∧ 128 / tdRb td0 + 64 ≤ tdRows td0 ∧
      128 % tdRb td0 + blockBytes (tdFmt td0) (tdPl td0 + 1) ≤ tdRb td0 ∧
    tdFmt 0x00000000000FF03F ∈ ([0, 8, 11] : List Nat) ∧ 64 % tdRb td0 % blockBytes (tdFmt td0) (tdPl td0 + 1) ≠ 0 ∧ tdRows td0 < 256 / tdRb td0 + 64 := by
  decide

/-- SC0 of cell 0 with one operation in flight. -/
def inFlight (b : OpBody) (due : Nat := 0) (err : Option (Code × Dword) := none) (req : Option Req := none) : State :=
  (at0 id 4).modCell 0 (fun x => { x with ops := [{ id := 9, sc := 0, eng := 4, ent := {}, issued := 0, due := due, body := b, err := err, req := req }] })

/-- TileLoadsFillARegister: a load that has read its bytes, without poison and with. -/
theorem test_meets_tile_ends :
    ∀ bad ∈ [(none : Option Nat), some 8],
      let s := inFlight (.sload (.t 3 {}) none [] [] bad)
      (s.findOp 0 9).map Op.body = some (.sload (.t 3 {}) none [] [] bad) ∧ (s.cell 0).closed = false ∧ 0 ≤ (s.cell 0).time ∧ (s.strand 0 0).trap = none ∧
        (s.strand 0 0).handler = false := by
  decide

/-- Memory of VF0 with one table whose entry 0 names itself and whose entry 1 is the leaf of the page at 0x10000 (R313). -/
def paged (leaf : Dword) (f : Strand → Strand) (eng : Nat := 4) : State :=
  let t : Table Byte := writeAll [] (placed 0x80000 (le8 0x8000000000000020 ++ le8 leaf))
  { ((at0 f eng).modVf 0 (fun v => { v with cfg := { v.cfg with ptroot := 0x8000000000000020 } })) with mem := { views := [(0, t)], home := t } }

/-- GlobalLoadsTakeTheirValueAtIssue: a page that is mapped and one that is not, a misaligned address and one of 2^60. -/
theorem test_meets_global_loads :
    let s := paged 0xF000000000050000 (fun st => ((two 0x10000 0x30000 st).writeS 3 { val := 0x10001 }).writeS 4 { val := 0x1000000000000000 })
    let ok (a n : Nat) : Bool := match s.readHere a n with | .ok _ => true | .error _ => false
    s.granted g0 ∧ s.sources [(1 : BitVec 5).zeroExtend 6] ∧ s.landingFree = true ∧ (s.popped [1]).room 7 = true ∧ (s.sval 1).toNat % 8 = 0 ∧
      (s.sval 1).toNat < 2 ^ 60 ∧ ok 0x10000 8 = true ∧ ok 0x10000 256 = true ∧ ok 0x30000 8 = false ∧ (s.sval 3).toNat % 8 ≠ 0 ∧
      (s.sval 4).toNat % 8 = 0 ∧ 2 ^ 60 ≤ (s.sval 4).toNat ∧ isY 27 = false := by
  unfold State.granted State.sources; decide

/-- GlobalStoresWriteAndPropagate: a store to a mapped page and to one that is not. -/
theorem test_meets_global_stores :
    let s := paged 0xF000000000050000 (fun st => (two 0x10000 0x20000 st).writeS 3 { val := 0 })
    let ok (a n : Nat) : Bool := match s.pages (some 0) 0 0 a n .wr with | .ok pg => pg.all (fun x => match x.2 with | .frame _ => true | _ => false) | .error _ => false
    s.granted g0 ∧ s.sendFree = true ∧ s.sources [1, 3, 2] ∧ s.sources [1, 3] ∧ s.vsources [4] ∧ (s.sval 1).toNat % 8 = 0 ∧ (s.sval 1).toNat < 2 ^ 60 ∧
      ok 0x10000 8 = true ∧ ok 0x10000 256 = true ∧ ok 0x20000 8 = false := by
  unfold State.granted State.sources State.vsources; decide

/-- AtomicsActAtTheirHome: the word and its request at home, on a mapped page. -/
theorem test_meets_atomics :
    let s := paged 0xF000000000050000 (fun st => (two 0x10000 0 st).writeS 8 { val := 1 })
    let t : State := { inFlight (.timedS 8 none false) 64 none (some (.gatom 4 0x10000 1 2)) with mem := s.mem, vfs := s.vfs }
    s.granted g0 ∧ s.sources (1 :: atomSources 4 0) ∧ s.sources (1 :: atomSources 0 7) ∧ (s.sval 1).toNat % 8 = 0 ∧ s.landingFree = true ∧
      srcReady s.me [1, 2] = true ∧ (t.findAny 9).isSome = true ∧
      (match t.pages (some 0) (t.vfOf 0) 0 0x10000 8 .at with | .ok pg => paOf pg 0x10000 | .error _ => none) = some 0x50000 ∧
      t.mem.poisoned 0x50000 = false ∧ t.wordHeld 0x50000 = false ∧
      State.wordHeld { t with mem := { t.mem with turns := [{ op := 9, word := 0xA000, die := 0 }] } } 0x50000 = true := by
  unfold State.granted State.sources; decide

/-- A request in flight, as the statements on timed requests take it. -/
def timed (b : OpBody) (e : Option (Code × Dword)) : Bool :=
  let s := inFlight b 0 e
  decide ((s.findOp 0 9).map (fun o => o.body) = some b) && decide ((s.findOp 0 9).map (fun o => o.err) = some e) &&
    decide ((s.findOp 0 9).map (fun o => o.id) = some 9) && decide ((s.findOp 0 9).map (fun o => o.req) = some none) && decide (0 ≤ (s.cell 0).time) &&
    !s.env.slow.contains 9 && !(s.cell 0).closed && decide ((s.strand 0 0).trap = none) && !(s.strand 0 0).handler &&
    decide ((s.findOp 0 9).map (s.behindLate 0) = some false)

/-- TimedRequestsLandFreezeOrFault: data that has come, data that has not, a store, each without and with an error. -/
theorem test_meets_timed_requests :
    [OpBody.timedS 3 (some 5) true, .timedS 3 (some 5) false, .timedS 3 none false, .store].all
      (fun b => timed b none && timed b (some (Code.page, 64))) = true ∧ (3 : BitVec 6) ≠ 0 ∧ isQ 3 = false ∧
    (((inFlight .store 0 (some (Code.page, 64))).modCell 0 (fun x => { x with closed := true })).cell 0).closed = true := by
  decide

/-- AtomicsActAtTheirHome: the answer of an l.gatom, with no write of its word since the home step, and with one. -/
theorem test_meets_atomic_answers :
    let s := inFlight (.timedS 3 (some 5) false) 0 none (some (.gatomLand 4 0x50000 1 2))
    let z (b : Bool) : AtomTurn := { op := 9, word := 0x50000 / 8, die := 0, passed := b, old := 5 }
    let t (b : Bool) : State := { s with mem := { s.mem with turns := [z b] } }
    (s.findOp 0 9).map (fun o => (o.err, o.req, s.behindLate 0 o)) = some (none, some (.gatomLand 4 0x50000 1 2), false) ∧ s.env.slow.contains 9 = false ∧
      (∀ k, k < 8 → mgmtWritable (0x50000 + k) = true) ∧ (∀ x ∈ (t false).mem.turns, x.op = 9 → x.passed = false) ∧
      (t true).mem.turns.find? (fun x => x.op == 9 && x.passed) = some (z true) := by
  refine ⟨by decide, by decide, by decide, by decide, ?_⟩; decide

/-- TimedRequestsLandFreezeOrFault: an answer that is late, and one that has been late for 1 ms. -/
theorem test_meets_late_answers :
    let s : State := { (inFlight (.timedS 3 none false)).modCell 0 (fun x => { x with frozenOn := [9] }) with wall3 := 3000000, env := { slow := [9] } }
    (s.cell 0).frozenOn.contains 9 = true ∧ (s.cell 0).frozenAt + 3000000 ≤ s.wall3 ∧ s.env.slow.contains 9 = true ∧
      (s.strand 0 0).trap = none ∧ (s.strand 0 0).handler = false ∧ (s.cell 0).closed = false := by
  decide

/-- GlobalStoresWriteAndPropagate: a write that may enter die 1 and one that may not, a demand-zero leaf, a released frame. -/
theorem test_meets_propagation :
    let w : GWrite := { id := 5, die := 0, num := 1, deps := [0, 0, 0, 0], todo := [1, 2, 3], bytes := [(64, 7)] }
    let m : DevMem := { flight := [w, { w with id := 6, num := 2 }] }
    let z := (paged 0x7400000000000000 id).modVf 0 (fun v => { v with free := [(4, 100)], held := 0, returning := [9] })
    m.flight.find? (fun x => x.id == 5) = some w ∧ m.canEnter 1 w = true ∧ m.canEnter 1 { w with id := 6, num := 2 } = false ∧
    (match z.walkLeaf 0 0 0x10000 with | .ok x => some x | .error _ => none) = some (0x80008, 0x7400000000000000) ∧
      (0x7400000000000000 : Dword).getLsbD 63 = false ∧ (0x7400000000000000 : Dword).getLsbD 58 = true ∧ (0x7400000000000000 : Dword).getLsbD 59 = false ∧
      (BitVec.ofNat 64 (leRead z.mem.home 0x80008 8) : Dword).getLsbD 63 = false ∧ (z.vf 0).free = [(4, 100)] ∧ (z.vf 0).held < (z.vf 0).cfg.quota ∧
      4 < 128 * sliceFrames ∧ (z.vf 0).returning = [9] := by
  decide

/-- GlobalStoresWriteAndPropagate: a store to a demand-zero page of a VF that holds its quota, and a leaf that is mapped at its home when the walk on
die 0 has read it as demand-zero. -/
theorem test_meets_zero_pages :
    let z := paged 0x7400000000000000 (two 0x10008 0)
    let q := z.modVf 0 (fun v => { v with held := v.cfg.quota })
    let u : State := { z with mem := { z.mem with home := writeAll z.mem.home (placed 0x80008 (le8 0xF000000000050000)) } }
    (match q.pages (some 0) 0 0 0x10008 8 .wr with | .ok pg => some pg | .error _ => none) = some [(0x10008 / frameBytes, .zero 0x80008 0x7400000000000000)] ∧
      (BitVec.ofNat 64 (leRead q.mem.home 0x80008 8) : Dword) = 0x7400000000000000 ∧ (q.vf 0).cfg.quota ≤ (q.vf 0).held ∧ q.sendFree = true ∧
    (match u.walkLeaf 0 0 0x10000 with | .ok x => some x | .error _ => none) = some (0x80008, 0x7400000000000000) ∧
      (BitVec.ofNat 64 (leRead u.mem.home 0x80008 8) : Dword).getLsbD 63 = true := by
  decide

/-- MessagesAreSentStoredAndStarted: a target in the shape and one outside it, room and none, an open gate and a closed one. -/
theorem test_meets_messages :
    let s := at0 (fun st => (two 1 0x1000 st).writeS 50 { val := 3 }) 0
    let m : Msg := { op := 9, cell := 0, sc := 0, target := 1, handler := 0x1000, payload := [3] }
    let t : State := { inFlight (.msg false) with msgs := [{ m with target := 2 }, m] }
    s.granted g0 ∧ s.unprefixed ∧ s.sources (1 :: (1 + 1) :: msgRegs 50 1) ∧ s.inShape (s.vfOf 0) (s.sval 1).toNat = true ∧ s.sendFree = true ∧
      s.inShape (s.vfOf 0) 2 = false ∧ s.sources (1 :: (1 + 1) :: msgRegs 50 0) ∧
    t.msgs[1]? = some m ∧ (t.findOp 0 9).isSome = true ∧ (∀ x ∈ t.msgs.take 1, ¬(x.cell = m.cell ∧ x.sc = m.sc ∧ x.target = m.target)) ∧
      t.gateOpen 1 = true ∧ (t.cell 1).msgs.length < 16 ∧
      16 ≤ ((t.modCell 1 (fun x => { x with msgs := (List.range 16).map (fun _ => m) })).cell 1).msgs.length ∧
      (t.modBh 0 (fun b => { b with gateClosed := true })).gateOpen 1 = false := by
  unfold State.granted State.unprefixed State.sources; decide

/-- MessagesAreSentStoredAndStarted: an entry that is due, its message stored or not; a dormant context whose message is behind another. -/
theorem test_meets_handlers :
    let s := (at0 id 0).modStrand 0 1 (fun st => { st with st := .dormant, armed := 64 })
    let t := s.modCell 0 (fun x => { x with time := 1, msgs := [{ handler := 128 }, { handler := 64, payload := [5] }] })
    (∀ b ∈ [true, false], (inFlight (.msg b)).env.slow.contains 9 = false ∧ ((inFlight (.msg b)).findOp 0 9).map Op.due = some 0 ∧
      ((inFlight (.msg b)).findOp 0 9).map Op.err = some none) ∧
    (t.strand 0 1).st = .dormant ∧ (t.strand 0 1).armedAt < (t.cell 0).time ∧ (t.cell 0).runs = true ∧ (t.strand 0 1).swStop = false ∧
      (t.cell 0).msgs = [{ handler := 128 }] ++ { handler := 64, payload := [5] } :: [] ∧ (64 : Dword) = (t.strand 0 1).armed ∧
      (128 : Dword) ≠ (t.strand 0 1).armed ∧ (∀ k, k < 1 → ¬((t.strand 0 k).st = .dormant ∧ (t.strand 0 k).armed = (t.strand 0 1).armed)) := by
  decide

/-- VF0 with virtual semaphore 3 mapped to physical semaphore 7 of BH0, SC0 of cell 0 issuing. -/
def withSem (f : Strand → Strand) (eng : Nat := 0) : State :=
  { (at0 f eng { seq := 4 }).modVf 0 (fun v => { v with semMap := [(3, 0x8007)] }) with sems := [(7, { mapped := true, val := 2 })] }

/-- SemaphoresWaitAndGrantInOrder: a number that is mapped and one that is not; an earlier word in a queue. -/
theorem test_meets_semaphore_words :
    let s := withSem (two 1 0)
    let t := withSem (fun st => { st with queues := [(1, [{ seq := 2 }])] })
    s.granted g0 ∧ s.unprefixed ∧ s.sources [1] ∧ s.resolve (s.vfOf 0) 3 = some 7 ∧ s.resolve (s.vfOf 0) 4 = none ∧
      allIssuedBefore s.me s.cur.ent.seq = true ∧ t.granted g0 ∧ t.unprefixed ∧ t.sources [1] ∧ allIssuedBefore t.me t.cur.ent.seq = false := by
  unfold State.granted State.unprefixed State.sources; decide

/-- SemaphoresWaitAndGrantInOrder: a signal and a request that arrive, at a semaphore of their bulkhead and at another's; a grant that lands. -/
theorem test_meets_semaphore_arrivals :
    let x : Sig := { ps := 7, n := 0xFFFFFFFF }
    let w : WaitReq := { ps := 7, w := { cell := 0, unit := 0, op := 9, vf := 0, v := 3, n := 0 } }
    let s : State := { withSem id with sigs := [x], waits := [w] }
    let t := inFlight (.semWait 3 1 true)
    s.sigs[0]? = some x ∧ s.sigCame x = true ∧ s.sigs.take 0 = [] ∧ s.semReset 7 = false ∧ s.arriving 7 [] s.sigs = ([x], []) ∧
      s.sigCame { x with ps := 135 } = true ∧ s.waits[0]? = some w ∧ (w.ps == 7 && s.semCame w.w.cell 7 w.due) = true ∧
      s.semCame w.w.cell 135 0 = true ∧ (t.ops 0).map Op.body = [.semWait 3 1 true] ∧ (t.ops 0).map Op.sc = [0] := by
  decide

/-- SemaphoresWaitAndGrantInOrder: b.smap in VF0 and in another VF, and a change of an entry that nothing on its way uses. -/
theorem test_meets_smap :
    let s := at0 (two 3 0x8007) 0
    let t := s.modCell 0 (fun x => { x with vf := some 2 })
    let u := inFlight (.smap 0 3 0x8007 false)
    s.granted g0 ∧ s.unprefixed ∧ s.sources [1, 2] ∧ s.vfOf s.cur.cell = 0 ∧ (s.vf s.me.vfsel.toNat).live = true ∧ (s.sval 1).toNat < 256 ∧
      (s.sval 2).toNat < 2 ^ 17 ∧ (s.sval 2).extractLsb' 12 3 = 0 ∧ (s.sval 2).getLsbD 16 = false ∧ s.inShape 0 (smPs 0x8007 / 64 * 2) = true ∧
      s.mappedElsewhere 0 (smPs 0x8007) = false ∧ (s.vf 5).live = false ∧ s.inShape 0 (smPs 0x8FFF / 64 * 2) = false ∧ smV 0x8FFF = true ∧
    (s.modCell 1 (fun x => { x with ops := [{ id := 9, sc := 0, eng := 0, ent := {}, issued := 0, due := 0, body := .smap 4 3 0x8007 false }] })).mappedElsewhere 0
      (smPs 0x8007) = true ∧
    t.granted g0 ∧ t.unprefixed ∧ t.sources [1, 2] ∧ ¬(t.vfOf t.cur.cell = 0) ∧
    (u.ops 0).map Op.body = [.smap 0 3 0x8007 false] ∧ smV (u.semEntry 0 3) = false ∧ smV 0x8007 = true ∧ (u.sem (smPs 0x8007)).mapped = false ∧
      u.sigs = [] ∧ u.waits = [] := by
  unfold State.granted State.unprefixed State.sources; decide

/-- FencesHoldAndRetire: each kind and scope that is listed and the ones that are not; a fence whose writes are performed, and one whose are not. -/
theorem test_meets_fences :
    let s := at0 id 4 { seq := 1 }
    let t := inFlight (.fence [] (some 0))
    let u : State := { inFlight (.fence [5] none) with mem := { flight := [{ id := 5, die := 0, num := 1, deps := [], todo := [1], bytes := [] }] } }
    s.granted g0 ∧ s.unprefixed ∧ fenceReady s true = true ∧ fenceReady s false = true ∧ (2 : BitVec 2) ≠ 3 ∧ (4 : BitVec 3).toNat < 5 ∧
      5 ≤ (5 : BitVec 3).toNat ∧ (t.ops 0).map Op.body = [.fence [] (some 0)] ∧ t.performed [] = true ∧ t.env.slow.contains 9 = false ∧
      inScope 0 0 0 = true ∧ (u.ops 0).map Op.body = [.fence [5] none] ∧ u.performed [5] = false := by
  unfold State.granted State.unprefixed; decide

/-- BarriersCountTurnAndRelease: each kind of bad object, one whose phase turns and one whose does not. -/
theorem test_meets_barrier_updates :
    let w0 : Dword := 0x0000000200001FFF
    (w0 + 0x0010000000000000).extractLsb' 52 12 ≠ 0 ∧ ((0xFFF : Dword).extractLsb' 32 20).toNat = 0 ∧ ((0x0000000200000FFF : Dword).extractLsb' 12 20).toNat = 0 ∧
      (0x8000000000000000 : Dword).toInt + -1 < -2 ^ 63 ∧ 2 ^ 63 ≤ (0x7FFFFFFFFFFFFFFF : Dword).toInt + 1 ∧
      w0.extractLsb' 52 12 = 0 ∧ (w0.extractLsb' 32 20).toNat = 2 ∧ (w0.extractLsb' 12 20).toNat = 1 ∧ (0 : Dword).toInt + 0 = 0 := by
  decide

/-- BarriersCountTurnAndRelease: an object whose reload is 0 and one whose is 2. -/
theorem test_meets_barrier_looks :
    let s := asks (.peerRead {} [] none) .store
    let t := s.modCell 1 (fun x => x.entryWrite (x.entry 5) 0 (le8 0x0000000200001FFF))
    let word (s : State) : Dword := BitVec.ofNat 64 (ofBytes ((s.cell 1).entryBytes ((s.cell 1).entry 5) 0 8))
    (∀ x ∈ [s, t], ((x.cell 1).entry 5).used = true ∧ ((x.cell 1).entry 5).gen.toNat = 1 ∧ 0 + 16 ≤ tdSize ((x.cell 1).entry 5).desc ∧
      (x.cell 1).entryPoisoned ((x.cell 1).entry 5) 0 8 = false) ∧
    (word s).extractLsb' 32 20 = 0 ∧ (word t).extractLsb' 52 12 = 0 ∧ (word t).extractLsb' 32 20 ≠ 0 := by
  decide

/-- BarriersCountTurnAndRelease: a barrier object in the scratchpad and one through a PEER handle. -/
theorem test_meets_barrier_words :
    let s := with3 { desc := td0, stripe := 2, stripes := 10 } id
    let p := with3 { desc := td0 + 0x8000000000000000, peer := { target := handleVal 1 1 0 5 } } id
    let q := p.modCell 1 (fun x => x.modEntry 5 (fun _ => { used := true, gen := 1, desc := td0, stripe := 1, stripes := 10 }))
    let w := with3 { desc := td0 + 0x8000000000000000, peer := { target := handleVal 1 8 0 5, win := some (0, 2, 0) } } id
    let ok (s : State) : Bool := match s.ownerEntry { target := handleVal 1 1 0 5 } 0 16 with | .ok _ => true | .error _ => false
    ok q = true ∧ ok p = false ∧ q.remoteWaiters 1 < 32 ∧ p.me.trap = none ∧ p.me.handler = false ∧ p.here.closed = false ∧
      w.windowOk { target := handleVal 1 8 0 5, win := some (0, 2, 0) } .barrier = false ∧
      w.windowOk { target := handleVal 1 8 0 5, win := some (0, 2, 0) } .look = false ∧
    ∀ x ∈ [s, p, q, w], x.findOp 0 x.nextId = none ∧ x.granted g0 ∧ (x.cellHandle 0 (x.sval 1)).isSome = true ∧ (x.sval 2).toNat % 16 = 0 ∧ 0 ≤ (x.sval 2).toInt ∧ (x.sval 2).toNat + 16 ≤ tdSize td0 ∧
      fenceReady x false = true ∧ x.windowOk { target := handleVal 1 1 0 5 } .barrier = true ∧ x.windowOk { target := handleVal 1 1 0 5 } .look = true ∧ x.sources [1, 2] ∧
      x.sources [1, 2, 3] ∧ (x.popped [1, 2]).room 7 = true ∧ x.landingFree = true ∧ x.sendFree = true := by
  unfold State.granted State.sources; decide

/-- BarriersCountTurnAndRelease: a release that is due, local and through a peer, a wait that has seen its phase pass, and one not registered. -/
theorem test_meets_barrier_ends :
    ∀ b ∈ [OpBody.barRel [] 3 0 1 0 none none, .barRel [] 3 0 1 0 none (some ({}, 8)), .barWait 1 3 0 0 0 true true true, .barWait 1 3 0 0 0 true false false],
      let s := inFlight b
      (s.ops 0).map Op.body = [b] ∧ (s.ops 0).map Op.sc = [0] ∧ (s.ops 0).map Op.due = [0] ∧ (s.findOp 0 9).map Op.body = some b ∧ s.performed [] = true ∧
        s.env.slow.contains 9 = false ∧ s.gateOpen 1 = true ∧ s.remoteWaiters 1 < 32 := by
  decide

/-- BarriersCountTurnAndRelease: a wait that is not registered, with its handle in the operation, whose owner has the object, and whose owner has not. -/
theorem test_meets_remote_retry :
    let p : Peer := { target := handleVal 1 1 0 5 }
    let o : Op := { id := 9, sc := 0, eng := 4, ent := {}, issued := 0, due := 0, body := .barWait 1 5 1 0 0 true false false, ops := [handleVal 7 0 2 3] }
    let t := (with3 { desc := td0 + 0x8000000000000000, peer := p } id).modCell 0 (fun x => { x with ops := [o] })
    let s := t.modCell 1 (fun x => x.modEntry 5 (fun _ => { used := true, gen := 1, desc := td0, stripe := 1, stripes := 10 }))
    let ok (s : State) : Bool := match s.ownerEntry ((s.cell 0).entry (hdIdx (o.ops.getD 0 0))).peer 0 16 with | .ok _ => true | .error _ => false
    s.ops 0 = [] ++ o :: [] ∧ s.findOp 0 9 = some o ∧ s.remoteWaiters 1 < 32 ∧ ok s = true ∧ ok t = false ∧ (t.strand 0 0).trap = none ∧
      (t.strand 0 0).handler = false ∧ (t.cell 0).closed = false := by
  decide

/-- BarriersCountTurnAndRelease: an owner that holds 32 remote waiters. -/
theorem test_meets_full_owner :
    let w : Op := { id := 9, sc := 0, eng := 4, ent := {}, issued := 0, due := 0, body := .barWait 1 3 0 0 0 true true false }
    32 ≤ ((at0 id).modCell 0 (fun x => { x with ops := (List.range 32).map (fun _ => w) })).remoteWaiters 1 := by
  decide

/-- Cell 0 with its sides the strands' and tile registers t4 to t7 full of BF16 zeros. -/
def matCell (x : Cell) : Cell :=
  let t : Tile := { st := .full, fmt := 1 }
  { x with strandSide := [(0, true), (1, true)], tiles := [(4, t), (5, t), (6, t), (7, t)] }

/-- An FP32 tile of 64 rows of 256 bytes in the scratchpad. -/
def tdF : Dword := 0x00000000000FF03F

/-- MatWordsControlScaleAndSave: shape codes of every kind, the strands' sides and others, a full register and an empty one, each half. -/
theorem test_meets_mat_words :
    let s := (at0 (two 1 2) 5).modCell 0 matCell
    let t := at0 (two 1 2) 5
    s.granted g0 ∧ s.unprefixed ∧ 16 ≤ (16 : BitVec 5).toNat ∧ (∀ z ∈ fuseSides 1, s.here.strandMode z = true) ∧ (∀ z ∈ fuseSides 0, s.here.strandMode z = true) ∧
      (∀ z ∈ fuseSides 15, ∀ j ∈ sideMats z, s.here.matBusy j = false) ∧ s.here.chain = none ∧ (s.here.reshape 1).isSome = true ∧
      ((s.modCell 0 (fun x => { x with shapes := [9] })).here.reshape 1) = none ∧
      s.here.pendingOn (((s.here.group 3).map (·.1)).flatMap s.here.pair) true = false ∧ s.here.zone 3 = .free ∧ s.here.shapeOk 3 = true ∧ s.here.groupOf 1 = [1] ∧
      (s.here.tile 4).st = .full ∧ (s.here.tile 3).st = .empty ∧ (∀ j, j < 8 → (255 : BitVec 8).getLsbD j = true → s.here.matIdle j = true) ∧
      s.here.pendingOn (s.here.pair 3) true = false ∧ s.room 7 = true ∧ (s.here.acc 3).dpoison = false ∧ s.sources [1, 2] ∧
    t.granted g0 ∧ t.unprefixed ∧ t.here.strandMode (sideOf 3) = false ∧ t.here.pendingOn (t.here.pair 3) true = false ∧ t.here.zone 3 ≠ .score := by
  unfold State.granted State.unprefixed State.sources; decide

/-- ChunksIssueAndAreAdded: two full registers and a free accumulator, a register with a deferred fault; a chunk at its end, and one that widens. -/
theorem test_meets_chunks :
    let s := (at0 id 5).modCell 0 matCell
    let x := s.here
    let o := inFlight (.chunk [{ acc := 3, wide := false, x := {}, y := {}, px := 0, py := 0 }])
    let w := inFlight (.chunk [{ acc := 3, wide := true, widens := true, x := {}, y := {}, px := 0, py := 0 }])
    let bad : Tile := { st := .full, dfault := some (Code.page, 64) }
    deferredFault [x.tile 4, bad] = some (Code.page, 64) ∧ deferredFault [x.tile 4, x.tile 5] = none ∧ (w.ops 0).map Op.due = [0] ∧
    s.granted g0 ∧ s.unprefixed ∧ x.strandMode (sideOf 3) = true ∧ (∀ r ∈ operandRegs 4 false ++ operandRegs 5 false, r < 16 ∧ (x.tile r).st = .full) ∧
      (x.group 3).any (fun m => m.2.2.1 != 0) = false ∧ (x.group 3).any (fun m => m.2.2.2 != 0) = false ∧ (∀ m ∈ x.group 3, tget 0 x.array m.2.1 ≤ s.now) ∧
      x.pendingOn ((x.group 3).map (·.1) ++ ((x.group 3).map (·.1)).map partner) false = false ∧ x.pendingOn (((x.group 3).map (·.1)).flatMap x.pair) false = false ∧
      x.chain = none ∧ operandFault s [x.tile 4] [x.tile 5] none = none ∧ x.shapeOk 3 = true ∧ (∀ m ∈ x.group 3, dkWide (x.dk (partner m.1)) = false) ∧
      tileFault s [x.tile 4, x.tile 5] = none ∧ (∀ m ∈ x.group 3, (x.acc m.1).poison = false ∧ (x.acc m.1).dpoison = false) ∧
    (o.ops 0).map Op.due = [0] ∧ dkLo ((o.cell 0).dk 3) = false := by
  unfold State.granted State.unprefixed; decide

/-- ChunksIssueAndAreAdded, with a format entry that agrees with the registers. -/
theorem test_meets_entry_chunks :
    let e : BitVec 32 := 0x00000081
    let s := (at0 id 5).modCell 0 (fun x => { matCell x with fmtCache := [(0, e)] })
    (match s.ftEntry s.cur.cell (ftIndex s.cur.ent) with | .ok v => decide (v = e) | .error _ => false) = true ∧ ftReserved e = false ∧
      operandFault s [s.here.tile 4] [s.here.tile 5] (some e) = none := by
  decide

/-- DrainsStartAndComplete: a tile in the scratchpad that takes a drain, room in a result queue, and an entry of format 12. -/
theorem test_meets_drains :
    let s := (with3 { desc := tdF, stripe := 2, stripes := 10 } (fun st => st) 5).modCell 0 matCell
    let x := s.here
    s.granted g0 ∧ s.unprefixed ∧ x.strandMode (sideOf 3) = true ∧ x.pendingOn (((x.group 3).map (·.1)).flatMap x.pair) true = false ∧
      (∀ m ∈ x.group 3, x.pathFree m.2.1 = true) ∧ x.zone 3 = .free ∧ x.shapeOk 3 = true ∧
      (match s.ftEntry s.cur.cell (ftIndex s.cur.ent) with | .ok v => decide (v = 0) | .error _ => false) = true ∧ ftReserved 0 = false ∧ ftRnd 0 < 6 ∧
      (∀ j ∈ (x.group 3).flatMap (fun m => x.pair m.1), (x.acc j).poison = false ∧ (x.acc j).dpoison = false) ∧ (∀ m ∈ x.group 3, dkMode (x.dk m.1) < 2) ∧
      s.sources [1, 2] ∧ ftOut 0 = 0 ∧ (s.scratchHandle 0 (s.sval 1)).isSome = true ∧ tdFmt tdF = 0 ∧ x.group 3 = [(3, 1, 0, 0)] ∧
      (s.sval 2).toNat % tdRb tdF % 256 = 0 ∧ (s.sval 2).toNat / tdRb tdF + 64 ≤ tdRows tdF ∧ (s.sval 2).toNat % tdRb tdF + 256 ≤ tdRb tdF ∧
      (s.me.yq 3).length < 16 ∧ queueFmt (ftOut 0) ((ftScale 0).getLsbD 1) = true ∧ ftOut 0x30000 = 12 ∧ ftReserved 0x30000 = false ∧ ftRnd 0x30000 < 6 := by
  unfold State.granted State.unprefixed State.sources; decide

/-- DrainsStartAndComplete: a drain at its end, rows to push with room and without, and the last of them. -/
theorem test_meets_drain_ends :
    (∀ b ∈ [OpBody.mlines false 0 [] [] (.drain [{ acc := 3 }]), .drainQ 1 [(0, 0)] [{ acc := 3 }], .drainQ 1 [(0, 0), (0, 0)] [{ acc := 3 }]],
      ((inFlight b).findOp 0 9).map Op.body = some b ∧ ((inFlight b).findOp 0 9).map Op.id = some 9 ∧ (((inFlight b).strand 0 0).yq 1).length < 16) ∧
    ((inFlight (.drainQ 1 [(0, 0)] [{ acc := 3 }])).cell 0).runs = true ∧
    (((inFlight (.drainQ 1 [(0, 0)] [{ acc := 3 }])).modCell 0 (fun x => { x with frozenOn := [8] })).cell 0).runs = false ∧
    16 ≤ (((inFlight (.drainQ 1 [(0, 0)] [{ acc := 3 }])).modStrand 0 0 (fun st => { st with y := [(1, (List.range 16).map (fun _ => 0))] })).strand 0 0 |>.yq 1).length := by
  decide

/-- DrainsStartAndComplete: a peer drain to a cell of the shape and to another, its request at a target whose side is the strands' and is not. -/
theorem test_meets_peer_drains :
    let s := (at0 (two 1 5) 5).modCell 0 matCell
    let x := s.here
    let q := inFlight (.drainP [{ acc := 3 }]) 0 none (some (.peerDrain 1 5 0 0))
    s.granted g0 ∧ s.sources [1, 2] ∧ x.group 3 = [(3, 1, 0, 0)] ∧ x.pendingOn (x.pair 3) true = false ∧ x.pathFree 1 = true ∧ s.sendFree = true ∧
      (s.sval 2).toNat < 16 ∧ s.inShape 0 ((s.sval 1).toNat % 128) = true ∧ s.inShape 0 (5 % 128) = false ∧
      (∀ j ∈ x.pair 3, (x.acc j).poison = false ∧ (x.acc j).dpoison = false) ∧
    (q.findAny 9).isSome = true ∧ q.gateOpen 1 = true ∧ (q.cell 1).strandMode (sideOf 5) = false ∧
      ((q.modCell 1 matCell).cell 1).strandMode (sideOf 5) = true ∧ dkLo ((q.cell 1).dk 5) = false ∧ (q.cell 1).pendingOn ((q.cell 1).pair 5) true = false := by
  unfold State.granted State.sources; decide

/-- DrainsStartAndComplete: a peer addition that waits behind a chunk on its accumulator, and one that nothing precedes. -/
theorem test_meets_waiting_additions :
    let o : Op := { id := 9, sc := 0, eng := 5, ent := {}, issued := 0, due := 0, body := .peerAdd 5 0 0 1 7, accs := [5], waits := true }
    let c : Op := { id := 8, sc := 0, eng := 5, ent := {}, issued := 0, due := 21, body := .chunk [], accs := [5] }
    let z : Op := { id := 7, sc := 0, eng := 5, ent := {}, issued := 0, due := 136, body := .drainP [] }
    let s := ((at0 id 5).modCell 0 (fun x => matCell { x with ops := [o] })).modCell 1 (fun x => { x with ops := [z] })
    let t := (at0 id 5).modCell 0 (fun x => { x with ops := [c, o] })
    (s.findAny 9).map (fun x => (x.1, x.2.id, x.2.waits, x.2.accs)) = some (0, 9, true, [5]) ∧ (s.findAny 9).map (fun x => x.2.req) = some none ∧ (s.cell 0).pendingBefore 9 [5] = false ∧ (s.cell 0).strandMode (sideOf 5) = true ∧ dkLo ((s.cell 0).dk 5) = false ∧
      (s.findOp 1 7).isSome = true ∧ (t.findAny 9).map (fun x => (x.1, x.2.id, x.2.waits)) = some (0, 9, true) ∧ (t.cell 0).pendingBefore 9 [5] = true ∧ (t.cell 0).strandMode (sideOf 5) = false ∧
      (t.cell 0).pendingOn ((t.cell 0).pair 5) true = true := by
  decide

/-- DrainsStartAndComplete: a peer addition at its end, an acknowledgement, and a refusal. -/
theorem test_meets_peer_ends :
    let a := inFlight (.peerAdd 5 0 0 1 7)
    let d := inFlight (.drainP [{ acc := 3 }])
    let r := inFlight (.drainP [{ acc := 3 }]) 0 (some (Code.matshape, 8))
    (a.findAny 9).isSome = true ∧ dkWide ((a.cell 0).dk 5) = false ∧ d.peerDone 0 9 = true ∧ d.env.slow.contains 9 = false ∧
      (d.findOp 0 9).map Op.err = some none ∧ (r.findOp 0 9).map Op.err = some (some (Code.matshape, 8)) ∧ (r.strand 0 0).trap = none ∧
      (r.strand 0 0).handler = false ∧ (r.cell 0).closed = false := by
  decide

/-- A tile descriptor of 4096 rows of 256 bytes, room for a mat's image. -/
def tdBig : Dword := 0x04000000000FFFFF

/-- MatWordsControlScaleAndSave: an accumulator that may be scaled, a mat whose image fits, images that agree and do not. -/
theorem test_meets_mat_images :
    let s := (with3 { desc := tdBig, stripe := 2, stripes := 10 } id 5).modCell 0 matCell
    let x := s.here
    s.granted g0 ∧ s.unprefixed ∧ s.sources [1] ∧ s.sources [1, 2] ∧ x.strandMode (sideOf 3) = true ∧ x.strandMode (7 / 4) = true ∧
      (∀ m ∈ x.group 3, x.pathFree m.2.1 = true) ∧ x.pendingOn [14, 15] true = false ∧ x.pathFree 7 = true ∧ (s.scratchHandle 0 (s.sval 1)).isSome = true ∧
      (s.sval 2).toNat % 64 = 0 ∧ (s.sval 2).toNat + 32800 ≤ tdSize tdBig ∧ (∀ j ∈ [14, 15], (x.acc j).poison = false ∧ (x.acc j).dpoison = false) ∧
      imageRefused 0 0 = false ∧ imageRefused (1 <<< 66) (1 <<< 66) = true ∧
      ((inFlight (.mlines true 0 [] [] (.mrest 7))).findOp 0 9).map Op.body = some (.mlines true 0 [] [] (.mrest 7)) ∧
      ((inFlight (.mlines true 0 [] [] (.mrest 7))).cell 0).closed = false := by
  unfold State.granted State.unprefixed State.sources; decide

/-- A chain open in cell 0, in both sides' STRAND mode. -/
def withCh (ch : Chain) (x : Cell) : Cell := { matCell x with chain := some ch, shapes := [9, 10] }

/-- ChainsOpenAndStep: a chain that may open with two queries, a scale that is not finite, a first register that is not aligned, and registers with a
deferred fault and without. -/
theorem test_meets_chain_open :
    let s := (at0 (two 0x3F800000 0x7F800000) 5).modCell 0 matCell
    let x := s.here
    s.granted g0 ∧ s.unprefixed ∧ s.sources [1] ∧ s.sources [2] ∧ x.strandMode 0 = true ∧ x.strandMode 1 = true ∧ (∀ j, j < 8 → x.matBusy j = false) ∧
      (∀ r ∈ qRegs 4 false, r < 16 ∧ (x.tile r).st = .full) ∧ (∀ r ∈ qRegs 4 true, r < 16 ∧ (x.tile r).st = .full) ∧ x.chain = none ∧
      (f32 ((s.sval 1).truncate 32)).isFin = true ∧ (f32 ((s.sval 2).truncate 32)).isFin = false ∧
      (∀ t ∈ (qRegs 4 true).map x.tile, isMatFmt t.fmt.toNat = true ∧ t.fmt = (x.tile 4).fmt ∧ t.planes = (x.tile 4).planes) ∧
      (∀ k ∈ [8, 10, 12, 14], dkLo (x.dk k) = false) ∧ tileFault s ((qRegs 4 true).map x.tile) = none ∧
      deferredFault (((qRegs 4 true).filter (fun r => decide (r < 16))).map x.tile) = none ∧ 5 % (if true then 4 else 2) ≠ 0 ∧
      deferredFault (((qRegs 4 true).filter (fun r => decide (r < 16))).map
        (x.setTile 7 { st := .full, dfault := some (Code.page, 64) }).tile) = some (Code.page, 64) ∧
      (∀ k, k < 16 → (x.acc k).poison = false ∧ (x.acc k).dpoison = false) := by
  unfold State.granted State.unprefixed State.sources; decide

/-- ChainsOpenAndStep: a side that a word at the head of M claims, before and after the cycle without a task. -/
theorem test_meets_claims :
    let s := at0 (fun st => { st with queues := [(5, [{ word := 0xA0400000 }])] }) 5
    let t := s.modCell 0 (fun x => { x with claim := [(0, 0)], time := 1 })
    (s.cell 0).strandMode 0 = false ∧ s.claimed 0 0 = true ∧ tfind 0 (s.cell 0).sideTask = none ∧ tfind 0 (s.cell 0).claim = none ∧
      (t.cell 0).strandMode 0 = false ∧ t.claimed 0 0 = true ∧ tfind 0 (t.cell 0).claim = some 0 ∧ 0 < (t.cell 0).time := by
  decide

/-- ChainsOpenAndStep: a step of 64 keys of an open chain, a reserved bit, a chain that is poisoned. -/
theorem test_meets_chain_steps :
    let s := (with3 { desc := td0, stripe := 2, stripes := 10 } (fun st => (st.writeS 4 { val := 0x003F0000 }).writeS 5 { val := 0x1000 }) 5).modCell 0 (withCh {})
    let k := s.chHandle 0 (s.sval 1)
    s.granted g0 ∧ s.unprefixed ∧ s.sources [1, 1, 4] ∧ s.sources [2, 1, 5] ∧ s.here.chain = some {} ∧ ({} : Chain).busy ≤ s.now ∧ ({} : Chain).steps.length ≤ 2 ∧
      s.here.rowsBusy = false ∧ s.here.bankBusy {} = false ∧ ({} : Chain).poison = false ∧
      (∀ k ∈ ({} : Chain).allAccs, (s.here.acc k).poison = false ∧ (s.here.acc k).dpoison = false) ∧
      s.sval 4 &&& 0xFFFFFFFFFE80F000 = 0 ∧ s.sval 5 &&& 0xFFFFFFFFFE80F000 ≠ 0 ∧ k.isSome = true ∧ s.chHandle 0 (s.sval 2) = none ∧
      (match k with | some h => stepChecks {} h h 0 64 | none => some 0) = none := by
  unfold State.granted State.unprefixed State.sources; decide

/-- ChainsOpenAndStep: a step at its value phase and one at its end, whole and poisoned. -/
theorem test_meets_step_ends :
    ∀ bad ∈ [true, false],
      let st : ChStep := { op := 9, vs := 0, tv := 0, key := { bad := bad } }
      let s := (inFlight .chainStep).modCell 0 (fun x => { withCh { steps := [st] } x with time := 20 })
      (s.cell 0).chain = some { steps := [st] } ∧ st.vs ≤ (s.cell 0).time ∧ st.vs + st.tv + 20 ≤ (s.cell 0).time ∧ (s.findOp 0 9).map Op.id = some 9 ∧
        (s.strand 0 0).trap = none ∧ (s.strand 0 0).handler = false ∧ (s.cell 0).closed = false := by
  decide

/-- ChainsCloseAndKeepTheirRows: a poisoned chain and a sound one; a chain without steps, room in a result queue, a tile with room for (m, l) and for an image. -/
theorem test_meets_chain_close :
    let s := (with3 { desc := tdBig, stripe := 2, stripes := 10 } id 5).modCell 0 (withCh {})
    (((s.modCell 0 (withCh { poison := true })).here.chain.map Chain.poison) = some true) ∧ ({} : Chain).poison = false ∧
    s.granted g0 ∧ s.unprefixed ∧ s.here.chain = some {} ∧ s.here.rowsBusy = false ∧ s.here.bankBusy {} = false ∧ (∀ m, m < 8 → s.here.pathFree m = true) ∧
      (∀ k ∈ ({} : Chain).allAccs, (s.here.acc k).poison = false ∧ (s.here.acc k).dpoison = false) ∧ (s.me.yq 3).length < 16 ∧ s.sources [1, 2] ∧
      (s.scratchHandle 0 (s.sval 1)).isSome = true ∧ (s.sval 2).toNat % 64 = 0 ∧ (s.sval 2).toNat + 1600 ≤ tdSize tdBig := by
  unfold State.granted State.unprefixed State.sources; decide

/-- ChainsCloseAndKeepTheirRows: a close that is due, with rows and without; images that fit the chain and do not. -/
theorem test_meets_chain_ends :
    (∀ b ∈ [OpBody.che (some 1) [0] none, .che none [] (some [])],
      let s := ((inFlight b).modCell 0 (withCh {})).modOp 0 9 (fun o => { o with accs := [0] })
      (s.findOp 0 9).map Op.body = some b ∧ (s.cell 0).chain = some {} ∧ (s.findOp 0 9).map Op.accs = some [0]) ∧
    (let s := (inFlight (.mlines true 0 [] [] .chld)).modCell 0 (withCh {})
     (s.cell 0).chain = some {} ∧ (s.findOp 0 9).map Op.err = some none ∧ (s.strand 0 0).trap = none ∧ (s.strand 0 0).handler = false ∧ (s.cell 0).closed = false) ∧
    leRead [] 1548 4 = ({} : Chain).flagBits ∧ imageWord [] 1536 = ({} : Chain).c ∧ leRead [] 1552 48 = 0 ∧ leRead [(1548, 0xFF)] 1548 4 ≠ ({} : Chain).flagBits := by
  decide

/-- A live sequence of BF16 rows whose overlay's tables are all the table at 0x80000. -/
def seq0 : SeqE :=
  { par := 0, v := true, dead := false, depth := 0, len := 3, fork := 0, frz := 0, root := 0x8000000000000020, kfmt := 1, kpl := 0, ksc := false,
    vfmt := 1, d := 64, nslot := 1, nchild := 0, br := 0, own := 1, clean := true }

/-- VF0 with a sequence table at 0x10000: 0 may be written, 1 is free, 2 is frozen below position 5, has depth 4 and a child, and is no root, 3 is dead;
in their overlay page 1 of slot 0 is resident, page 2 demoted, page 3 absent. -/
def withKv (f : Strand → Strand) (nroot : Nat := 1) : State :=
  let t : Table Byte := writeAll [] (placed 0x80000 (le8 0x8000000000000020 ++ le8 0xF000000000050000 ++ le8 0x0200000000000000) ++
    placed 0x50000 seq0.bytes ++ placed 0x50080 ({ seq0 with frz := 5, depth := 4, nchild := 1 } : SeqE).bytes ++
    placed 0x500C0 ({ seq0 with dead := true } : SeqE).bytes)
  { ((at0 f 4).modVf 0 (fun v => { v with cfg := { v.cfg with ptroot := 0x8000000000000020, seqtab := 0x10000, nseq := 4, nroot := nroot, tier2 := 8 },
                                          tier := [(0, {})] })) with mem := { views := [(0, t)], home := t } }

/-- KvRequestsArePostedAndApplied: an aligned position and one that is not. -/
theorem test_meets_kv_words :
    let s := withKv (two 0x0000000000000040 0x0000000000000001)
    s.granted g0 ∧ s.unprefixed ∧ s.sources [(1 : BitVec 5).zeroExtend 6] ∧ (s.sval 1).toNat % 64 = 0 ∧ s.landingFree = true ∧
      (s.here.tile 3).st = .empty ∧ s.sources [(2 : BitVec 5).zeroExtend 6] ∧ (s.sval 2).toNat % 64 ≠ 0 ∧ s.sendFree = true ∧
      s.vsources [(4 : BitVec 5)] ∧ (s.popped [1]).room 7 = true := by
  unfold State.granted State.unprefixed State.sources State.vsources; decide

/-- What a lookup in an overlay found: a resident frame, a demoted page, none, an error. -/
def found (r : Except Code (Option KvLeaf)) : Nat :=
  match r with
  | .ok (some (.frame _)) => 1
  | .ok (some (.demoted _)) => 2
  | .ok none => 3
  | .error _ => 0

/-- An answer that is no error. -/
def isOk {α β : Type} (r : Except α β) : Bool := match r with | .ok _ => true | .error _ => false

/-- KvRequestsArePostedAndApplied: sequences that may be named and not, pages that are resident, demoted and absent. -/
theorem test_meets_kv_sequences :
    let s := withKv id
    isOk (s.seqLive 0 0) = true ∧ isOk (s.seqLive 0 2) = true ∧ isOk (s.seqLive 0 3) = false ∧ found (s.kvFind 0 seq0.root (kvKey 0 1)) = 1 ∧
      found (s.kvFind 0 seq0.root (kvKey 0 2)) = 2 ∧ found (s.kvFind 0 seq0.root (kvKey 0 3)) = 3 ∧
      (match s.seqLive 0 2 with | .ok e => e.depth == 4 && e.frz == 5 && e.nchild == 1 | .error _ => false) = true ∧
      (match s.seqLive 0 0 with | .ok e => e.depth == 0 && e.frz == 0 && e.nslot == 1 && e.nchild == 0 | .error _ => false) = true := by
  decide

/-- KvRequestsArePostedAndApplied: a free number and none, and entries that can be written. -/
theorem test_meets_kv_forks :
    let s := withKv id
    (match s.freeSeq 0 3 1 with | .ok (some n) => n == 1 | _ => false) = true ∧ ((withKv id 4).vf 0).cfg.nseq - ((withKv id 4).vf 0).cfg.nroot = 0 ∧
      isOk (s.kvNewPage 0 seq0 0 3) = true ∧ isOk ((s.modVf 0 (fun v => { v with free := [] })).kvNewPage 0 seq0 0 3) = false ∧
      (∀ v ∈ [1, 0], isOk (s.seqWrite 0 v { seq0 with len := 65 }) = true) ∧
      (match s.seqWrite 0 1 { seq0 with fork := 3 } with | .ok t => isOk (t.seqWrite 0 0 { seq0 with frz := 3, nchild := 1 }) | .error _ => false) = true := by
  decide

/-- KvRequestsArePostedAndApplied: a request of each kind at the KV unit. -/
theorem test_meets_kv_requests :
    ∀ e ∈ [(OpBody.stk 0, Req.kvStore false 0 0 7), (.kfork 7 none, .kvFork 0), (.store, .kvFree 0)],
      let s := inFlight e.1 64 none (some e.2)
      (s.findAny 9).isSome = true ∧ (s.ops 0).map Op.id = [9] ∧ (s.ops 0).map Op.req = [some e.2] ∧ (s.ops 0).map Op.body = [e.1] ∧ (s.kvPending 0).map (fun x => x.2.id) = [9] ∧
        (0 : Dword).extractLsb' 52 11 = 0 ∧ (0 : Dword).extractLsb' 24 8 = 0 ∧ (0 : Dword).extractLsb' 24 40 = 0 ∧
        (0x1000000 : Dword).extractLsb' 24 40 ≠ 0 ∧ ¬(seq0.nslot < kvSlot 0 ∨ seq0.d ≤ 64 * kvCb 0) ∧
        (seq0.nslot < kvSlot 0x0200000000000000 ∨ seq0.d ≤ 64 * kvCb 0) := by
  decide

/-- An f.kvcp of two pages of sequence 0, slot 0, from page p. -/
def kvcp (op p : Nat) : FState :=
  { kind := .kvcp, d := 3, desc := [BitVec.ofNat 8 op, 0, 0, 0] ++ leBytes p 4 ++ leBytes 2 4 ++ zeros 52 }

/-- KvPagesMoveBetweenTiers: an f.kvcp at each piece and at its end; the pages it names; room in the second tier and none; no frame. -/
theorem test_meets_kv_pages :
    let s := withKv id
    let p := inFlight (.flume (kvcp 3 0))
    (p.cell 0).closed = false ∧ ((p.modCell 0 (fun x => { x with closed := true })).cell 0).closed = true ∧
    (p.findOp 0 9).map Op.body = some (.flume (kvcp 3 0)) ∧ (∀ op ∈ [2, 3], (kvcp op 0).piece < (kvcp op 0).kcCount ∧ (kvcp op 0).kcOp = op ∧
      (kvcp op 0).kcSeq = 0 ∧ { kvcp op 0 with piece := 2 }.kcCount ≤ 2) ∧
    (kvcp 2 1).kcPage 0 = 1 ∧ (kvcp 2 2).kcPage 0 = 2 ∧ (kvcp 2 2).kcPage 1 = 3 ∧ seq0.lacks 0 0 = false ∧ seq0.lacks 0 0x4000000 = true ∧
    (s.vf 0).tier.length < (s.vf 0).cfg.tier2 ∧ (State.reset.vf 0).cfg.tier2 ≤ (State.reset.vf 0).tier.length ∧
    ((s.modVf 0 (fun v => { v with free := [] })).allocFrame 0 0).isNone = true := by
  decide

/-- A stream in cell 0 that issues the word at address a: f1 holds x and f2 holds y. -/
def stream (x y : Dword) (f : Flume → Flume := id) (ent : Entry := { addr := 0x100 }) : State :=
  let s := (withSem id).modCell 0 (fun c => { c with flume := f { launch := some 1, pc := 0x104, regs := [(1, x), (2, y)] } })
  { s with cur := { cell := 0, sc := 4, eng := 6, ent := ent } }

/-- The stream's only operation in flight. -/
def withFop (o : OpBody) (s : State) : State :=
  s.modCell 0 (fun c => { c with ops := [{ id := 9, sc := 4, eng := 6, ent := {}, issued := 0, due := 0, body := o }] })

/-- FlumeStreamsRunTheirWords: registers with and without an operation that is to write them, a loop that may start and one that may not, a prefix. -/
theorem test_meets_flume_control :
    let s := stream 1 0
    let q := withFop (.flume { d := 3 }) s
    let l := stream 1 0 (fun f => { f with loops := [{ start := 0x100, last := 0x200, left := 1 }] })
    let p := stream 1 0 id { addr := 0x100, pfx := some 5 }
    s.fpending 3 = false ∧ q.fpending 3 = true ∧ (immRI s.cur.ent 0).toInt < 1 ∧ 1 ≤ (immRI s.cur.ent 2).toInt ∧ (s.flume 0).loops = [] ∧
      (l.flume 0).loops.length < 4 ∧ (0x200 : Dword).ult (0x100 + 4 * immRI s.cur.ent 2) = false ∧ (0x100 : Dword).ult (0x100 + 4 * immRI s.cur.ent 2) = true ∧
      (tget 0 (s.flume 0).regs 1).toNat % 2 ^ 32 ≠ 0 ∧ (tget 0 (s.flume 0).regs 2).toNat % 2 ^ 32 = 0 ∧ s.cur.ent.pfx = none ∧ q.streamOps 0 ≠ [] ∧
      s.streamOps 0 = [] ∧ (s.flume 0).launch = some 1 ∧ p.cur.ent.pfx.isSome = true := by
  decide

/-- FlumeStreamsRunTheirWords: a semaphore, a fence's kinds and scopes, a barrier object that can be updated and one that cannot, writes
performed and not. -/
theorem test_meets_flume_sync :
    let h := handleVal 7 0 0 3
    let s := (stream h 0).modCell 0 (fun x => x.modEntry 3 (fun _ => { desc := td0, stripe := 2, stripes := 10, used := true, gen := 7 }))
    let q := withFop (.flume { d := 3 }) s
    let u : State := { s with mem := { flight := [{ id := 5, die := 0, num := 1, deps := [], todo := [1], bytes := [] }] } }
    let w := s.modCell 0 (fun x => x.entryWrite (x.entry 3) 0 (le8 0x0000000200002001))
    s.fpending 3 = false ∧ s.resolve 0 3 = some 7 ∧ s.resolve 0 4 = none ∧ s.streamOps 0 = [] ∧ q.streamOps 0 ≠ [] ∧ (2 : BitVec 2) ≠ 3 ∧
      (4 : BitVec 3).toNat < 5 ∧ 5 ≤ (7 : BitVec 3).toNat ∧ s.cellHandle 0 0 = none ∧ (s.cellHandle 0 h).isSome = true ∧
      (u.performed [5] && u.fillOk (u.objectLines 0 h 0)) = false ∧ (s.performed [] && s.fillOk (s.objectLines 0 h 0)) = true ∧
      ((s.fillPass (s.objectLines 0 h 0)).fillOk (s.objectLines 0 h 0)) = false ∧
      isOk (s.barrierAt 0 h 16380 1 0) = false ∧ isOk (w.barrierAt 0 h 0 1 0) = true := by
  decide

/-- FlumeStreamsRunTheirWords: a launch that starts its stream on a cell whose engine is free. -/
theorem test_meets_stream_start :
    let h : Share := { total := 3, started := true, stream := .pending }
    let l : Launch := { shares := [(0, h)] }
    let s : State := { at0 id with launches := [(2, l)] }
    (s.cell 0).runs = true ∧ (s.flume 0).launch = none ∧ tfind 2 s.launches = some l ∧ tfind 0 l.shares = some h ∧ (s.cell 0).vf = some l.vf ∧
      h.started = true ∧ h.stream = .pending ∧ (∀ e ∈ s.launches, e.1 ≠ 2 → ∀ x, tfind 0 e.2.shares = some x → x.stream ≠ .pending) ∧
      (s.launches.filter (fun e => e.1 == 2)).length = 1 := by
  decide

/-- FlumeStreamsRunTheirWords: the word 0xE0000005, a prefix, and another one, fetched in the page at 0x10000, and no page. -/
theorem test_meets_stream_fetch :
    let s0 := paged 0xF000000000050000 id
    let t : Table Byte := writeAll s0.mem.home (placed 0x50000 (leBytes 5 4 ++ leBytes 0xE0000005 4))
    let s : State := { s0 with mem := { views := [(0, t)], home := t } }
    let at' (a : Dword) (l : Dword) : State := s.modCell 0 (fun c =>
      { c with flume := { launch := some 1, pc := a, loops := [{ start := 0x10000, last := l, left := 1 }] } })
    let w (a : Dword) (k : Word) : Bool := (match ((at' a 0).cacheLeaf 0 0 0 a.toNat).fetchWord 0 a with | .ok w => w == k | .error _ => false)
    (s.cell 0).runs = true ∧ w 0x10000 5 = true ∧ w 0x10004 0xE0000005 = true ∧ (5 : Word).extractLsb' 29 3 ≠ 7 ∧ (0xE0000005 : Word).extractLsb' 29 3 = 7 ∧
      isOk (((at' 0x20000 0).cacheLeaf 0 0 0 0x20000).fetchWord 0 0x20000) = false ∧ ((at' 0x10004 0x10004).flume 0).loops.map FLoop.last = [0x10004] ∧
      ((at' 0x10000 0).flume 0).launch.isSome = true ∧ ((at' 0x10000 0).flume 0).stopped = false ∧ ((at' 0x10000 0).flume 0).word = none ∧
      (∀ k ∈ ((at' 0x10000 0x10004).flume 0).loops, k.last ≠ 0x10000) := by
  decide

/-- FlumeOperationsStartMoveAndEnd: a descriptor that can be read, one that is misaligned, one on no page, sixteen operations in flight. -/
theorem test_meets_data_words :
    let s0 := stream 0x10000 0x10020
    let s : State := { (s0.modVf 0 (fun v => { v with cfg := { v.cfg with ptroot := 0x8000000000000020 } })) with mem := (paged 0xF000000000050000 id).mem }
    let q := withFop (.flume { d := 3 }) s
    let full := s.modCell 0 (fun c => { c with ops := (q.ops 0) ++ (q.ops 0) ++ (q.ops 0) ++ (q.ops 0) ++ (q.ops 0) ++ (q.ops 0) ++ (q.ops 0) ++ (q.ops 0) ++
      (q.ops 0) ++ (q.ops 0) ++ (q.ops 0) ++ (q.ops 0) ++ (q.ops 0) ++ (q.ops 0) ++ (q.ops 0) ++ (q.ops 0) })
    s.cur.ent.pfx = none ∧ s.fpending 4 = false ∧ s.fpending 1 = false ∧ (s.cell 0).vf.isSome = true ∧ s.fops 0 < 16 ∧ 16 ≤ full.fops 0 ∧
      full.fpending 4 = false ∧ s.svmFull 0 0x10000 = false ∧ (tget 0 (s.flume 0).regs 1).toNat % 64 = 0 ∧ (tget 0 (s.flume 0).regs 2).toNat % 64 ≠ 0 ∧
      isOk (s.readVa (some 0) 0 0 0x10000 64) = true ∧ isOk (s.readVa (some 0) 0 0 0x20000 64) = false := by
  decide

/-- An f.copy of one row of 64 bytes within the tile of table entry 3, with flags and n2; an f.gath or f.scat of n rows of 64 bytes. -/
def fcopy (flags : Byte) (n2 : Nat) : FState :=
  let h := leBytes (handleVal 7 0 0 3).toNat 8
  { kind := .copy, d := 3, desc := h ++ h ++ zeros 4 ++ leBytes 64 4 ++ [flags, 3, 0, 0] ++ leBytes 64 4 ++ leBytes 1 4 ++ leBytes n2 4 ++ zeros 24 }
def fgath (k : FKind) (n limit : Nat) : FState :=
  let h := leBytes (handleVal 7 0 0 3).toNat 8
  { kind := k, d := 3, desc := h ++ h ++ leBytes 0x10000 8 ++ zeros 4 ++ leBytes 64 4 ++ leBytes n 4 ++ leBytes 64 4 ++ leBytes 64 4 ++
      leBytes limit 4 ++ [5] ++ zeros 15 }

/-- FlumeOperationsStartMoveAndEnd: pieces that move and that fail, and operations without a piece left. -/
theorem test_meets_pieces :
    let s0 := withFop (.flume (fcopy 5 1)) (stream 0 0)
    let s1 := s0.modCell 0 (fun x => x.modEntry 3 (fun _ => { desc := td0, stripe := 2, stripes := 10, used := true, gen := 7 }))
    let s : State := { (s1.modVf 0 (fun v => { v with cfg := { v.cfg with ptroot := 0x8000000000000020 } })) with mem := (paged 0xF000000000050000 id).mem }
    let h : End := { space := 1, base := handleVal 7 0 0 3 }
    (s.findOp 0 9).map Op.body = some (.flume (fcopy 5 1)) ∧ (s.ops 0).map Op.id = [9] ∧ (fcopy 5 1).code = none ∧ (s.cell 0).closed = false ∧
      (fcopy 5 1).due = none ∧ (fcopy 5 1).transposes = false ∧ 0 < (fcopy 5 1).w 28 4 ∧ 0 / (fcopy 5 1).n1 < (fcopy 5 1).n2 ∧ (fcopy 5 0).n2 ≤ 0 ∧
      (fcopy 5 1).w 24 1 % 4 = 1 ∧ isOk (s.endRead 0 h 0 64) = true ∧ isOk (s.endRead 0 h 16380 64) = false ∧
      isOk (s.endWrite 0 h 64 (zeros 64)) = true ∧ isOk (s.endWrite 0 h 16380 (zeros 64)) = false ∧
      (fgath .gath 1 4).w 32 4 = 1 ∧ (fgath .scat 0 4).w 32 4 = 0 ∧ (fgath .gath 1 4).w 48 1 % 4 = 1 ∧ isOk (s.readVa (some 0) 0 0 0x10000 4) = true ∧
      (fgath .gath 1 0).w 44 4 ≤ 0 ∧ 0 < (fgath .gath 1 4).w 44 4 ∧ isOk (s.moveBytes 0 h 0 h 64 64) = true ∧
      s.fillOk (s.endLines 0 h 0 64 ++ s.endLines 0 h 64 64) = true ∧
      (s.fillPass (s.endLines 0 h 0 64)).fillOk (s.endLines 0 h 0 64) = false := by
  decide

/-- FlumeOperationsStartMoveAndEnd: an accounted piece whose writes are performed, a request at a stack, an operation that has ended. -/
theorem test_meets_operation_ends :
    let f : FState := { kind := .svm, d := 3 }
    let s : State := { withFop (.flume f) (stream 0 0) with svmq := [(2, [(0, 9)])] }
    let u : State := { s with mem := { flight := [{ id := 5, die := 0, num := 1, deps := [], todo := [1], bytes := [] }] } }
    (s.performed [] && s.fillOk (s.objectLines 0 f.barrier.1 f.barrier.2)) = true ∧ (u.performed [5] && u.fillOk (u.objectLines 0 f.barrier.1 f.barrier.2)) = false ∧
      s.svmNext 2 = some (0, 9) ∧ f.kind = .svm ∧
      ((withFop (.flume (f.finish 0)) s).findOp 0 9).map Op.body = some (.flume (f.finish 0)) ∧ (f.finish 0).code = some 0 ∧ (s.flume 0).stopped = false := by
  decide

/-- FlumeOperationsStartMoveAndEnd: an f.svm that fails, one of no row that moves its bound to a landing, and one that waits for the landing's fill port. -/
theorem test_meets_svm :
    let l := (stream 0 0).modLanding 0 4 (fun l => { l with used := true, gen := 9, desc := 0x44000000000FF03F })
    let f (h : Dword) : FState := { kind := .svm, d := 3, desc := zeros 24 ++ leBytes h.toNat 8 ++ zeros 32 }
    (match (stream 0 0).svmServe 0 (f 0) with | .fail e _ => e == Code.handle | _ => false) = true ∧
      (match l.svmServe 0 (f (handleVal 9 0 1 4)) with | .moved .. => true | _ => false) = true ∧
      (match (l.fillPass (l.endLines 0 { space := 1, base := handleVal 9 0 1 4 } 0 16384)).svmServe 0 (f (handleVal 9 0 1 4)) with
        | .waits => true | _ => false) = true := by
  decide

/-- FlumeOperationsStartMoveAndEnd: four requests of the VF at the stack of W, and three. -/
theorem test_meets_full_stacks :
    let h := handleVal 9 0 1 4
    let desc := leBytes 0x10000 8 ++ zeros 16 ++ leBytes h.toNat 4 ++ zeros 4 ++ leBytes 64 4 ++ leBytes 1 4 ++ [1] ++ zeros 23
    let s0 := (paged 0xF000000000050000 id).modLanding 0 4 (fun l => { l with used := true, gen := 9, desc := 0x44000000000FF03F })
    let t : Table Byte := writeAll s0.mem.home (placed 0x50000 desc)
    let s (q : List (Nat × Nat)) : State := { s0 with mem := { views := [(0, t)], home := t }, svmq := [(0, q)] }
    State.svmFull (s [(0, 5), (0, 6), (0, 7), (0, 8)]) 0 0x10000 = true ∧ State.svmFull (s [(0, 5), (0, 6), (0, 7)]) 0 0x10000 = false := by
  decide

/-- FlumeOperationsStartMoveAndEnd: a list's first segment, read and held, whose second piece moves, and a list that has ended; a copy that transposes. -/
theorem test_meets_list_pieces :
    let h := leBytes (handleVal 7 0 0 3).toNat 8
    let f : FState := { kind := .xlist, d := 3, desc := leBytes 0x10000 8 ++ leBytes 1 4 ++ zeros 52, sub := 1, seg := h ++ h ++ zeros 8 ++ leBytes 4096 4 ++ [5, 0, 0, 0] }
    let w (o n : Nat) : Nat := recField f.seg o n
    f.code = none ∧ f.due = none ∧ f.piece < f.w 8 4 ∧ f.w 8 4 ≤ ({ f with piece := 1 } : FState).piece ∧ f.sub ≠ 0 ∧
      ¬(w 24 4 = 0 ∨ w 28 1 / 16 ≠ 0 ∨ 1 < w 28 1 % 4 ∨ 1 < w 28 1 / 4 ∨ w 29 3 ≠ 0 ∨ (w 28 1 % 4 = 0 ∧ w 16 4 ≠ 0) ∨ (w 28 1 / 4 = 0 ∧ w 20 4 ≠ 0)) ∧
      w 24 4 ≤ 2048 * f.sub + min 2048 (w 24 4 - 2048 * f.sub) ∧
      (fcopy 0x15 1).transposes = true ∧ 0 < (fcopy 0x15 1).n1 ∧ 0 < (fcopy 0x15 1).w 28 4 / (fcopy 0x15 1).elem := by
  decide

/-- Packages: this one at (0, 0, 0) of a pod of 2 × 1 × 1, VF0 with a peer-table entry for VF0 of the other one. -/
def inPod (s : State) : State :=
  { s with pod := some (0, 0, 0, 2, 1, 1) }.modVf 0 (fun v => { v with peers := [(0, 0x80000001)] })

/-- Cell 0 of VF0 in the package at (x, 0, 0), and in VF 5, which does not exist. -/
def atX (x : BitVec 4) : Place := { x := x, y := 0, z := 0, vf := 0, cell := 0 }

/-- TorusPacketsReachTheirTarget: a packet for another package, its link in service and not; a ring piece for this one, from a VF with an entry
and without, its VF there and not; one behind another; a landing and a barrier object that take it, and whose fill port is busy. -/
theorem test_meets_torus_packets :
    let land : BitVec 32 := (handleVal 9 0 1 4).truncate 32
    let k : BitVec 32 := (handleVal 7 0 0 3).truncate 32
    let p : Packet := { src := atX 1, dst := atX 0, id := 6, body := .ring land 0 [1, 2, 3, 4] (some (k, 0)) }
    let out : Packet := { p with src := atX 0, dst := atX 1 }
    let s0 := (inPod (with3 { desc := td0, stripe := 2, stripes := 10 } id)).modLanding 0 4 (fun l => { l with used := true, gen := 9, desc := 0x44000000000FF03F })
    let s1 := s0.modCell 0 (fun x => x.entryWrite (x.entry 3) 0 (le8 0x0000000200001001))
    let s : State := { s1 with rings := [p, p] }
    let ok (t : Packet) : Bool := !s.answersNak t.dst && s.hasPeer t.dst.vf.toNat (placeBits t.src)
    s.pod.isSome = true ∧ s.isOwn p.dst = true ∧ s.isOwn out.dst = false ∧ s.linkUp out = true ∧ { s with linksDown := [(0, true)] }.linkUp out = false ∧
      ok p = true ∧ s.hasPeer 0 (placeBits (atX 0)) = false ∧ s.answersNak { atX 0 with vf := 5 } = true ∧ s.rings[1]? = some p ∧
      (∃ q ∈ s.rings.take 1, q.src = p.src ∧ q.dst = p.dst) ∧ (∀ q ∈ s.rings.take 0, ¬(q.src = p.src ∧ q.dst = p.dst)) ∧ (s.cell 0).vf = some 0 ∧
      hdLvl (land.zeroExtend 64) = 1 ∧ hdLvl (k.zeroExtend 64) ≠ 1 ∧ isOk (s.endWrite 0 { space := 1, base := land.zeroExtend 64 } 0 [1, 2, 3, 4]) = true ∧
      isOk (s.endWrite 0 { space := 1, base := land.zeroExtend 64 } 16382 [1, 2, 3, 4]) = false ∧ (s.scratchHandle 0 (k.zeroExtend 64)).isSome = true ∧
      isOk (s.barrierAt 0 (k.zeroExtend 64) 0 0 (-4)) = true ∧
      (let lines := s.endLines 0 { space := 1, base := land.zeroExtend 64 } 0 4 ++ s.objectLines 0 (k.zeroExtend 64) 0
       s.fillOk lines = true ∧ (s.fillPass lines).fillOk lines = false) := by
  decide

/-- An f.coll of 2 ranks, reducing one I32 to rank 0 under tag 7, at a step after its data have been sent, on this package's rank 0. -/
def reduce (step : Nat) : FState :=
  { kind := .coll, d := 3, desc := [1, 0, 8, 0] ++ leBytes 1 4 ++ zeros 32 ++ leBytes 2 4 ++ zeros 4 ++ leBytes 7 4 ++ zeros 12, sub := 1,
    coll := some { mode := 1, group := [0x8000000000000000, 0x8000000000000001], step := step, x := [5] } }

/-- CollectivesFollowTheirSchedule: a step that awaits its data, one whose data have come, one that awaits an acknowledgement, a NAK, a packet that
disagrees; and a packet that its rank holds, one that it has taken, and a new one. -/
theorem test_meets_collectives :
    let f := reduce 1
    let s := inPod (inFlight (.flume f))
    let q (k : Nat) : Packet := { src := atX 1, dst := atX 0, id := 8, body := .coll (f.clHdr 1) 7 k 1 0 [6] }
    let t : State := { s with torus := [q 1] }
    let n : State := { s with torus := [{ src := atX 1, dst := atX 0, id := 9, body := .answer (some 0x40) }] }
    (s.findOp 0 9).map Op.body = some (.flume f) ∧ f.code = none ∧ f.coll.isSome = true ∧ (s.cell 0).vf = some 0 ∧ s.ownPlace 0 0 = some (atX 0) ∧
      s.refusalFor 9 = none ∧ n.refusalFor 9 = some 0x40 ∧ (s.cell 0).closed = false ∧
      ((s.modCell 0 (fun x => { x with closed := true })).cell 0).closed = true ∧ f.sent + 0 ≤ f.acked + t.answersFor 9 ∧
      ({ f with sent := 1 } : FState).acked + t.answersFor 9 < ({ f with sent := 1 } : FState).sent ∧
      (∃ z ∈ t.collPackets (atX 0) 7, z.hdr = f.clHdr 1 ∧ z.src = atX 1 ∧ z.step = 1 ∧ z.rank = 1 ∧ z.piece = 0) ∧
      (∀ z ∈ s.collPackets (atX 0) 7, z.step ≠ 1) ∧
      (∀ o ∈ (s.cellFor 0 0).ops, o.tookPacket 7 { src := atX 1, hdr := f.clHdr 1, step := 1, rank := 1, piece := 0, data := [6] } = false) ∧
      (∃ o ∈ ((inPod (inFlight (.flume (reduce 2)))).cellFor 0 0).ops,
        o.tookPacket 7 { src := atX 1, hdr := f.clHdr 1, step := 1, rank := 1, piece := 0, data := [6] } = true) ∧
      (s.collPackets (atX 0) 7).length = 0 ∧ (t.collPackets (atX 0) f.clTag).map (fun q => q.data) = [[6]] ∧
      (t.collPackets (atX 0) f.clTag).all (fun q => !f.disagrees (f.coll.getD {}) q) = true ∧ f.disagrees (f.coll.getD {}) { src := atX 1, hdr := [], step := 1, rank := 1, piece := 0, data := [] } = true ∧ f.clLen = 1 ∧ (f.turn 1 0 1).dst = [] ∧
      f.clHdr 1 ≠ f.clHdr 0 ∧ f.clP = 2 ∧ f.clOp ≤ 1 ∧ (f.turn 1 0 1).src = [1] ∧ 1 ≤ f.clTop 1 ∧ 1 ≤ f.clLast 1 ∧ f.clRoot < f.clP ∧
      (1 : Nat) < 2 ^ 320 := by
  decide

/-- CollectivesFollowTheirSchedule: the input of a step 0 that can be read, and one that cannot; a first packet for a cell without a collective. -/
theorem test_meets_collective_inputs :
    let s := inPod (paged 0xF000000000050000 id)
    let f (va : Nat) : FState := { reduce 0 with desc := [1, 0, 8, 0] ++ leBytes 1 4 ++ leBytes va 8 ++ zeros 24 ++ leBytes 2 4 ++ zeros 4 ++ leBytes 7 4 ++ zeros 12 }
    isOk (s.collInput 0 (f 0x10000)) = true ∧ isOk (s.collInput 0 (f 0x30000)) = false ∧ (f 0).clOp ≤ 1 ∧ (s.collPackets (atX 0) 7).length = 0 ∧
      (∀ o ∈ (s.cellFor 0 0).ops, o.flume?.isNone = true) := by
  decide

/-- TorusPacketsReachTheirTarget, f.ring: a piece to be sent over a link, to this package, and over a link out of service. -/
theorem test_meets_ring_pieces :
    let h := leBytes (handleVal 7 0 0 3).toNat 4
    let r (dst : Nat) : FState := { kind := .ring, d := 3, desc := h ++ zeros 4 ++ leBytes dst 8 ++ zeros 8 ++ leBytes 64 4 ++ zeros 36 }
    let s1 := (inPod (inFlight (.flume (r 0x8000000000000001)))).modCell 0 (fun x => x.modEntry 3 (fun _ => { desc := td0, stripe := 2, stripes := 10, used := true, gen := 7 }))
    let p (dst : Nat) : Packet := { src := atX 0, dst := placeOfTarget (BitVec.ofNat 64 dst), id := 9, body := .answer none }
    let x := r 0x8000000000000001
    x.code = none ∧ x.due = none ∧ x.sent ≤ x.acked ∧ (s1.cell 0).closed = false ∧ s1.fillOk (s1.endLines 0 x.rgSrc 0 64) = true ∧
      isOk (s1.endRead 0 x.rgSrc 0 64) = true ∧ s1.ownPlace (s1.vfOf 0) 0 = some (atX 0) ∧ s1.isOwn (p 0x8000000000000000).dst = true ∧
      s1.isOwn (p 0x8000000000000001).dst = false ∧ s1.linkUp (p 0x8000000000000001) = true ∧
      State.linkUp { s1 with linksDown := [(0, true)] } (p 0x8000000000000001) = false := by
  decide

/-- CollectivesFollowTheirSchedule: a collective that names the VF that is gone, at its place and tag; a ring piece, and a collective,
that awaits its answer over link 0. -/
theorem test_meets_notices :
    let s := inPod (inFlight (.flume (reduce 1)))
    let r : FState := { kind := .ring, d := 3, desc := zeros 8 ++ leBytes 0x8000000000000001 8 ++ zeros 48, sent := 1 }
    let u := inPod (inFlight (.flume r))
    s.colls.map (fun e => (e.1, e.2.1, e.2.2.1)) = [(0, 0, 9)] ∧ (reduce 1).names (placeBits (atX 1)) = true ∧ (reduce 1).names 0x7FFFF = false ∧
      s.isOwn (atX 0) = true ∧ s.isOwn (atX 1) = false ∧ (reduce 1).clTag = 7 ∧ (s.findOp 0 9).isSome = true ∧
      (u.ops 0).map Op.body = [.flume r] ∧ r.acked < r.sent ∧ r.code = none ∧ u.ownPlace (u.vfOf 0) 0 = some (atX 0) ∧
      u.firstLink { src := atX 0, dst := placeOfTarget (BitVec.ofNat 64 (r.w 8 8)), id := 9, body := .answer none } = some 0 ∧
      (let v := (u.modCell 0 (fun x => { x with vf := some 3, ops := [] })).modVf 0 (fun v => { v with saved := some { cells := [(0, u.cell 0)] } })
       (v.cell 0).vf ≠ some 0 ∧ ((v.vf 0).saved.map (fun w => w.cells.map (fun e => (e.1, e.2.ops.map Op.body)))) = some [(0, [.flume r])] ∧ v.ownPlace 0 0 = some (atX 0)) ∧
      BitVec.ofNat 64 (r.w 8 8) ∈ r.awaited ∧
      (let b : FState := { reduce 1 with coll := some { mode := 1, group := [0x8000000000000001, 0x8000000000000000], rank := 1, step := 1, x := [5] }, sent := 1 }
       b.acked < b.sent ∧ b.code = none ∧ 0x8000000000000001 ∈ b.awaited) ∧
      (u.mgmtWord 0x908 + 2 ^ 64 - u.mgmtWord 0x900) % 2 ^ 64 < 4096 ∧ u.packages = [0, 1] := by
  decide

/-- A header of 8 items at address 0x1000, with its completion word at 0x8000, no semaphore and no stream. -/
def header (entry : Nat) : List Byte :=
  leBytes entry 8 ++ zeros 8 ++ leBytes 3 8 ++ leBytes 8 4 ++ (List.range 5).flatMap (fun _ => leBytes 1 4) ++ leBytes 0x8000 8 ++ [0xFF, 0xFF] ++ zeros 6

/-- ItemsAreTakenAndLaunchesComplete, placement: a launch, and two sets of three cells. -/
theorem test_meets_placement :
    let l := Launch.ofHeader 0 none 0 (header 0x1000)
    l.ext.length = 6 ∧ ctlLc l.ctl ≤ ctlLb l.ctl ∧ ctlLb l.ctl ≤ 6 ∧ (∀ k, k < 6 → l.ext.getD k 1 ≤ 2 ^ (ctlWidths l.ctl).getD k 0) ∧ 7 < l.prodE 0 6 ∧
      1 < l.share { set := 1, pos := 2, ncells := 3, nsets := 2 } ∨ 0 < l.share { set := 0, pos := 0, ncells := 3, nsets := 2 } := by
  decide

/-- VF0 with a launch queue of 4 records, its tail word at 0x30000 of the management window, its head word at 0x30008, its ring at 0x30040. -/
def withQueue (tail : Nat) (q : Lq) (s0 : State := at0 id 0) : State :=
  let t : Table Byte := writeAll [] (placed 0x30000 (leBytes tail 8) ++ placed 0x30040 (header 0x1000))
  { (s0.modVf 0 (fun v => { v with lqs := [{ q with ring := 0x8000030040, head := 0x8000030008, tail := 0x8000030000, lsize := 2 }] })) with
    mem := { views := [(0, t)], home := t } }

/-- LaunchesArePolledStartedAndCancelled: queues that are polled and not; a tail that is too far ahead, level, one and three ahead, and as far as the
ring holds; a record that cannot be read, and a head word that cannot be written. -/
theorem test_meets_polls :
    let s := withQueue 1 {}
    let word (t : State) (n : Nat) : Bool := match t.readVa none 0 0 0x8000030000 8 with | .ok l => ofBytes l == n | .error _ => false
    word s 1 = true ∧ word (withQueue 5 {}) 5 = true ∧ word (withQueue 0 {}) 0 = true ∧ word (withQueue 3 {}) 3 = true ∧ word (withQueue 4 {}) 4 = true ∧
      2 ^ (s.lq 0 0).lsize = 4 ∧ (s.lq 0 0).count = 0 ∧ 0 < (s.vf 0).lqs.length ∧
      isOk (s.readVa none 0 0 64 64) = false ∧ isOk (s.writeVa none 0 0 64 (leBytes 1 8)) = false ∧ (s.lq 0 0).stopped = false ∧ (s.lq 0 0).held = false ∧
      (s.lq 0 0).replay = false ∧ (s.lq 0 0).lsize = 2 ∧ s.nextPoll ≤ s.wall ∧ { s with nextPoll := 1 }.wall < 1 ∧
      isOk (s.readVa none 0 0 0x8000030040 64) = true ∧ isOk (s.writeVa none 0 0 0x8000030008 (leBytes 1 8)) = true := by
  decide

/-- LaunchesArePolledStartedAndCancelled: a waiting record with a valid header and with an entry address of 0, and none; a cell with a share. -/
theorem test_meets_launch_starts :
    let s := withQueue 1 { waiting := [(header 0x1000, 1)] }
    let ok (n : Nat) : Bool := s.headerOk (Launch.ofHeader 0 (some 0) 1 (header n)) (header n)
    (s.lq 0 0).busy = false ∧ (s.lq 0 0).waiting = [(header 0x1000, 1)] ∧ ok 0x1000 = true ∧ ok 0 = false ∧ ((withQueue 1 {}).lq 0 0).waiting = [] ∧
      0 ∈ shapeCells (s.vf 0).cfg.shape ∧ (seatOf (s.vf 0).cfg.shape 0).isSome = true := by
  decide

/-- LaunchesArePolledStartedAndCancelled: a b.launch that may issue, misaligned, behind another; cancellations with and without a semaphore. -/
theorem test_meets_launch_words :
    let s := withSem (fun st => ((two 0x8000030040 0x8000030041 st).writeS 3 { val := 3 }).writeS 4 { val := 7 })
    let o := inFlight (.launch 64 [] false)
    s.granted g0 ∧ s.unprefixed ∧ s.ops 0 = [] ∧ s.sources [1] ∧ s.sources [2] ∧ s.sources [3, 3] ∧ s.sources [4, 3] ∧ (s.sval 1).toNat % 64 = 0 ∧
      (s.sval 2).toNat % 64 ≠ 0 ∧ 6 < (s.sval 4).toNat ∧ (s.sval 3).toNat ≤ 6 ∧ (s.resolve (s.vfOf 0) 3).isSome = true ∧ (s.resolve (s.vfOf 0) 7).isSome = false ∧
      o.granted g0 ∧ o.unprefixed ∧ (o.ops 0).map (fun q => (q.sc, q.body)) = [(o.cur.sc, .launch 64 [] false)] := by
  unfold State.granted State.unprefixed State.sources; decide

/-- LaunchesArePolledStartedAndCancelled: a request that the launch unit takes, from readable and unreadable headers, with room in progress, behind
an entry of the list, and without a frame for it; one that waits for writes; an acknowledgement. -/
theorem test_meets_acknowledgements :
    let o := inFlight (.launch 0x8000030040 [] false)
    let s : State := { withQueue 1 {} with cells := o.cells }
    let f := s.modVf 0 (fun v => { v with overflow := [([], 0)], free := [] })
    let g := s.modVf 0 (fun v => { v with overflow := [([], 0)], overFrames := [6] })
    let u : State := { inFlight (.launch 64 [5] false) with mem := { flight := [{ id := 5, die := 0, num := 1, deps := [], todo := [1], bytes := [] }] } }
    (s.findOp 0 9).map Op.body = some (.launch 0x8000030040 [] false) ∧ (s.findOp 0 9).map Op.id = some 9 ∧ s.performed [] = true ∧
      (match s.readVa none 0 0 0x8000030040 64 with | .ok l => l == header 0x1000 | .error _ => false) = true ∧ isOk (s.readVa none 0 0 64 64) = false ∧
      (∀ x ∈ [s, f, g], x.headerOk (Launch.ofHeader 0 none 0 (header 0x1000)) (header 0x1000) = true) ∧
      s.headerOk (Launch.ofHeader 0 none 0 (header 0)) (header 0) = false ∧ (s.vf 0).overflow = [] ∧ s.deviceLaunches 0 < 64 ∧
      listEntries * (f.vf 0).overFrames.length ≤ (f.vf 0).overflow.length ∧ (f.allocFrame 0 0).isNone = true ∧
      (g.vf 0).overflow.length < listEntries * (g.vf 0).overFrames.length ∧
      u.performed [5] = false ∧ (u.cell 0).time < 1 ∧ (inFlight (.launch 64 [] true)).env.slow.contains 9 = false ∧
      ((inFlight (.launch 64 [] true)).findOp 0 9).map (fun o => (o.err, o.due)) = some (none, 0) := by
  decide

/-- A launch in progress with a share in cell 0, of which SC1 runs the item of index 1 and SC2 the one of index 2. -/
def running (h : Share) : State :=
  let l := { Launch.ofHeader 0 none 0 (header 0x1000) with shares := [(0, h)] }
  let s := ((at0 id 0).modStrand 0 1 (fun st => { st with st := .running, launch := some 2, idx := 1 })).modStrand 0 2
    (fun st => { st with st := .running, launch := some 2, idx := 2 })
  { s with launches := [(2, l)] }

/-- LaunchesArePolledStartedAndCancelled: the oldest listed launch with 0 and with 64 in progress; a cancellation before and after it takes effect. -/
theorem test_meets_cancellations :
    let s := (running { total := 8 }).modVf 0 (fun v => { v with overflow := [(header 0x1000, 0)] })
    let f : State := { s with launches := (List.range 64).map (fun i => (i, {})) }
    let x : Cancel := { launch := some 2, idx := 1, lvl := 6 }
    let u : State := { withSem id with itemCancels := [{ x with sem := some 3 }] }
    let st := s.strand 0 2
    (s.vf 0).overflow = [(header 0x1000, 0)] ∧ s.deviceLaunches 0 < 64 ∧ 64 ≤ f.deviceLaunches 0 ∧ (s.launchAt 2).isSome = true ∧
      (s.launchAt 2).map (fun l => l.sameGroup 6 1 2) = some true ∧ st.st ≠ .idle ∧ st.halted = false ∧ st.launch = some 2 ∧ st.idx ≠ 1 ∧
      (tfind 0 s.cells).isSome = true ∧ s.cancelDone (some 2) [(0, 2)] = true ∧
      (s.modStrand 0 2 (fun st => { st with halted := true })).cancelDone (some 2) [(0, 2)] = false ∧ u.resolve 0 3 = some 7 ∧ u.itemCancels[0]? = some { x with sem := some 3 } := by
  decide

/-- ItemsAreTakenAndLaunchesComplete: an item to take, and an idle context. -/
theorem test_meets_item_take :
    let s := running { total := 8, started := true, next := 3 }
    let u := (s.launches.map (fun e => e.1)).foldl (fun t k => t.passDropped k 0) s
    (s.cell 0).runs = true ∧ (s.cell 0).dl = 0 ∧ (s.strand 0 3).st = .idle ∧ (∀ k, k < 3 → (s.strand 0 k).st ≠ .idle) ∧
      (u.pendingItems 0).map (fun x => x.1) = [2] ∧ (u.launchAt 2).isSome = true ∧
      (u.launchAt 2).map (fun l => (tfind 0 l.shares).isSome) = some true ∧ (seatOf (u.vf 0).cfg.shape 0).isSome = true := by
  decide

/-- ItemsAreTakenAndLaunchesComplete: a share that ages, one that is over, a halted strand with nothing in flight. -/
theorem test_meets_shares :
    let s := (running { total := 8, started := true, next := 8, finished := 8 }).modStrand 0 1 (fun st => { st with halted := true })
    (s.launchAt 2).map Launch.drops = some [] ∧ (s.launchAt 2).map (fun l => (tfind 0 l.shares).map Share.finished) = some (some 8) ∧
      (s.launchAt 2).map (fun l => (tfind 0 l.shares).map Share.reported) = some (some false) ∧
      (s.launchAt 2).map (fun l => (tfind 0 l.shares).map Share.stream) = some (some .none) ∧
      (s.strand 0 1).halted = true ∧ quiet (s.cell 0) 1 = true ∧ (s.strand 0 1).launch = some 2 ∧
      (({ total := 8, started := true } : Share).startTime + 4096 * (0 + 1) ≤ ({ s.cell 0 with time := 4096 } : Cell).time) := by
  decide

/-- ItemsAreTakenAndLaunchesComplete: a launch that completes, of a queue that checkpoints, with a completion word in the management window; one whose
handle is not yet freed. -/
theorem test_meets_completions :
    let raw := leBytes 0x1000 8 ++ zeros 8 ++ leBytes (3 + 2 ^ 45) 8 ++ leBytes 8 4 ++ (List.range 5).flatMap (fun _ => leBytes 1 4) ++ leBytes 0x8000020100 8 ++ [3, 0] ++ zeros 6
    let l := { Launch.ofHeader 0 (some 0) 1 raw with shares := [(0, { reported := true })] }
    let s : State := { withQueue 1 { busy := true } (withSem id) with launches := [(2, l)] }
    let u := s.modCell 0 (fun x => x.modEntry 3 (fun e => { e with used := true, launch := some 2 }))
    l.reported = true ∧ s.holdsHandles 2 0 = false ∧ u.holdsHandles 2 0 = true ∧ s.performed l.cover = true ∧ l.hasSem = true ∧
      s.resolve 0 (l.csem.truncate 8) = some 7 ∧ l.hasWord = true ∧ ctlCkpt l.ctl = true ∧ mgmtWritable 0x20100 = true ∧
      ctlCkpt (Launch.ofHeader 0 (some 0) 1 (header 0x1000)).ctl = false ∧ (s.modVf 0 (fun v => { v with semMap := [] })).resolve 0 (l.csem.truncate 8) = none ∧ 0x20100 % 8 = 0 ∧
      (match s.pages none 0 0 (l.args + l.cwoff).toNat 8 .wr with
       | .ok pg => pg.all (fun e => match e.2 with | .frame _ => true | _ => false) && paOf pg (l.args + l.cwoff).toNat == some 0x20100
       | .error _ => false) = true := by
  decide

/-- A task's record: kind, priority, mode, inputs and output at places of the management window, k, output format, counter, semaphore and increment. -/
def record (kind prio mode : Nat) (va vb vc k out deps sem inc : Nat) : List Byte :=
  leBytes kind 1 ++ leBytes prio 1 ++ leBytes mode 1 ++ [0] ++ zeros 4 ++ leBytes va 8 ++ leBytes vb 8 ++ leBytes vc 8 ++ leBytes k 4 ++ [0, 0] ++
    leBytes out 2 ++ (List.range 8).map (fun _ => 0xFF) ++ leBytes deps 2 ++ [0, 0] ++ leBytes sem 2 ++ leBytes inc 2 ++ zeros 8

/-- A convert of one column, with counter d. -/
def convert1 (d : Nat) : List Byte := record 3 0 0 0x8000000000 0 0x8000010000 1 1 d 0xFFFF 0

/-- VF0 with its task table at 0x30000 and its branch table at 0x38000 of the management window, a record there, branch 0 with a word, and tasks. -/
def withTasks (raw : List Byte) (branch : Nat) (ts : Table Task) (s0 : State := withSem id) : State :=
  let t : Table Byte := writeAll [] (placed 0x30000 raw ++ placed 0x38000 (leBytes branch 8))
  { (s0.modVf 0 (fun v => { v with cfg := { v.cfg with tasks := 0x8000030000, branch := 0x8000038000 }, tasks := ts, cancelledTasks := [7], clock := 20000 })) with
    wall3 := 20000, mem := { views := [(0, t)], home := t } }

/-- TasksEnterAndBecomeReady: each of the words of R280 with an operand that it takes and with those that it does not. -/
theorem test_meets_task_words :
    let s := withTasks [] 0 [] (withSem (fun st => ((((two 0x8000030040 3 st).writeS 3 { val := 0x8000030041 }).writeS 4 { val := 0x8000020000 }).writeS 5
      { val := 65535 }).writeS 6 { val := 0x100000 }))
    s.granted g0 ∧ s.unprefixed ∧ (∀ r ∈ [1, 2, 3, 4, 5], s.sources [r]) ∧ s.sources [2, 2] ∧ s.sources [6, 2] ∧ s.sources [2, 5] ∧ (s.sval 3).toNat % 64 ≠ 0 ∧
      (s.sval 1).toNat % 64 = 0 ∧ (s.vf 0).cfg.tasks ≤ (s.sval 1).toNat ∧ (s.sval 1).toNat < (s.vf 0).cfg.tasks + 64 * 65535 ∧
      (s.sval 4).toNat % 64 = 0 ∧ (s.sval 4).toNat < (s.vf 0).cfg.tasks ∧ 65534 < (s.sval 5).toNat ∧ (s.sval 2).toNat ≤ 65534 ∧
      2 ^ 20 ≤ (s.sval 6).toNat ∧ (s.sval 2).toNat < 2 ^ 20 ∧ (s.resolve 0 (BitVec.ofNat 8 (s.sval 2).toNat)).isSome = true := by
  unfold State.granted State.unprefixed State.sources; decide

/-- What an entry comes to. -/
def entering : Entering → Nat
  | .fails .. => 0
  | .drops _ => 1
  | .pending => 2
  | .enters _ => 3

/-- TasksEnterAndBecomeReady: a record that enters, one that fails, one of a cancelled branch, one that cannot be read; a free slot. -/
theorem test_meets_entries :
    let p : Post := { va := 0x8000030000 }
    let come (raw : List Byte) (b : Nat) : Nat :=
      let s := withTasks raw b []
      match s.readVa none 0 0 0x8000030000 64 with | .ok l => entering (s.entryCheck p 0 l) | .error _ => 4
    let s : State := { withTasks [] 0 [] with posts := [{ p with sc := 1 }, p, p] }
    come (convert1 0) 0x80000000 = 3 ∧ come (convert1 0) 0xC0000000 = 1 ∧ come [9] 0x80000000 = 0 ∧ isOk (s.readVa none 0 0 64 64) = false ∧
      (s.vf 0).freeSlot 0 = some 0 ∧ s.posts[1]? = some p ∧ (∀ q ∈ s.posts.take 1, ¬(q.cell = p.cell ∧ q.sc = p.sc)) ∧
      (∃ q ∈ s.posts.take 2, q.cell = p.cell ∧ q.sc = p.sc) ∧ s.performed p.cover = true ∧ (s.cell p.cell).vf = some p.vf ∧
      ((s.refreshSlots 0 0).vf 0).listed 0 = [] := by
  decide

/-- TasksEnterAndBecomeReady: a counter of 1 and of 0, a number whose task was cancelled and one without a task; a task that is ready. -/
theorem test_meets_decrements :
    let d : Tdec := { n := 5 }
    let s : State := { withTasks [] 0 [(5, { deps := 1 }), (6, { ready := some 3 })] with tdecs := [d] }
    s.tdecs[0]? = some d ∧ (∀ q ∈ s.tdecs.take 0, ¬(q.cell = d.cell ∧ q.sc = d.sc)) ∧ s.task 0 5 = some { deps := 1 } ∧ s.task 0 6 = some { ready := some 3 } ∧
      ({ ready := some 3 } : Task).deps = 0 ∧ s.task 0 7 = none ∧ (s.vf 0).cancelledTasks.contains 7 = true ∧ s.task 0 8 = none ∧
      (s.vf 0).cancelledTasks.contains 8 = false := by
  decide

/-- A slotted task of a bulkhead that has been ready for a long time. -/
def readyTask (raw : List Byte) (bh : Nat := 0) : Task := { raw := raw, ready := some 3, slot := some 1, bh := bh }

/-- TasksStartRunAndComplete: ready tasks and none, a group that can run one and none; a task of another bulkhead that a side may take. -/
theorem test_meets_task_starts :
    let t := readyTask (convert1 0)
    let s := withTasks [] 0 [(5, t)]
    let busy := s.modCell 0 (fun x => { x with vf := some 3 })
    let u := ((withTasks [] 0 [(5, readyTask (convert1 0) 1)]).modCell 0 (fun x => { x with time := 64 })).modVf 0
      (fun v => { v with cfg := { v.cfg with shape := 0x0101 } })
    (s.cell (2 * 0)).vf = some 0 ∧ s.readyTasks 0 0 = [(5, t)] ∧ (withTasks [] 0 []).readyTasks 0 0 = [] ∧ s.groupFor 0 t [0, 1] = some (0, 0) ∧
      busy.groupFor 0 t [0] = none ∧ s.task 0 5 = some t ∧
      (u.cell 0).vf = some 0 ∧ u.sideFree 0 0 1 = true ∧ tget 0 (u.cell 0).freeSince 1 + 64 ≤ (u.cell 0).time ∧ u.readyTasks 0 (bhOf 0) = [] ∧
      u.busiest 0 = some 1 ∧ u.keptForChain 0 0 = false ∧ u.readyTasks 0 1 = [] ++ (5, readyTask (convert1 0) 1) :: [] ∧ (readyTask (convert1 0) 1).kind ≠ 1 ∧
      (readyTask (convert1 0) 1).ties = [] ∧ ¬(64 ≤ (s.cell 0).time) := by
  decide

/-- A run in cell 0, of which n chunks have issued. -/
def run0 (n : Nat) : TaskRun := { newRun 0 0 0 0 with next := n }

/-- A product of two matrices of one block of E4M3 numbers. -/
def product (mode : Nat) : Task :=
  { readyTask (record 0 0 mode 0x8000000000 0x8000002000 0x8000010000 64 1 0 0xFFFF 0) with fmt := 0x183, run := some (run0 0) }

/-- TasksStartRunAndComplete: tasks with a chunk left and without, chain tasks, converts, a cancelled task at a boundary and not, whose result is due
and not; a cell that works, one that is frozen, one that is closed and drains and one that is closed and does not; late lines. -/
theorem test_meets_task_runs :
    let s := (withTasks [] 0 [(5, product 0)]).modCell 0 (fun x => { x with time := 100 })
    let drains := s.modCell 0 (fun x => { x with closed := true, choice := some .drain, ahead := 40 })
    let chain : Task := { readyTask (record 1 0 0 0x8000000000 0 0 128 1 0 0xFFFF 0) with run := some { run0 0 with free := 0 } }
    s.task 0 5 = some (product 0) ∧ (product 0).run = some (run0 0) ∧ (s.groupRuns 0 (run0 0) = true ∧
      (s.modCell 0 (fun x => { x with frozenOn := [9] })).groupRuns 0 (run0 0) = false ∧ (run0 0).free ≤ s.groupTime 0 ∧
      s.groupTime 0 < ({ run0 0 with free := 20000 } : TaskRun).free ∧ drains.groupRuns 0 (run0 0) = true ∧
      drains.groupTime 0 = 140 ∧ (s.modCell 0 (fun x => { x with closed := true })).groupRuns 0 (run0 0) = false ∧
      (s.env.late = [] ∧ s.lateness = 0) ∧ ({ s with env := { s.env with late := [7] } } : State).lateness = 7 ∧ (run0 0).checked = none ∧ (product 0).kind = 0 ∧ (run0 0).next < (product 0).blocks ∧
      (product 0).blocks ≤ (run0 1).next ∧ chain.kind = 1 ∧ 0 ≤ chain.steps ∧ (readyTask (convert1 0)).kind = 3 ∧ (product 0).issued (run0 1) = true ∧
      (product 0).issued (run0 0) = false ∧ (run0 1).last < s.groupTime 0 ∧ s.groupTime 0 ≤ ({ run0 1 with last := 20000 } : TaskRun).last ∧
      (readyTask (convert1 0)).issued (run0 1) = true ∧ (run0 2).next = 2 ∧ (run0 1).next ≠ 2 ∧ (product 0).dead = false ∧ (run0 0).atBoundary 100 = true ∧
      ({ run0 0 with chain := some { busy := 200 } } : TaskRun).atBoundary 100 = false) := by
  refine ⟨rfl, rfl, ?_⟩; decide

/-- TasksStartRunAndComplete: a chunk whose operands can be read. -/
theorem test_meets_task_chunks : ∃ q fl, (withTasks [] 0 [(5, product 0)]).chunk0 0 (product 0) (run0 0) = .ok (q, fl) := by
  have ok (m : MemOp) (hs : m.scaled = false) (hb : m.block = 64) (hr : m.row = 64) (ha : mgmtVa ≤ m.va) (he : m.va + 8192 ≤ mgmtVa + 0x40000) :
      ∃ l, (withTasks [] 0 [(5, product 0)]).opVals 0 0 m 0 64 = .ok l := by
    unfold State.opVals State.opBlock
    obtain ⟨l, hl⟩ := mapM_exists (span 0 128) (f := fun r => do
      let l ← codeOf ((withTasks [] 0 [(5, product 0)]).readVa none 0 0 (m.va + r * m.row + 0 * m.block) m.block)
      let sc ← if m.scaled then codeOf ((withTasks [] 0 [(5, product 0)]).readVa none 0 0 (m.scales + r * m.nb + 0) 1) else .ok [0]
      return (l, sc.headD 0)) (fun r hr' => by
        have := mem_span.mp hr'
        obtain ⟨x, hx⟩ := State.readVa_mgmt (withTasks [] 0 [(5, product 0)]) none 0 (m.va + r * m.row + 0 * m.block) m.block
          (by omega) (by omega) (by rw [hb, hr]; omega) rfl
        exact ⟨(x, 0), by rw [hx, hs]; rfl⟩)
    exact ⟨_, by rw [hl]; rfl⟩
  obtain ⟨x, hx⟩ := ok (product 0).opA (by decide) (by decide) (by decide) (by decide) (by decide)
  obtain ⟨y, hy⟩ := ok (product 0).opB (by decide) (by decide) (by decide) (by decide) (by decide)
  exact ⟨_, _, by unfold State.chunk0; dsimp only; rw [show dieOf (run0 0).cell = 0 from rfl, show (run0 0).next = 0 from rfl, show (product 0).k = 64 from by decide, hx, hy]; rfl⟩

/-- TasksStartRunAndComplete: a checked run that is due and one that is not, whose writes succeed and fail; a semaphore that is mapped and one that
is not. -/
theorem test_meets_task_completions :
    let r : TaskRun := { run0 1 with checked := some 9, writes := [(8, 0x8000010000, [1, 2])] }
    let s := (withTasks [] 0 [(5, { product 0 with run := some r })]).modCell 0 (fun x => { x with time := 100 })
    r.checked = some 9 ∧ 9 + 72 ≤ s.groupTime 0 ∧ ¬(9 + 72 ≤ State.reset.groupTime 0) ∧ s.performed [] = true ∧
      isOk (s.taskWrites 0 0 (r.writes.filter (fun w => decide (9 + w.1 ≤ s.groupTime 0))) r.cover) = true ∧
      isOk (s.taskWrites 0 0 [(8, 64, [1])] []) = false ∧ (product 0).sem = 0xFFFF ∧ (s.taskSignal 0 0 0 3 1).isSome = true ∧
      (s.taskSignal 0 0 0 4 1).isNone = true ∧ 3 ≠ 0xFFFF ∧ s.groupRuns 0 r = true := by
  decide

/-- BranchesAreCancelled: a cancellation of a branch of its generation, of a stale one, of an invalid entry, of one that cannot be read; one
behind another of its strand, one in a cell without its VF. -/
theorem test_meets_branch_cancellations :
    let k : Cancel := { sem := some 3 }
    let s : State := { withTasks [] 0x80000000 [] with cancels := [k, k] }
    let entry (b : Nat) : Nat := match (withTasks [] b []).branchEntry 0 0 0 with | .ok none => 0 | .ok (some e) => e | .error _ => 1
    s.cancels[1]? = some k ∧ (∃ q ∈ s.cancels.take 1, q.cell = k.cell ∧ q.sc = k.sc) ∧ (∀ q ∈ s.cancels.take 0, ¬(q.cell = k.cell ∧ q.sc = k.sc)) ∧
      (s.cell k.cell).vf = some 0 ∧ (s.cell k.cell).vf ≠ some 3 ∧ entry 0 = 0 ∧ entry 0x80000000 = 0x80000000 ∧ 0x80000000 / 4096 % 256 = 0 ∧
      entry 0x80001000 = 0x80001000 ∧ 0x80001000 / 4096 % 256 ≠ 0 ∧ isOk (s.branchEntry 0 0 0x7FFFF) = false ∧
      isOk (s.writeVa none 0 0 0x8000038000 (leBytes 0xC0000000 8)) = true ∧
      (∃ x ∈ [(5, 0)], ∃ t, (withTasks [] 0 [(5, product 0)]).task 0 x.1 = some t ∧ t.order = x.2) ∧ s.resolve 0 3 = some 7 ∧ s.resolve 0 4 = none := by
  refine ⟨by decide, by decide, by decide, by decide, by decide, by decide, by decide, by decide, by decide, by decide, by decide, by decide,
    ⟨(5, 0), by simp, product 0, rfl, rfl⟩, by decide, by decide⟩

/-- TasksEnterAndBecomeReady: 256 slots that are taken, with a list that has room, one that has none, and no frame for it. -/
theorem test_meets_full_slots :
    let s := withTasks [] 0 ((List.range 256).map (fun i => (i + 10, ({ slot := some i } : Task))))
    let t := s.modVf 0 (fun v => { v with listFrames := [(0, [6])] })
    (s.vf 0).freeSlot 0 = none ∧ (t.vf 0).freeSlot 0 = none ∧ ((t.vf 0).listed 0).length < 1024 * (tget [] (t.vf 0).listFrames 0).length ∧
      1024 * (tget [] (s.vf 0).listFrames 0).length ≤ ((s.vf 0).listed 0).length ∧ (s.allocFrame 0 0).isSome = true ∧
      ((s.modVf 0 (fun v => { v with free := [] })).allocFrame 0 0).isNone = true := by
  decide +kernel

/-- A slot of the command page: code, VF, semaphore, and the bytes from 16 on. -/
def slotOf (code vf : Nat) (args : List Byte) (sem : Nat := 0xFFFF) : List Byte :=
  zeros 8 ++ leBytes code 2 ++ leBytes vf 2 ++ leBytes sem 2 ++ [0, 0] ++ args ++ zeros (112 - args.length)

/-- VF 5 of bulkhead 1 exists, and VF 6 of bulkhead 2; VF0 maps semaphore 3; command 0 runs. -/
def cmd (code vf : Nat) (args : List Byte) (f : Vf → Vf := id) : State :=
  let s := ((withSem id).modVf 5 (fun v => f { v with live := true, cfg := { v.cfg with shape := 0x0110, nlq := 2 }, listLen := 20, held := 5 })).modVf 6
    (fun v => { v with live := true, cfg := { v.cfg with shape := 0x0120 } })
  { s with mgmt := { run := some 0, slot := slotOf code vf args 3 } }

/-- ManagementCommandsOnTenants: slots with a go bit and without, known and unknown commands, a running command, a semaphore that is mapped. -/
theorem test_meets_mgmt_poll :
    let t : Table Byte := writeAll [] (placed 128 (1 :: (slotOf 7 5 []).drop 1))
    let s : State := { State.reset with mem := { views := [(0, t)], home := t } }
    let go (n : Nat) : Bool := (tget 0 (s.mem.view 0) (128 * n)).getLsbD 0
    let c := cmd 7 5 []
    s.mgmt.nextPoll ≤ s.wall ∧ s.mgmt.run = none ∧ go 1 = true ∧ go 0 = false ∧ (∀ n, n < 16 → (tget 0 (State.reset.mem.view 0) (128 * n)).getLsbD 0 = false) ∧
      recField (slotOf 7 5 []) 14 2 = 0 ∧ knownCommand (slotOf 7 5 []) = true ∧ knownCommand (slotOf 15 5 []) = false ∧ c.mgmt.run.isSome = true ∧
      recField c.mgmt.slot 12 2 ≤ 255 ∧ c.resolve 0 (BitVec.ofNat 8 (recField c.mgmt.slot 12 2)) = some 7 ∧ 255 < recField (slotOf 7 5 []) 12 2 ∧
      8 ≤ 16 ∧ 16 + [1, 2].length ≤ 128 := by
  decide

/-- ManagementCommandsOnTenants: a command for a VF that is there, for one that is not, for one in reset; no command. -/
theorem test_meets_mgmt_vf :
    let s := cmd 7 5 []
    let r := (s.modCell 2 (fun x => { x with vf := some 5 })).modBh 1 (fun b => { b with resetEnd := some 9 })
    s.commands 0 7 = true ∧ s.commands 0 8 = false ∧ s.mgmt.begun = false ∧ s.tenant s.mbVf = true ∧ s.inReset s.mbVf = false ∧
      (cmd 7 9 []).tenant (cmd 7 9 []).mbVf = false ∧ (cmd 7 9 []).commands 0 7 = true ∧ r.commands 0 7 = true ∧ r.tenant r.mbVf = true ∧
      r.inReset r.mbVf = true := by
  decide

/-- ManagementCommandsOnTenants: window entries that fit, one for a bulkhead of another VF, and one in use. -/
theorem test_meets_window :
    let w : Dword := 0xC000000000000000
    let s := cmd 4 5 [1, 7]
    let x := cmd 4 5 [0, 7]
    let p : State := (cmd 4 5 [1, 7]).modCell 1 (fun c => { c with
      table := [(3, { peer := { target := 0, win := some (1, 7, 0) } })]
      ops := ((inFlight .store 64).ops 0).map (fun o => { o with uses := [.scratch 1 3] }) })
    s.commands 0 4 = true ∧ s.tenant s.mbVf = true ∧ s.inReset s.mbVf = false ∧ s.arg 16 1 ∈ shapeBhs (s.vf 5).cfg.shape ∧ s.arg 17 1 ≤ 7 ∧
      (BitVec.ofNat 64 (s.arg 24 8) : Dword).extractLsb' 32 30 = 0 ∧ wnValid (BitVec.ofNat 64 (s.arg 24 8)) = false ∧ s.windowBusy 1 7 = false ∧
      p.windowBusy 1 7 = true ∧ x.arg 16 1 ∉ shapeBhs (x.vf 5).cfg.shape ∧ w ≠ 0 := by
  decide

/-- ManagementCommandsOnTenants: each command with an argument that it takes and with those that it does not. -/
theorem test_meets_tenant_commands :
    let set (n : Nat) : State := cmd 7 5 (leBytes n 4)
    let bind (n : Nat) : State := { cmd 12 5 (leBytes n 4) with qps := [(3, { vf := some 6 })] }
    (∀ c ∈ [3, 5, 6, 7, 8, 12, 14], (cmd c 5 []).commands 0 c = true ∧ (cmd c 5 []).tenant (cmd c 5 []).mbVf = true ∧
      (cmd c 5 []).inReset (cmd c 5 []).mbVf = false) ∧
    63 < (cmd 6 5 [64]).arg 16 1 ∧ (cmd 6 5 [63]).arg 16 1 ≤ 63 ∧ ((set 21).vf 5).listLen < (set 21).arg 16 4 ∧ (set 4).arg 16 4 < ((set 4).vf 5).held ∧
      (set 4).arg 16 4 ≤ ((set 4).vf 5).listLen ∧ ((set 5).vf 5).held ≤ (set 5).arg 16 4 ∧ (set 5).arg 16 4 ≤ ((set 5).vf 5).listLen ∧
      4096 ≤ (bind 4096).arg 16 4 ∧ (tget {} (bind 3).qps ((bind 3).arg 16 4)).vf.isSome = true ∧
      (tget {} (bind 4095).qps ((bind 4095).arg 16 4)).vf = none ∧ (bind 4095).arg 16 4 < 4096 := by
  decide

/-- ManagementCommandsOnTenants: LCANCEL of all launches, of a queue that is not there, with a listed launch whose semaphore is not mapped; a launch that is in progress and one that is not. -/
theorem test_meets_lcancel :
    let s : State := { cmd 14 5 [0] with launches := [(2, { vf := 5 })] }
    let t : State := { s with mgmt := { s.mgmt with begun := true, waitLaunches := [2] } }
    let u : State := { s with mgmt := { s.mgmt with begun := true, waitLaunches := [3] } }
    let o := (cmd 14 5 [0]).modVf 5 (fun v => { v with overflow := [(header 0x1000 |>.take 56 |>.append ([3, 0] ++ zeros 6), 2)] })
    (s.arg 17 7 = 0 ∧ s.arg 16 1 < 9 ∧ s.arg 16 1 ≤ (s.vf 5).cfg.nlq) ∧ (s.vf 5).cfg.nlq < (cmd 14 5 [3]).arg 16 1 ∧ s.mgmt.begun = false ∧
      t.mgmt.begun = true ∧ (∃ id ∈ t.mgmt.waitLaunches, (t.launchAt id).isSome = true) ∧ (∀ id ∈ u.mgmt.waitLaunches, u.launchAt id = none) ∧
      o.launches = [] ∧ (o.vf 5).overflow.map (fun e => ((Launch.ofHeader 5 none 0 e.1).hasSem,
        (o.resolve 5 ((Launch.ofHeader 5 none 0 e.1).csem.truncate 8)).isNone)) = [(true, true)] := by
  decide

/-- A configuration record of one bulkhead and the slices named, with one queue, whose table is at a VA, and frames set apart for a seed. -/
def vfRecord (shape slice root resv quota : Nat) : List Byte :=
  leBytes shape 2 ++ [1, 0] ++ leBytes resv 4 ++ leBytes (2 ^ slice) 16 ++ leBytes root 8 ++ zeros 32 ++ leBytes 1 4 ++ leBytes 1 4 ++ leBytes quota 4 ++ zeros 52

/-- ManagementCommandsOnTheDevice: CREATE of a number in use and of a free one, with a record that cannot be read, that breaks a rule, whose shape, slices,
save area and queues are not to be had. -/
theorem test_meets_create :
    let at' (raw : List Byte) : State :=
      let t : Table Byte := writeAll [] (placed 0x30000 raw)
      { cmd 1 7 (leBytes 0x8000030000 8) with mem := { views := [(0, t)], home := t } }
    let s := at' (vfRecord 0x0130 4 0 0 9)
    let c (raw : List Byte) : VfCfg := VfCfg.parse raw
    let rec' := c (vfRecord 0x0130 4 0 0 9)
    s.commands 0 1 = true ∧ (s.vf 7).live = false ∧ s.mbVf = 7 ∧ ((cmd 1 5 []).vf (cmd 1 5 []).mbVf).live = true ∧ (cmd 1 0 []).mbVf = 0 ∧
      isOk (s.readVa none 0 0 (s.arg 16 8) 128) = true ∧ isOk ((cmd 1 7 []).readVa none 0 0 ((cmd 1 7 []).arg 16 8) 128) = false ∧
      rec'.ok = true ∧ (c (zeros 128)).ok = false ∧ s.arg 40 4 ≤ rec'.resv ∧ s.arg 32 8 % frameBytes = 0 ∧
      s.shapeFree rec'.shape = true ∧ s.shapeFree 0x0100 = false ∧ s.slicesFree rec' = true ∧ s.slicesFree (c (vfRecord 0x0130 3 0 0 9)) = false ∧
      (s.saveRun (shapeBhs rec'.shape).length).isSome = true ∧ ((s.modVf 0 (fun v => { v with free := [] })).saveRun 1).isNone = true ∧
      isOk (s.readSeed (s.arg 32 8) 0) = true := by
  decide

/-- ManagementCommandsOnTheDevice: DESTROY before and after its reset; MEASURE and POD with arguments that they take and with others, with and without tenants. -/
theorem test_meets_device_commands :
    let d := cmd 2 5 []
    let b : State := { d with mgmt := { d.mgmt with begun := true } }
    let r := (b.modCell 2 (fun x => { x with vf := some 5 })).modBh 1 (fun h => { h with resetEnd := some 9 })
    let pod (args : List Byte) : State := { State.reset with mgmt := { run := some 0, slot := slotOf 11 0 args } }
    d.commands 0 2 = true ∧ d.mgmt.begun = false ∧ d.tenant d.mbVf = true ∧ d.inReset d.mbVf = false ∧ b.mgmt.begun = true ∧ b.resetting b.mbVf = false ∧
      r.resetting r.mbVf = true ∧ b.mbVf ≠ 0 ∧ (cmd 10 0 [7]).commands 0 10 = true ∧ (cmd 10 0 [7]).arg 16 1 = 7 ∧ 7 < (cmd 10 0 [8]).arg 16 1 ∧
      (cmd 10 0 [0]).arg 16 1 = 0 ∧ (7 < 8 ∧ 31 < 32 ∧ 0 ≠ 7) ∧ (cmd 11 0 []).commands 0 11 = true ∧ (cmd 11 0 []).tenants ≠ [] ∧ (pod []).tenants = [] ∧ (pod []).commands 0 11 = true ∧
      ((pod []).arg 20 1 ≤ (pod []).arg 16 1) ∧ (let p := pod [0, 1, 15, 0, 2, 2, 16]
        ¬(p.arg 19 1 ≠ 0 ∨ p.arg 23 1 ≠ 0 ∨ 16 < p.arg 20 1 ∨ 16 < p.arg 21 1 ∨ 16 < p.arg 22 1 ∨ p.arg 20 1 ≤ p.arg 16 1 ∨ p.arg 21 1 ≤ p.arg 17 1 ∨ p.arg 22 1 ≤ p.arg 18 1)) := by
  decide

/-- VF 5 and 7 share a group, and command 13 of VF 5 runs. -/
def sched (args : List Byte) : State :=
  ((cmd 13 5 args).modVf 7 (fun v => { v with live := true, cfg := { v.cfg with shape := 0x0110 } })).modGroup 0x0110
    (fun g => { g with rotation := [5, 7], resident := 5 })

/-- ManagementCommandsOnTheDevice: SCHED of each op; schedules that are too short, name a stranger, and fit; groups of one and of two, a switch in progress. -/
theorem test_meets_sched :
    let set (tick dl : Nat) (rot : List Byte) : State := sched ([0, 0, 0, 0] ++ leBytes tick 4 ++ leBytes dl 4 ++ rot)
    let s := set 100 10 [7, 5]
    let w := sched [1]
    let b := w.modGroup 0x0110 (fun g => { g with switch := some {} })
    (∀ o ∈ [0, 1, 2], (sched [o]).commands 0 13 = true ∧ (sched [o]).tenant (sched [o]).mbVf = true ∧ (sched [o]).inReset (sched [o]).mbVf = false ∧
      (sched [o]).arg 17 3 = 0 ∧ (sched [o]).arg 16 1 = o.toNat) ∧
    ((s.vf 5).cfg.shape.toNat = 0x0110 ∧ s.arg 20 4 = 100 ∧ s.arg 24 4 = 10 ∧ s.schedRot = [7, 5] ∧ (∀ v ∈ s.schedRot, v ∈ (s.group 0x0110).rotation) ∧
      s.schedRot.Nodup ∧ s.schedRot.length = (s.group 0x0110).rotation.length ∧ (set 99 10 []).arg 20 4 < 100 ∧
      (∃ v ∈ (set 100 10 [6]).schedRot, v ∉ ((set 100 10 [6]).group 0x0110).rotation)) ∧
    (∀ o ∈ [0, 1, 2], (sched [o, 1]).arg 17 3 ≠ 0 ∧ (sched [o, 1]).arg 16 1 = o.toNat) ∧ w.mgmt.waitGroup = none ∧ 1 < (w.group 0x0110).rotation.length ∧ (w.group 0x0110).switch = none ∧ (w.group 0x0110).incoming = none ∧
      w.groupBusy 0x0110 = false ∧ (b.group 0x0110).switch.isSome = true ∧ ((cmd 13 5 [1]).group 0x0110).rotation.length ≤ 1 := by
  decide

/-- ManagementCommandsOnTheDevice: QUOTE of VF0 with a place in the management window, for a tenant, for a VF that is not there, and without a signature
left. -/
theorem test_meets_quote :
    let s := cmd 9 0 (zeros 32 ++ leBytes 0x8000021000 8)
    s.commands 0 9 = true ∧ s.mbVf = 0 ∧ s.boot.blown ≤ 16384 ∧ s.boot.quotes < 32768 ∧ (cmd 9 9 []).tenant (cmd 9 9 []).mbVf = false ∧
      (cmd 9 5 []).tenant (cmd 9 5 []).mbVf = true ∧ (cmd 9 5 []).inReset (cmd 9 5 []).mbVf = false ∧
      16384 < ({ s with boot := { s.boot with blown := 16385 } } : State).boot.blown ∧
      ∃ w t, s.writeVa none 0 0 (s.arg 48 8) (s.quoteBody 0 ++ hssSignature (sha256 (s.quoteBody 0)) s.boot.blown s.boot.quotes) = .ok (w, t) := by
  refine ⟨by decide, by decide, by decide, by decide, by decide, by decide, by decide, by decide, ?_⟩
  have hl : ((cmd 9 0 (zeros 32 ++ leBytes 0x8000021000 8)).quoteBody 0).length = 376 := State.quoteBody_length _ 0 (by decide)
  obtain ⟨r, hr⟩ := State.writeVa_mgmt (cmd 9 0 (zeros 32 ++ leBytes 0x8000021000 8)) none 0 0x8000021000
    ((cmd 9 0 (zeros 32 ++ leBytes 0x8000021000 8)).quoteBody 0 ++ hssSignature (sha256 ((cmd 9 0 (zeros 32 ++ leBytes 0x8000021000 8)).quoteBody 0)) 1 0)
    (by decide) (by rw [List.length_append, hl]; omega) (by rw [List.length_append, hl, hssSignature_length]; decide)
  exact ⟨r.1, r.2, hr⟩

/-! CREATE with a seed: frame 0 of slice 4 holds the seed, which is its own page table: word 0 points to the table itself, word 1 maps page 1 to the
frame, and at 0x4000 stands the entry of a launch queue. -/

/-- The record of VF 7, and the words of its table. -/
def seedCfg : VfCfg := VfCfg.parse (leBytes 0x0130 2 ++ [1, 0] ++ leBytes 1 4 ++ leBytes (2 ^ 4) 16 ++ leBytes (2 ^ 63 + 4 * 2 ^ 18) 8 ++ zeros 32 ++ leBytes 1 4 ++
  leBytes 1 4 ++ leBytes 9 4 ++ zeros 4 ++ leBytes 0x14000 8 ++ zeros 40)
def seedBase : Nat := sliceBase 4
def seedPtr : Nat := 2 ^ 63 + 4 * 2 ^ 18
def seedLeaf : Nat := 2 ^ 63 + 2 ^ 62 + 2 ^ 61 + 4 * 2 ^ 32
def seedQueue : List Byte := leBytes 0x18000 8 ++ leBytes 0x18008 8 ++ leBytes 0x18010 8 ++ zeros 8

/-- The command, its record at 0x30000 of device memory and its seed at 0x10000. -/
def seedState : State :=
  let t : Table Byte := writeAll (writeAll (writeAll [] (placed 0x10000 (leBytes seedPtr 8 ++ leBytes seedLeaf 8))) (placed 0x14000 seedQueue)) (placed 0x30000 seedCfg.raw)
  { cmd 1 7 (leBytes 0x8000030000 8 ++ zeros 8 ++ leBytes 0x8000010000 8 ++ leBytes 1 4) with mem := { views := [(0, t)], home := t } }

/-- VF 7 has its table. -/
def Seeded (t : State) : Prop :=
  (t.vf 7).cfg = seedCfg ∧ t.mem.poison = [] ∧ leRead (t.mem.view 0) seedBase 8 = seedPtr ∧ leRead (t.mem.view 0) (seedBase + 8) 8 = seedLeaf

theorem seeded_translate {t : State} (h : Seeded t) (acc : Acc) (ha : acc = .rd ∨ acc = .wr) :
    t.translate none 7 0 (1 * frameBytes) acc = .ok (.frame seedBase) := by
  obtain ⟨hc, hz, h0, h1⟩ := h
  have w0 : t.tableWord 0 seedBase = .ok (BitVec.ofNat 64 seedPtr) := by unfold State.tableWord DevMem.poisoned; rw [hz, h0]; rfl
  have w1 : t.tableWord 0 (seedBase + 8) = .ok (BitVec.ofNat 64 seedLeaf) := by unfold State.tableWord DevMem.poisoned; rw [hz, h1]; rfl
  have p : pointerTable seedCfg seedCfg.ptroot = .ok seedBase := by rfl
  have q : pointerTable seedCfg (BitVec.ofNat 64 seedPtr) = .ok seedBase := by rfl
  have walk : t.walkLeaf 7 0 0x10000 = .ok (seedBase + 8, BitVec.ofNat 64 seedLeaf) := by
    unfold State.walkLeaf
    simp only [hc, p, bind, Except.bind]
    simp only [Nat.reducePow, Nat.reduceDiv, Nat.reduceMod, Nat.mul_zero, Nat.add_zero, w0, q, Nat.mul_one, w1]
    rfl
  unfold State.translate
  rw [if_neg (by decide), show inMgmt 7 (1 * frameBytes) = false from rfl]
  simp only [Option.bind, Bool.false_eq_true, if_false, show 1 * frameBytes = 0x10000 from rfl, walk, hc]
  rcases ha with rfl | rfl <;> rfl

theorem seeded_pages {t : State} (h : Seeded t) (va n : Nat) (acc : Acc) (ha : acc = .rd ∨ acc = .wr) (hp : va / frameBytes = 1)
    (he : (va + n - 1) / frameBytes = 1) : t.pages none 7 0 va n acc = .ok [(1, .frame seedBase)] :=
  State.pages_one t 7 0 va n 1 acc _ hp he (seeded_translate h acc ha)

theorem cure_clean {m : DevMem} (h : m.poison = []) (l : List (Nat × Byte)) : (m.cure l).poison = [] := by
  unfold DevMem.cure
  split
  · exact h
  · simp [h]

/-- No write is in flight, and no word is poisoned. -/
def Quiet (t : State) : Prop := t.mem.flight = [] ∧ t.mem.poison = []

theorem quiet_zeroMem {t : State} (h : Quiet t) (lo n : Nat) : Quiet (t.zeroMem lo n) :=
  ⟨State.zeroMem_flight h.1 lo n, by simp only [State.zeroMem, State.settle_idle h.1, DevMem.passAll, DevMem.onTurns_poison, h.2]; rfl⟩

theorem quiet_zeroRuns (l : List (Nat × Nat)) {t : State} (h : Quiet t) : Quiet (t.zeroRuns l) := by
  induction l generalizing t with
  | nil => exact h
  | cons e r ih => exact ih (quiet_zeroMem h _ _)

theorem quiet_kvPlace {t : State} (h : Quiet t) (l : List (Nat × Byte)) : Quiet (t.kvPlace l) :=
  ⟨State.kvPlace_flight h.1 l, by simp only [State.kvPlace, State.settle_idle h.1, DevMem.passAll, DevMem.onTurns_poison]; apply cure_clean; exact h.2⟩

theorem seeded_write {t : State} (h : Seeded t) (a : Nat) (ha : seedBase + 16 ≤ a) (l : List Byte) : Seeded (t.enterWrite 0 (placed a l)).2 := by
  obtain ⟨hc, hz, h0, h1⟩ := h
  refine ⟨hc, ?_, ?_, ?_⟩
  · simp only [State.enterWrite, DevMem.onTurns_poison, DevMem.pass_poison]
    apply cure_clean; exact hz
  · rw [State.view_enterWrite, ← h0]
    exact leRead_congr (fun i hi => tget_writeAll_outside _ _ _ _ (by omega))
  · rw [State.view_enterWrite, ← h1]
    exact leRead_congr (fun i hi => tget_writeAll_outside _ _ _ _ (by omega))

theorem seeded_zeroWord {t : State} (h : Seeded t) (va : Nat) (acc : Acc) (ha : acc = .rd ∨ acc = .wr) (hp : va / frameBytes = 1)
    (he : (va + 8 - 1) / frameBytes = 1) (hm : 16 ≤ va % frameBytes) : ∃ u, t.zeroWord 7 va acc = some u ∧ Seeded u := by
  have pg := seeded_pages h va 8 acc ha hp he
  have pa : paOf [(1, .frame seedBase)] va = some (seedBase + va % frameBytes) := by simp [paOf, hp]
  exact ⟨_, by unfold State.zeroWord; rw [pg]; simp only [State.installPages, pg, pa]; rfl, seeded_write h _ (by omega) _⟩

/-- The seed's bytes, as CREATE reads them. -/
def seedBytes : List Byte := bytesAt (seedState.mem.view 0) 0x10000 65536

theorem seed_is_read : seedState.readSeed 0x8000010000 1 = .ok [seedBytes] := by
  have rd := State.readVa_one seedState 0 0 0x8000010000 65536 0x800001 _ (by decide) (by decide)
    (State.translate_mgmt seedState none 0 (0x800001 * frameBytes) .rd (by decide) (by decide) (by decide)) rfl (by decide)
  unfold State.readSeed
  simp only [show upto 1 = [0] from rfl, List.mapM_cons, List.mapM_nil, Nat.zero_mul, Nat.add_zero, show frameBytes = 65536 from rfl]
  rw [rd]
  rfl

theorem seedState_quiet : Quiet seedState := ⟨rfl, rfl⟩

/-- The VF with its seed. -/
def seedVf : State := seedState.install 7 seedCfg 196352 [seedBytes]

/-- Frames after CREATE's writes. -/
def placedState (s : State) (c : VfCfg) (b : List Byte) : State := (s.zeroRuns (c.frameRuns 0)).kvPlace (placed (nthFrame (c.frameRuns 0) 0 * frameBytes) b)

theorem modVf_cfg (s : State) (n : Nat) (v : Vf) : ((s.modVf n (fun _ => v)).vf n).cfg = v.cfg := by
  simp only [State.modVf, State.vf, tget_tput, if_pos]

theorem install_cfg (s : State) (vf run : Nat) (c : VfCfg) (l : List (List Byte)) : ((s.install vf c run l).vf vf).cfg = c := by
  unfold State.install
  exact modVf_cfg _ _ _

theorem install_mem (s : State) (vf run : Nat) (c : VfCfg) (b : List Byte) : ∃ u : State, u.mem = (placedState s c b).mem ∧
    (s.install vf c run [b]).mem = (u.zeroMem (run * frameBytes + 0xFFF000) 4096).mem := by
  refine ⟨(placedState s c b).modVf 0 (fun v => { v with free := cutRun run (256 * (shapeBhs c.shape).length) v.free }), State.modVf_mem _ _ _, ?_⟩
  unfold State.install
  exact State.modVf_mem _ _ _

theorem install_view {s : State} (h : Quiet s) (vf run : Nat) (c : VfCfg) (b : List Byte) :
    (s.install vf c run [b]).mem.view 0 = tclear (((s.zeroRuns (c.frameRuns 0)).kvPlace (placed (nthFrame (c.frameRuns 0) 0 * frameBytes) b)).mem.view 0)
      (run * frameBytes + 0xFFF000) 4096 := by
  obtain ⟨u, hu, hm⟩ := install_mem s vf run c b
  rw [hm, State.view_zeroMem (by rw [hu]; exact (quiet_kvPlace (quiet_zeroRuns _ h) _).1), hu]
  rfl

theorem seed_stands (i : Nat) (h : i < 65536) : tget 0 (seedVf.mem.view 0) (seedBase + i) = tget 0 (seedState.mem.view 0) (0x10000 + i) := by
  have hr : nthFrame (seedCfg.frameRuns 0) 0 * frameBytes = seedBase := by decide
  unfold seedVf
  rw [install_view seedState_quiet, hr, tget_tclear_outside _ _ _ _ _ (by right; simp only [seedBase, sliceBase, sliceFrames, frameBytes]; omega), State.view_kvPlace_zero (quiet_zeroRuns _ seedState_quiet).1,
    tget_writeAll_placed _ _ _ _ (by simpa [seedBytes, bytesAt, span_length] using h)]
  exact bytesAt_getD _ _ _ _ h

theorem seed_word (k : Nat) (h : k + 8 ≤ 65536) : leRead (seedVf.mem.view 0) (seedBase + k) 8 = leRead (seedState.mem.view 0) (0x10000 + k) 8 :=
  leRead_congr (fun i hi => by rw [Nat.add_assoc, Nat.add_assoc]; exact seed_stands _ (by omega))

theorem seedVf_seeded : Seeded seedVf := by
  refine ⟨?_, ?_, (seed_word 0 (by decide)).trans (by decide), (seed_word 8 (by decide)).trans (by decide)⟩
  · exact install_cfg _ _ _ _ _
  · obtain ⟨u, hu, hm⟩ := install_mem seedState 7 196352 seedCfg seedBytes
    rw [seedVf, hm]
    exact (quiet_zeroMem (t := u) ⟨by rw [hu]; exact (quiet_kvPlace (quiet_zeroRuns _ seedState_quiet) _).1,
      by rw [hu]; exact (quiet_kvPlace (quiet_zeroRuns _ seedState_quiet) _).2⟩ _ _).2

theorem seed_queue : seedVf.readVa none 7 0 0x14000 32 = .ok seedQueue :=
  (State.readVa_one seedVf 7 0 0x14000 32 1 seedBase (by decide) (by decide) (seeded_translate seedVf_seeded .rd (.inl rfl)) seedVf_seeded.2.1 (by decide)).trans
    (congrArg Except.ok ((bytesAt_congr (u := seedState.mem.view 0) (b := 0x14000) (fun i hi => by
      rw [show seedBase + 0x14000 % frameBytes + i = seedBase + (0x4000 + i) from Nat.add_assoc _ _ _, show 0x14000 + i = 0x10000 + (0x4000 + i) from by omega]
      exact seed_stands _ (by omega))).trans (by decide)))

theorem seeded_opens {t : State} (h : Seeded t) (raw : t.readVa none 7 0 0x14000 32 = .ok seedQueue) : ∃ u, t.openQueues 7 = some u := by
  have ring : t.pages none 7 0 0x18000 1 .rd = _ := seeded_pages h 0x18000 1 .rd (.inl rfl) (by decide) (by decide)
  obtain ⟨u, hu, su⟩ := seeded_zeroWord h 0x18008 .wr (.inr rfl) (by decide) (by decide) (by decide)
  obtain ⟨w, hw, _⟩ := seeded_zeroWord su 0x18010 .rd (.inl rfl) (by decide) (by decide) (by decide)
  let q : Lq := { ring := 0x18000, head := 0x18008, tail := 0x18010, lsize := 0 }
  have one : t.openQueue 7 q = some w := by
    unfold State.openQueue
    rw [show q.ring.toNat = 0x18000 from rfl, show q.head.toNat = 0x18008 from rfl, show q.tail.toNat = 0x18010 from rfl, ring]
    simp only [Except.toOption, bind, Option.bind, hu, hw]
  have ps : (groupsOf 32 1 seedQueue).mapM Lq.parse = some [q] := by rfl
  unfold State.openQueues
  rw [h.1]
  dsimp only
  rw [show 32 * seedCfg.nlq = 32 from rfl, show seedCfg.lqtab = 0x14000 from rfl, show seedCfg.nlq = 1 from rfl, raw]
  simp only [Except.toOption, bind, Option.bind, ps, List.foldlM, one]
  exact ⟨_, rfl⟩

/-- ManagementCommandsOnTheDevice: CREATE of VF 7 with a seed that holds its page table. -/
theorem test_meets_create_with_a_seed :
    let s := seedState
    (s.commands 0 1 = true ∧ s.mbVf = 7 ∧ (s.vf 7).live = false ∧
      (match s.readVa none 0 0 (s.arg 16 8) 128 with | .ok raw => raw == seedCfg.raw && VfCfg.parse raw == seedCfg | .error _ => false) = true ∧
      seedCfg.ok = true ∧ s.arg 40 4 ≤ seedCfg.resv ∧ s.arg 32 8 % frameBytes = 0 ∧ s.shapeFree seedCfg.shape = true ∧ s.slicesFree seedCfg = true ∧
      s.saveRun (shapeBhs seedCfg.shape).length = some 196352) ∧
    s.readSeed (s.arg 32 8) (s.arg 40 4) = .ok [seedBytes] ∧ ∃ t, (s.install 7 seedCfg 196352 [seedBytes]).openQueues 7 = some t := by
  refine ⟨by decide +kernel, ?_, seeded_opens seedVf_seeded seed_queue⟩
  rw [show seedState.arg 32 8 = 0x8000010000 from by decide, show seedState.arg 40 4 = 1 from by decide]
  exact seed_is_read

/-- HazardsAndTheHost: places of each kind, a place that is not there, a bulkhead with recent errors and without, one of a VF's shape. -/
theorem test_meets_hazards :
    let s := (cmd 7 5 []).modCell 2 (fun x => { x with vf := some 5 })
    let r := s.modBh 1 (fun b => { b with errors := List.replicate 15 0, lastDone := some 0 })
    let far (b : Nat) : Nat := ((r.bh b).errors.filter (fun e => decide (r.wall < e + 1000000))).length
    (∀ p ∈ [ErrPlace.scratch 2 7, .landing 1 8191, .tile 2 15, .acc 2 15, .deckle 2 0], placeExists p = true ∧ placeBh p = some 1) ∧
      placeExists (.tile 2 16) = false ∧ 8 * 0x3000000 < 128 * sliceFrames * frameBytes ∧ 15 ≤ far 1 ∧ far 2 < 15 ∧ (s.cell (2 * 1)).vf = some 5 ∧
      1 ∈ shapeBhs (s.vf 5).cfg.shape ∧ (r.bh 1).lastDone = some 0 ∧ r.wall < 0 + 1000000000 ∧
      (s.mgmtWord 0x908 + 2 ^ 64 - s.mgmtWord 0x900) % 2 ^ 64 < 4096 := by
  decide

/-- HazardsAndTheHost: a connection of VF0 with its key, one in error, one bound to no VF; a readable and an unreadable place, a word for an
atomic that no other holds, and one that another holds. -/
theorem test_meets_rdma :
    let s : State := { paged 0xF000000000050000 id with qps := [(1, { vf := some 0 }), (2, { vf := some 0, err := true })] }
    let h : State := { inFlight .store with mem := { turns := [{ op := 9, word := 0xA000, die := 0 }] } }
    (s.boot.rom = false ∧ (s.qp 1).err = false ∧ (s.qp 1).vf = some 0 ∧ (s.vf 0).live = true ∧ (s.vf 0).cfg.rkey = 0 ∧ s.inReset 0 = false) ∧
      (s.qp 2).err = true ∧ (s.qp 3).err = false ∧ (s.qp 3).vf = none ∧ (s.vf 0).cfg.rkey ≠ 5 ∧ isOk (s.writeVa none 0 0 0x10000 [7]) = true ∧
      isOk (s.readVa none 0 0 0x10000 3) = true ∧ isOk (s.readVa none 0 0 0x20000 3) = false ∧ 0x10000 % 8 = 0 ∧ 0x10001 % 8 ≠ 0 ∧
      (match s.pages none 0 (portDie 1) 0x10000 8 .at with
       | .ok pg => pg.all (fun e => match e.2 with | .frame _ => true | _ => false) && paOf pg 0x10000 == some 0x50000
       | .error _ => false) = true ∧ s.mem.poisoned 0x50000 = false ∧ s.wordHeld 0x50000 = false ∧ h.wordHeld 0x50000 = true ∧
      (∀ k, k < 8 → mgmtWritable (0x50000 + k) = true) := by
  decide

/-- PowerBootAndResets: an image older than the fuses allow is refused. Whether one is accepted is free (Config: its key, body and signature). -/
theorem test_meets_refused_image (s : State) :
    State.imageOk { s with boot := { s.boot with minVersion := Config.imageVersion s.bootImage + 1 } } s.bootImage = false := by
  simp [State.imageOk]

/-- PowerBootAndResets: power on and off, the ROM waiting for an image that has been submitted, and not. -/
theorem test_meets_power :
    let off : State := { State.reset with boot := { power := false } }
    let t : Table Byte := writeAll [] (placed (bootBuffer + 8) [1])
    let s : State := { State.reset with boot := { rom := true }, mem := { views := [(0, t)], home := t } }
    off.boot.power = false ∧ State.reset.boot.power = true ∧ State.reset.boot.rom = false ∧ s.boot.rom = true ∧ leRead (s.mem.view 0) (bootBuffer + 8) 8 = 1 ∧
      leRead (off.mem.view 0) (bootBuffer + 8) 8 ≠ 1 := by
  decide

/-- PowerBootAndResets: a bulkhead in reset, one held in reset, one in neither; a VF whose partition reset is due; VFs that are resident and not; frames. -/
theorem test_meets_resets :
    let s := (State.reset.modBh 1 (fun b => { b with resetEnd := some 5 })).modBh 2 (fun b => { b with resetEnd := some 5, held := true })
    let d := State.reset.modVf 0 (fun v => { v with presetDue := true })
    (s.bh 1).resetEnd.isSome = true ∧ (s.bh 1).held = false ∧ (s.bh 2).held = true ∧ (s.bh 3).resetEnd = none ∧ (d.vf 0).presetDue = true ∧
      (s.vf 0).presetDue = false ∧ s.isResident 5 = false ∧ s.isResident 0 = true ∧ (s.vf 0).cfg.frameRuns (s.vf 0).cfg.resv ≠ [] ∧
      4 * frameBytes ≤ 0x40000 := by
  decide

/-- VF 5 and 7 share bulkhead 1; a switch to 7 is in progress, whose cells are closed. -/
def switching (w : Switch) : State :=
  ((((sched []).modCell 2 (fun x => { x with vf := some 5, closed := true, dl := 9 })).modCell 3 (fun x => { x with vf := some 5, closed := true, dl := 9 })).modGroup
    0x0110 (fun g => { g with switch := some w }))

/-- SwitchesSaveAndRestore: a tick that begins a switch, one that is early, one of a group that may not switch. -/
theorem test_meets_ticks :
    let s := (sched []).modGroup 0x0110 (fun g => { g with nextTick := 0 })
    let e := (sched []).modGroup 0x0110 (fun g => { g with nextTick := 1 })
    let n := switching { out := 5, inn := 7 }
    (s.group 0x0110).next = none ∧ 2 ≤ (s.group 0x0110).rotation.length ∧ (s.group 0x0110).nextTick ≤ s.wall ∧ (s.group 0x0110).switch = none ∧
      s.groupBusy 0x0110 = false ∧ e.wall < (e.group 0x0110).nextTick ∧ (s.group 0x0130).rotation = [] ∧ n.maySwitch 0x0110 = false ∧
      (n.group 0x0110).nextTick ≤ n.wall ∧ (n.group 0x0110).next = none ∧ (n.group 0x0110).rotation ≠ [] := by
  decide

/-- SwitchesSaveAndRestore: a strand that stops, one that does not; a cell that closes, one that is closed; one with a running strand that has not
stopped, an operation that is kept and one that completes. -/
theorem test_meets_stops :
    let s := (at0 (fun st => { st with swReq := true, sleepEnd := some 5 })).modStrand 0 1 (fun st => { st with swReq := true, st := .dormant })
    let c := s.modCell 0 (fun x => { x with dl := 9 })
    let x := (at0 id).modCell 0 (fun x => { x with dl := 9, ops := [{ id := 8, sc := 0, eng := 5, ent := {}, issued := 0, due := 70, body := .scale [3] 0 },
      { id := 9, sc := 0, eng := 4, ent := {}, issued := 0, due := 70, body := .store }] })
    (s.strand 0 0).swReq = true ∧ (s.strand 0 0).swStop = false ∧ (s.strand 0 0).trap = none ∧ (s.strand 0 0).st = .running ∧
      (s.strand 0 0).sleepEnd.isSome = true ∧ s.drained 0 0 = true ∧ (s.strand 0 1).st = .dormant ∧ (s.strand 0 2).swReq = false ∧ (s.cell 0).dl = 0 ∧
      (c.cell 0).dl ≠ 0 ∧ (c.cell 0).closed = false ∧ (c.cell 0).vf.isSome = true ∧ ((switching {}).cell 2).closed = true ∧
      (x.strand 0 0).st = .running ∧ (x.strand 0 0).swStop = false ∧ (x.ops 0).map (fun o => (o.kept, o.isWait)) = [(true, false), (false, false)] := by
  decide

/-- SwitchesSaveAndRestore: a cell whose work drains by sr.dl, one whose queue drain does not end, one whose task is left out. -/
theorem test_meets_choices :
    let d := (at0 id).modCell 0 (fun x => { x with dl := 1000000 })
    let q := (inFlight (.drainQ 1 [(0, 0)] [])).modCell 0 (fun x => { x with dl := 1000000 })
    let t := (withTasks [] 0 [(5, { product 0 with run := some (run0 1) })]).modCell 0 (fun x => { x with dl := 20500, ops := q.ops 0 })
    let fits (s : State) (k : SwitchChoice) (lead : Nat) : Bool :=
      decide (s.wall + lead + (s.modCell 0 (fun x => { x with choice := some k })).copyNs 0 0 ≤ (s.cell 0).dl.toNat)
    (d.cell 0).vf = some 0 ∧ d.drainCc 0 0 = some 0 ∧ fits d .drain 0 = true ∧ q.drainCc 0 0 = none ∧ fits q .save scanNs = true ∧
      t.drainCc 0 0 = none ∧ ({ product 0 with run := some (run0 1) } : Task).leavable = true ∧ (t.vf 0).tasks.map Prod.fst = [5] := by
  decide

/-- VF 5's cells are copied: their core images are in the save area as they are. -/
def switched (w : Switch) (s : State := switching w) : State :=
  s.modVf 5 (fun v => { v with valid := { v.valid with cores := [(2, s.coreImage 5 2), (3, s.coreImage 5 3)] } })

/-- SwitchesSaveAndRestore: a die that may save and one that may not; copies that are to begin, with the yarder free and at work for another group, that take
their time, are due and are complete; a core image that is valid; deadlines met and missed once and thrice, a restore that may begin and one that waits. -/
theorem test_meets_saves :
    let w : Switch := { out := 5, inn := 7, deadline := 0 }
    let s := switching w
    let t := switched { w with saved := [0] }
    let b := switched { w with begun := [(0, 0)] }
    let y := s.modGroup 0x0130 (fun g => { g with switch := some { begun := [(0, 0)] } })
    let k : State := State.reset.modVf 5 (fun v => { v with valid := { v.valid with cores := [(2, {})] } })
    let m : State := { s with mem := { views := [(0, [(s.missAt 5, 2)])], home := [(s.missAt 5, 2)] } }
    let i := (sched []).modGroup 0x0110 (fun g => { g with incoming := some 7 })
    (s.group 0x0110).switch = some w ∧ (groupCells 0x0110).filter (fun c => dieOf c == 0) = [2, 3] ∧ (∀ c ∈ [2, 3], s.settled c = true) ∧ 0 ∉ w.saved ∧
      s.wall ≤ w.deadline ∧ (groupCells 0x0110).filter (fun c => dieOf c == 1) = [] ∧ groupDies 0x0110 = [0] ∧ w.deadline ≤ s.wall ∧ s.misses 5 < 2 ∧
      m.misses 5 = 2 ∧ (t.group 0x0110).switch = some { w with saved := [0] } ∧ t.saveComplete 0x0110 { w with saved := [0] } = true ∧
      s.saveComplete 0x0110 w = false ∧ s.copied 5 2 = false ∧ s.yarderBusy 0x0110 0 = false ∧ y.yarderBusy 0x0110 0 = true ∧
      (∀ c ∈ [2, 3], b.copied 5 c = true ∧ b.settled c = true) ∧ tfind 0 ({ w with begun := [(0, 0)] } : Switch).begun = some 0 ∧
      tget 0 ({ w with begun := [(0, 0)] } : Switch).begun 0 ≤ b.wall ∧ b.wall < tget 0 ({ w with begun := [(0, 7)] } : Switch).begun 0 ∧
      tfind 2 (k.vf 5).valid.cores = some {} ∧ bytesAt (k.mem.view 0) (k.coreAt 5 2) ({} : CoreImage).size = ({} : CoreImage).bytes ∧
      tfind 3 (k.vf 5).valid.cores = none ∧
      (i.group 0x0110).switch = none ∧ (i.group 0x0110).incoming = some 7 ∧ (∀ b ∈ shapeBhs (BitVec.ofNat 16 0x0110), (i.bh b).resetEnd.isSome = false) ∧
      (∃ b ∈ shapeBhs (BitVec.ofNat 16 0x0110), ((i.modBh 1 (fun h => { h with held := true })).bh b).held = true) := by
  decide

/-! ### The statements that every form completes -/

/-- RegisterAndTaskWordsComplete: lane words with full sources, a target code, a free queue register; system registers of VF0 and of every VF; a task's
VA, a number and a branch. -/
theorem test_meets_register_completions :
    let s := at0 (two 1 2) 2
    let t := at0 (two 1 2)
    let u := (withTasks [] 0 [] (withSem (fun st => ((two 0x8000030040 5 st).writeS 3 { val := 0xFFFF })))).modCell 0 id
    (s.plain ∧ vsrcReady s.me [1] = true ∧ vsrcReady s.me [1, 2] = true ∧ (s.vpopped [1]).room 48 = true ∧ (cvtTarget 1).isSome = true ∧ (7 : BitVec 3) ≠ 0 ∧
      (s.me.readV 1).tag = none ∧ s.sources [1, 2] ∧ s.room 48 = true) ∧
    (t.granted g0 ∧ t.unprefixed ∧ ¬(0x040 ≤ (0x010 : BitVec 12).toNat ∧ (0x010 : BitVec 12).toNat ≤ 0x043) ∧ t.vfOf t.cur.cell = 0 ∧ t.room 3 = true ∧
      t.sources [1]) ∧
    (u.granted g0 ∧ u.unprefixed ∧ u.sources [1] ∧ u.sources [2] ∧ u.sources [2, 3] ∧ (u.sval 1).toNat % 64 = 0 ∧
      (u.vf (u.vfOf u.cur.cell)).cfg.tasks ≤ (u.sval 1).toNat ∧ (u.sval 1).toNat < (u.vf (u.vfOf u.cur.cell)).cfg.tasks + 64 * 65535 ∧
      (u.sval 2).toNat ≤ 65534 ∧ (u.sval 2).toNat < 2 ^ 20 ∧ u.sval 3 = 0xFFFF) := by
  unfold State.plain State.granted State.unprefixed State.sources; decide

/-- MemoryWordsComplete: an entry of the scratchpad whose tile takes each access, a peer entry, a landing, a descriptor to allot. -/
theorem test_meets_handle_completions :
    let s := tileAt 128
    let p := peerTile 0
    let l := (at0 (fun st => two (handleVal 9 0 1 4) 128 st) 4).modLanding 0 4 (fun l => { l with used := true, gen := 9, desc := 0x44000000000FF03F })
    let n := at0 (two td0 0) 4
    let tile (off : Nat) : Bool := decide (tdFmt td0 ∉ ([0, 8, 11] : List Nat) ∧ off % tdRb td0 % blockBytes (tdFmt td0) (tdPl td0 + 1) = 0 ∧
      off / tdRb td0 + 64 ≤ tdRows td0 ∧ off % tdRb td0 + blockBytes (tdFmt td0) (tdPl td0 + 1) ≤ tdRb td0)
    (s.granted g0 ∧ s.unprefixed ∧ (s.cellHandle 0 (s.sval 1)).map TEntry.desc = some td0 ∧ tdLvl td0 = 0 ∧ hdLvl (s.sval 1) = 0 ∧ s.sources [1] ∧
      s.sources [1, 2] ∧ s.sources [1, 2, 3] ∧ s.vsources [4] ∧ (s.popped [1, 2]).room 7 = true ∧ (s.popped [1]).room 7 = true ∧
      s.sources (1 :: 2 :: atomSources 4 0) ∧ isY 27 = false ∧ (s.sval 2 + disp s.cur.ent).toNat = 128 ∧ 0 ≤ (s.sval 2 + disp s.cur.ent).toInt ∧
      128 % 16 = 0 ∧ 128 + 256 ≤ tdSize td0 ∧ (s.here.tile 3).st = .empty ∧ fenceReady s false = true ∧
      (s.cellHandle 0 (s.sval 1)).map (fun e => (s.windowOk e.peer .barrier, s.windowOk e.peer .look)) = some (true, true) ∧
      s.landHandle 0 (s.sval 1) = none) ∧ tile 128 = true ∧
    (p.granted g0 ∧ (p.cellHandle 0 (p.sval 1)).map (fun e => (tdLvl e.desc, p.windowOk e.peer .atomic, decide (8 ≤ tdSize e.desc))) = some (2, true, true) ∧
      hdLvl (p.sval 1) = 2 ∧ p.sources (1 :: atomSources 4 0) ∧ p.landingFree = true ∧ (disp p.cur.ent).toNat = 0) ∧
    (l.granted g0 ∧ l.unprefixed ∧ (l.landHandle 0 (l.sval 1)).isSome = true ∧ l.sources [1] ∧ l.sources [1, 2] ∧ (l.here.tile 3).st = .empty ∧
      (l.sval 2).toNat = 128 ∧ tdRb 0x44000000000FF03F = tdRb td0 ∧ tdRows 0x44000000000FF03F = tdRows td0 ∧ tdFmt 0x44000000000FF03F = tdFmt td0) ∧
    (n.granted g0 ∧ n.unprefixed ∧ tdLvl (n.sval 1) ≠ 2 ∧ n.sources [1] ∧ (n.popped [1]).room 7 = true ∧ descOk (n.sval 1) = true) := by
  unfold State.granted State.unprefixed State.sources State.vsources; decide

/-- MemoryWordsComplete: canonical addresses, with free landing and send-buffer entries. -/
theorem test_meets_address_completions :
    let s := at0 (two 0x10000 0) 4
    s.granted g0 ∧ s.unprefixed ∧ s.sources [(1 : BitVec 5).zeroExtend 6] ∧ s.landingFree = true ∧ s.sendFree = true ∧
      (s.popped [(1 : BitVec 5).zeroExtend 6]).room 7 = true ∧ isY 27 = false ∧ (s.here.tile 3).st = .empty ∧
      (s.sval ((1 : BitVec 5).zeroExtend 6) + disp s.cur.ent).toNat = 0x10000 ∧ 0x10000 % 64 = 0 ∧ 0x10000 < 2 ^ 60 ∧
      s.sources (1 :: atomSources 4 0) ∧ (s.sval 1 + disp s.cur.ent).toNat = 0x10000 ∧ (s.sval 1 + s.sval 2 + disp s.cur.ent).toNat = 0x10000 ∧
      s.sources [1, 2, 2] ∧ s.sources [1, 2] ∧ s.vsources [4] ∧ s.sources [1] ∧ (s.popped [1]).room 7 = true ∧ srcReady s.me [1, 2] = true ∧
      (4 : BitVec 3).toNat < 5 ∧ (2 : BitVec 2) ≠ 3 ∧ fenceReady s true = true ∧ fenceReady s false = true := by
  unfold State.granted State.unprefixed State.sources State.vsources; decide

/-- MatWordsComplete: the control words, a product of two full registers, a scale, and an accumulator whose deckle is read and written. -/
theorem test_meets_mat_completions :
    let s := (at0 (two 0x3F800000 1) 5).modCell 0 matCell
    let x := s.here
    let all := ((x.group 3).map (·.1)).flatMap x.pair
    let accs := (x.group 3).map (·.1)
    s.granted g0 ∧ s.unprefixed ∧ s.sources [1] ∧ s.sources [1, 2] ∧ s.room 7 = true ∧ x.strandMode (sideOf 3) = true ∧ x.zone 3 = .free ∧ x.shapeOk 3 = true ∧
      x.group 3 = [(3, 1, 0, 0)] ∧ (1 : BitVec 5).toNat < 13 ∧ (∀ z ∈ fuseSides 1, x.strandMode z = true) ∧
      (∀ z ∈ fuseSides 1, ∀ q ∈ sideMats z, x.matBusy q = false) ∧ x.chain = none ∧ (x.reshape 1).isSome = true ∧ x.pendingOn all true = false ∧
      (x.tile 4).st = .full ∧ (∀ q, q < 8 → (255 : BitVec 8).getLsbD q = true → x.matIdle q = true) ∧ x.pendingOn (x.pair 3) true = false ∧
      (x.acc 3).dpoison = false ∧ tget 0 x.array 1 ≤ s.now ∧ x.pendingOn (all ++ accs.map partner) false = false ∧
      (∀ q ∈ all ++ accs.map partner, (x.acc q).poison = false ∧ (x.acc q).dpoison = false) ∧
      (∀ r ∈ [4, 5], r < 16 ∧ (x.tile r).st = .full ∧ (x.tile r).fmt = 1 ∧ (x.tile r).dfault = none ∧ (x.tile r).poison = false) ∧
      dkWide (x.dk (partner 3)) = false ∧ (∀ z ∈ x.group 3, x.pathFree z.2.1 = true) ∧ (∀ q, q < 8 → x.matBusy q = false) ∧
      (f32 ((s.sval 1).truncate 32)).isFin = true ∧ (4 : BitVec 4).toNat % 2 = 0 ∧ (x.tile 5).planes = (x.tile 4).planes ∧
      (∀ q, q < 16 → dkLo (x.dk q) = false ∧ (x.acc q).poison = false ∧ (x.acc q).dpoison = false) := by
  unfold State.granted State.unprefixed State.sources; decide

/-- MatWordsComplete: the drains, with an entry of format 0, to a tile, a queue and a peer. -/
theorem test_meets_drain_completions :
    let s := (with3 { desc := tdF, stripe := 2, stripes := 10 } id 5).modCell 0 matCell
    let x := s.here
    let all := ((x.group 3).map (·.1)).flatMap x.pair
    let p := (at0 (two 1 5) 5).modCell 0 matCell
    (∀ u ∈ [s, p], (match u.ftEntry u.cur.cell (ftIndex u.cur.ent) with | .ok v => decide (v = 0) | .error _ => false) = true ∧ u.granted g0 ∧ u.unprefixed ∧
      u.here.strandMode (sideOf 3) = true ∧ u.here.zone 3 = .free ∧ u.here.shapeOk 3 = true ∧ u.here.pendingOn all true = false ∧
      (∀ z ∈ u.here.group 3, u.here.pathFree z.2.1 = true) ∧ (∀ q ∈ all, (u.here.acc q).poison = false ∧ (u.here.acc q).dpoison = false) ∧
      (∀ z ∈ u.here.group 3, dkMode (u.here.dk z.1) < 2) ∧ u.here.group 3 = [(3, 1, 0, 0)] ∧ u.sources [1, 2]) ∧
    ftReserved 0 = false ∧ ftRnd 0 < 6 ∧ ftOut 0 = 0 ∧ ftOut 0 < 12 ∧ queueFmt (ftOut 0) ((ftScale 0).getLsbD 1) = true ∧ (s.me.yq 3).length < 16 ∧
    (s.scratchHandle 0 (s.sval 1)).map TEntry.desc = some tdF ∧ tdFmt tdF = 0 ∧ tdBd tdF = false ∧ (s.sval 2).toNat % tdRb tdF % 256 = 0 ∧
      0 ≤ (s.sval 2).toInt ∧ (s.sval 2).toNat / tdRb tdF + 64 ≤ tdRows tdF ∧ (s.sval 2).toNat % tdRb tdF + 256 ≤ tdRb tdF ∧
    p.sendFree = true ∧ (p.sval 2 + disp p.cur.ent).toNat < 16 ∧ p.inShape (p.vfOf p.cur.cell) ((p.sval 1).toNat % 128) = true := by
  unfold State.granted State.unprefixed State.sources; decide

/-- MatWordsComplete: a tile with room for the image of a mat and of a chain, a chain without steps, and one that takes a step. -/
theorem test_meets_image_completions :
    let s := (with3 { desc := tdBig, stripe := 2, stripes := 10 } (fun st => st.writeS 4 { val := 0x003F0000 }) 5).modCell 0 matCell
    let t := s.modCell 0 (withCh {})
    let x := s.here
    let k := t.chHandle 0 (t.sval 1)
    (∀ u ∈ [s, t], u.granted g0 ∧ u.unprefixed ∧ u.sources [1, 2] ∧ (u.scratchHandle 0 (u.sval 1)).map TEntry.desc = some tdBig ∧
      (u.sval 2 + disp u.cur.ent).toNat = 0) ∧ 32800 ≤ tdSize tdBig ∧ x.strandMode (7 / 4) = true ∧ x.pendingOn [14, 15] true = false ∧
      x.pathFree 7 = true ∧ x.chain = none ∧ (∀ q ∈ [14, 15], (x.acc q).poison = false ∧ (x.acc q).dpoison = false) ∧
    t.here.chain = some {} ∧ ({} : Chain).steps = [] ∧ t.here.rowsBusy = false ∧ ({} : Chain).poison = false ∧ t.here.bankBusy {} = false ∧
      (∀ q, 4 ≤ q → q < 8 → t.here.pathFree q = true) ∧ (∀ q ∈ ({} : Chain).allAccs, (t.here.acc q).poison = false ∧ (t.here.acc q).dpoison = false) ∧
      (t.me.yq 3).length < 16 ∧ t.sources [1, 1, 4] ∧ ({} : Chain).busy ≤ t.now ∧ t.sval 4 &&& 0xFFFFFFFFFE80F000 = 0 ∧ k.isSome = true ∧
      (match k with | some h => stepChecks {} h h ((t.sval 4).toNat % 4096) ((t.sval 4).toNat / 65536 % 128 + 1) | none => some 0) = none := by
  unfold State.granted State.unprefixed State.sources; intro s t x k; refine ⟨by decide, by decide, by decide, by decide, by decide, by decide, by decide, by decide, by decide, by decide, by decide, by decide, ?_⟩
  refine ⟨by intro q h1 h2; have : ∀ q, q < 8 → t.here.pathFree q = true := by decide
             exact this q h2, by decide⟩

/-- StreamAndTorusStepsComplete: a stream whose registers await nothing and of which nothing is in flight, a semaphore, a barrier object, a seat for an
operation; a prefix. -/
theorem test_meets_stream_completions :
    let h := handleVal 7 0 0 3
    let s0 := (stream h 1).modCell 0 (fun x => x.modEntry 3 (fun _ => { desc := td0, stripe := 2, stripes := 10, used := true, gen := 7 }))
    let s := s0.modCell 0 (fun x => x.entryWrite (x.entry 3) 0 (le8 0x0000000200002001))
    s.cur.ent.pfx = none ∧ s.fpending 3 = false ∧ s.fpending 1 = false ∧ s.fpending 2 = false ∧ s.streamOps 0 = [] ∧ 1 ≤ (2 : BitVec 6).toInt ∧
      (s.flume 0).loops = [] ∧ (tget 0 (s.flume 0).regs 2).toNat % 2 ^ 32 ≠ 0 ∧ (s.flume 0).launch = some 1 ∧ s.resolve (s.vfOf 0) 3 = some 7 ∧
      (2 : BitVec 2) ≠ 3 ∧ (4 : BitVec 3).toNat < 5 ∧ (s.cellHandle 0 h).isSome = true ∧
      (s.cellHandle 0 h).map (fun e => s.performed ((s.flume 0).cover.getD (s.cover (dieOf 0) (objectScope 0 e)))) = some true ∧
      s.fillOk (s.objectLines 0 h ((tget 0 (s.flume 0).regs 4).toNat : Int)) = true ∧
      isOk (s.barrierAt 0 h ((tget 0 (s.flume 0).regs 4).toNat : Int) (if tget 0 (s.flume 0).regs 3 = 0 then 1 else 0) (tget 0 (s.flume 0).regs 3).toInt) = true ∧
      (s.cell 0).vf.isSome = true ∧ s.fops 0 < 16 ∧ s.svmFull 0 0x10000 = false ∧ (at0 id).me.pfx = none := by
  decide

/-- StreamAndTorusStepsComplete: a strand and a stream that fetch, a launch whose stream starts. -/
theorem test_meets_fetch_completions :
    let s0 := paged 0xF000000000050000 id
    let t : Table Byte := writeAll s0.mem.home (placed 0x50000 (leBytes 0x20245043 4))
    let s1 : State := { s0 with mem := { views := [(0, t)], home := t } }
    let s := s1.modStrand 0 0 (fun st => { st with pc := 0x10000 })
    let f := s1.modCell 0 (fun c => { c with flume := { launch := some 1, pc := 0x10000 } })
    let h : Share := { total := 3, started := true, stream := .pending }
    let l : Launch := { shares := [(0, h)] }
    let n : State := { at0 id with launches := [(2, l)] }
    (s.cell 0).runs = true ∧ (scAfter (s.cell 0).lastFetch).find? (fun k => (s.fetchable 0 k).isSome) = some 0 ∧
      (match (s.cacheLeaf 0 (s.vfOf 0) (dieOf 0) (s.strand 0 0).pc.toNat).fetchable 0 0 with | some (.ok w) => w == 0x20245043 | _ => false) = true ∧
      (f.cell 0).runs = true ∧ (f.flume 0).launch.isSome = true ∧ (f.flume 0).stopped = false ∧ (f.flume 0).word = none ∧
      (match f.fetchWord 0 (f.flume 0).pc with | .ok w => w == 0x20245043 | .error _ => false) = true ∧ (0x20245043 : Word).extractLsb' 29 3 ≠ 7 ∧
      (n.flume 0).launch = none ∧ tfind 0 l.shares = some h ∧ (n.cell 0).vf = some l.vf ∧ h.started = true ∧ h.stream = .pending := by
  decide

/-- StreamAndTorusStepsComplete: operations of a stream that end, that count a piece, that take a page, a stack and the first step of an allgather. -/
theorem test_meets_operation_completions :
    let ended : FState := ({ kind := .svm, d := 3 } : FState).finish 0
    let due : FState := { fcopy 5 1 with due := some (4, []), desc := (fcopy 5 1).desc.take 56 ++ leBytes (handleVal 7 0 0 3).toNat 4 ++ zeros 4 }
    let s0 := (stream 0 0).modCell 0 (fun x => (x.modEntry 3 (fun _ => { desc := td0, stripe := 2, stripes := 10, used := true, gen := 7 })))
    let s := s0.modCell 0 (fun x => x.entryWrite (x.entry 3) 0 (le8 0x0000000200002001))
    let k := withFop (.flume (kvcp 3 1)) (withKv id)
    let f : FState := { kind := .svm, d := 3, desc := zeros 24 ++ leBytes (handleVal 9 0 1 4).toNat 8 ++ zeros 32 }
    let v0 := (stream 0 0).modLanding 0 4 (fun l => { l with used := true, gen := 9, desc := 0x44000000000FF03F })
    let v : State := { withFop (.flume f) v0 with svmq := [(2, [(0, 9)])] }
    let g : FState := { reduce 0 with desc := [3, 0, 8, 0] ++ leBytes 1 4 ++ leBytes 0x10000 8 ++ zeros 24 ++ leBytes 2 4 ++ zeros 4 ++ leBytes 7 4 ++ zeros 12 }
    let c := withFop (.flume g) (inPod (paged 0xF000000000050000 id))
    (∀ x ∈ [(ended, withFop (.flume ended) s), (due, withFop (.flume due) s), (kvcp 3 1, k), (f, v), (g, c)], (x.2.findOp 0 9).map Op.body = some (.flume x.1) ∧
      (x.2.findOp 0 9).map Op.id = some 9) ∧
    ended.code = some 0 ∧ due.code = none ∧ (s.cell 0).closed = false ∧ due.due = some (4, []) ∧ s.performed [] = true ∧
      isOk (s.barrierAt 0 due.barrier.1 due.barrier.2 0 (-4)) = true ∧ s.fillOk (s.objectLines 0 due.barrier.1 due.barrier.2) = true ∧
      (k.cell 0).closed = false ∧ (c.cell 0).closed = false ∧ c.refusalFor 9 = none ∧
    (kvcp 3 1).code = none ∧ (kvcp 3 1).kcOp = 3 ∧ (kvcp 3 1).piece < (kvcp 3 1).kcCount ∧
      (match k.seqLive (k.vfOf 0) (kvcp 3 1).kcSeq with
       | .ok e => !e.lacks ((kvcp 3 1).kcSlot 0) ((kvcp 3 1).kcPage 0) && found (k.kvFind 0 e.root (kvKey ((kvcp 3 1).kcSlot 0) ((kvcp 3 1).kcPage 0))) == 1
       | .error _ => false) = true ∧
    f.code = none ∧ v.svmNext 2 = some (0, 9) ∧
      (match State.svmServe { v with svmq := tset [] v.svmq 2 ((tget [] v.svmq 2).filter (fun x => x != (0, 9))), svmLast := tput 2 (v.vfOf 0) v.svmLast } 0 f with
       | .moved .. => true | _ => false) = true ∧
    g.code = none ∧ (g.coll.map (fun x => x.step)) = some 0 ∧ g.clOp = 3 ∧ (c.ownPlace (c.vfOf 0) 0).isSome = true ∧ c.answerFor 9 = none ∧
      (c.collPackets (atX 0) g.clTag).length = 0 ∧ c.ownPlace (c.vfOf 0) 0 = some (atX 0) ∧ isOk (c.collInput 0 g) = true := by
  decide

/-- StreamAndTorusStepsComplete: a ring piece that arrives and one at its landing; the notices of this package and of another. -/
theorem test_meets_torus_completions :
    let land : BitVec 32 := (handleVal 9 0 1 4).truncate 32
    let p : Packet := { src := atX 1, dst := atX 0, id := 6, body := .ring land 0 [1, 2, 3, 4] none }
    let s0 := (inPod (at0 id)).modLanding 0 4 (fun l => { l with used := true, gen := 9, desc := 0x44000000000FF03F })
    let s : State := { s0 with rings := [p] }
    let dst : End := { space := 1, base := land.zeroExtend 64 }
    s.pod.isSome = true ∧ s.isOwn p.dst = true ∧ s.answersNak p.dst = false ∧ s.hasPeer p.dst.vf.toNat (placeBits p.src) = true ∧ s.rings = p :: [] ∧
      (s.cell p.dst.cell.toNat).vf = some p.dst.vf.toNat ∧ hdLvl (land.zeroExtend 64) = 1 ∧ s0.fillOk (s0.endLines 0 dst 0 4) = true ∧
      isOk (s0.endWrite 0 dst 0 [1, 2, 3, 4]) = true ∧ s.isOwn (atX 1) = false ∧ 0 < 12 ∧ s.ownPlace 0 0 = some (atX 0) := by
  decide

/-- RequestAndItemStepsComplete: operations at their end: data that have come, late and in time, an error, a store, a message, a launch, a tile load. -/
theorem test_meets_request_completions :
    let late (b : OpBody) : State := { (inFlight b).modCell 0 (fun x => { x with frozenOn := [9] }) with wall3 := 3000000 }
    ([OpBody.timedS 3 (some 5) false, .store, .msg true, .launch 64 [] true, .sload (.t 3 {}) none [] [] none].all (fun b => timed b none) &&
      timed (.timedS 3 (some 5) true) (some (Code.page, 64)) &&
      [OpBody.timedS 3 (some 5) false, .store].all (fun b => let s := late b
        (s.cell 0).frozenOn.contains 9 && !(s.cell 0).closed && decide ((s.cell 0).frozenAt + 3000000 ≤ s.wall3) && decide ((s.findOp 0 9).map (fun o => (o.body, o.err, s.behindLate 0 o)) =
          some (b, none, false)) && decide ((s.strand 0 0).trap = none) && !(s.strand 0 0).handler)) = true ∧ (3 : BitVec 6) ≠ 0 ∧ isQ 3 = false := by
  decide

/-- RequestAndItemStepsComplete: a strand's oldest operation at its end: a granted wait, a change of the map, a fence, a barrier wait that has seen its
phase pass, one that registers. -/
theorem test_meets_wait_completions :
    let r : Op := { id := 9, sc := 0, eng := 4, ent := {}, issued := 0, due := 0, body := .barWait 1 5 1 0 0 true false false, ops := [handleVal 7 0 2 3] }
    let s0 := (with3 { desc := td0 + 0x8000000000000000, peer := { target := handleVal 1 1 0 5 } } id).modCell 0 (fun x => { x with ops := [r] })
    let s := s0.modCell 1 (fun x => x.modEntry 5 (fun _ => { used := true, gen := 1, desc := td0, stripe := 1, stripes := 10 }))
    (∀ b ∈ [OpBody.semWait 3 1 true, .smap 0 3 0x8007 false, .fence [] none, .barWait 1 3 0 0 0 true true true], let t := inFlight b
      (t.ops 0).map (fun o => (o.body, o.sc, o.id)) = [(b, 0, 9)] ∧ (t.ops 0).map Op.due = [0] ∧ 0 ≤ (t.cell 0).time ∧ (t.vf 0).live = true ∧
        smV (t.semEntry 0 3) = false ∧ t.performed [] = true ∧ t.env.slow.contains 9 = false) ∧
    s.ops 0 = [] ++ r :: [] ∧ s.findOp 0 9 = some r ∧ r.due ≤ (s.cell 0).time ∧ s.remoteWaiters 1 < 32 ∧
      isOk (s.ownerEntry ((s.cell 0).entry (hdIdx (r.ops.getD 0 0))).peer 0 16) = true := by
  decide

/-- RequestAndItemStepsComplete: peer requests at their owner and an atomic at its home. -/
theorem test_meets_owner_completions :
    let p : Peer := { target := handleVal 1 1 0 5 }
    let w := asks (.peerWrite p 8 [1, 2, 3, 4, 5, 6, 7, 8]) .store
    let a := asks (.ratom p 4 8 1 2) (.timedS 8 none false)
    let m := paged 0xF000000000050000 id
    let g : State := { inFlight (.timedS 8 none false) 64 none (some (.gatom 4 0x10000 1 2)) with mem := m.mem, vfs := m.vfs }
    (∀ s ∈ [w, a], (s.findAny 9).map (fun x => (x.1, s.reqWaits x.1 x.2)) = some (0, false) ∧ isOk (s.ownerEntry p 8 8) = true) ∧
      (match w.ownerEntry p 8 8 with
       | .ok e => (fillMove w.cyc (w.cell (hdCell p.target)).fill [] (withData (partsOf e.desc e.base 8 8) [1, 2, 3, 4, 5, 6, 7, 8])).2.1.isEmpty
       | .error _ => false) = true ∧
      (a.cell (hdCell p.target)).entryPoisoned ((a.cell 1).entry 5) 8 8 = false ∧ (g.findAny 9).map (fun x => (x.1, x.2.req)) = some (0, some (.gatom 4 0x10000 1 2)) ∧
      (match g.pages (some 0) (g.vfOf 0) (dieOf 0) 0x10000 8 .at with
       | .ok pg => pg.all (fun z => match z.2 with | .frame _ => true | _ => false) && paOf pg 0x10000 == some 0x50000
       | .error _ => false) = true ∧ g.mem.poisoned 0x50000 = false ∧ g.wordHeld 0x50000 = false := by
  decide

/-- RequestAndItemStepsComplete: a sleep that ends, a halted strand, a report, a message for a dormant context, a handler entered from a trap. -/
theorem test_meets_strand_completions :
    let z := at0 (fun st => { st with sleepEnd := some 0 })
    let h := at0 (fun st => { st with halted := true })
    let r := at0 (fun st => { st with reports := [{ code := Code.flume, taddr := 64, eng := 6 }] })
    let m : Msg := { handler := 64, payload := [5] }
    let d := ((at0 id 0).modStrand 0 1 (fun st => { st with st := .dormant, armed := 64 })).modCell 0 (fun x => { x with time := 1, msgs := [m] })
    let tr : Trap := { at' := 0, code := Code.illegal, taddr := 8, fpc := 8, eng := 1, ready := some 3 }
    let e := (at0 (fun st => { st with trap := some tr, tvec := 4, tscr := 0x8000030000 })).modCell 0 (fun x => { x with time := 4 })
    let w := (at0 (fun st => { st with trap := some { tr with framed := some 0 }, tvec := 4, tscr := 0x8000030000 })).modCell 0 (fun x => { x with time := 68 })
    (z.strand 0 0).sleepEnd = some 0 ∧ 0 ≤ (z.cell 0).time ∧ (z.strand 0 0).trap = none ∧ (h.strand 0 0).halted = true ∧ quiet (h.cell 0) 0 = true ∧
      (r.strand 0 0).reports = { code := Code.flume, taddr := 64, eng := 6 } :: [] ∧ (r.strand 0 0).st = .running ∧ (r.strand 0 0).handler = false ∧
      (r.strand 0 0).trap = none ∧ (r.modStrand 0 0 (fun st => { st with queues := [(0, [{ word := 0 }])] })).reachesB 0 0 = true ∧ (d.strand 0 1).st = .dormant ∧ (d.strand 0 1).armedAt < (d.cell 0).time ∧ (d.cell 0).runs = true ∧
      (d.strand 0 1).swStop = false ∧ (d.cell 0).msgs = m :: [] ∧ m.handler = (d.strand 0 1).armed ∧ (∀ k, k < 1 → (d.strand 0 k).st ≠ .dormant) ∧
      (e.strand 0 0).trap = some tr ∧ (e.strand 0 0).handler = false ∧ (e.strand 0 0).halted = false ∧ entryReady (e.cell 0) 0 = true ∧
      (e.cell 0).frozenOn = [] ∧ 3 < (e.cell 0).time ∧ tr.framed = none ∧ (e.strand 0 0).vectorsOk = true ∧ (w.cell 0).frozenOn = [] ∧
      (w.strand 0 0).trap = some { tr with framed := some 0 } ∧ 3 + 65 ≤ (w.cell 0).time ∧ frameStored (w.cell 0) 0 = true := by
  decide

/-- RequestAndItemStepsComplete: the frame of a trap, which the management window takes. -/
theorem test_meets_frame_completions : ∃ w t,
    let tr : Trap := { at' := 0, code := Code.illegal, taddr := 8, fpc := 8, eng := 1, ready := some 3 }
    let e := (at0 (fun st => { st with trap := some tr, tvec := 4, tscr := 0x8000030000 })).modCell 0 (fun x => { x with time := 4 })
    e.writeVa (some 0) (e.vfOf 0) (dieOf 0) (e.strand 0 0).tscr.toNat ((e.strand 0 0).frame tr) = .ok (w, t) := by
  let tr : Trap := { at' := 0, code := Code.illegal, taddr := 8, fpc := 8, eng := 1, ready := some 3 }
  let e := (at0 (fun st => { st with trap := some tr, tvec := 4, tscr := 0x8000030000 })).modCell 0 (fun x => { x with time := 4 })
  obtain ⟨r, hr⟩ := State.writeVa_mgmt e (some 0) 0 0x8000030000 ((e.strand 0 0).frame tr) (by decide) (by decide +kernel) (by decide +kernel)
  exact ⟨r.1, r.2, hr⟩

/-- RequestAndItemStepsComplete: a message, a signal and a wait that reach their target; a launch queue that is polled and one that starts a launch, an
overflow list; a cancellation without a launch. -/
theorem test_meets_arrival_completions :
    let m : Msg := { op := 9, cell := 0, sc := 0, target := 1, handler := 0x1000, payload := [3] }
    let w : WaitReq := { ps := 7, w := { cell := 0, unit := 0, op := 9, vf := 0, v := 3, n := 3 } }
    let s : State := { withSem id with msgs := [m], sigs := [{ ps := 7, n := 1 }], waits := [w], itemCancels := [{}] }
    let q := withQueue 1 { waiting := [(header 0x1000, 1)] }
    let o := (running { total := 8 }).modVf 0 (fun v => { v with overflow := [(header 0x1000, 0)] })
    s.msgs = m :: [] ∧ s.gateOpen m.target = true ∧ (s.cell m.target).msgs.length < 16 ∧ s.sigs = { ps := 7, n := 1 } :: [] ∧ s.waits = w :: [] ∧
      ({ s with waits := [] } : State).sigCame { ps := 7, n := 1 } = true ∧ ({ s with sigs := [] } : State).semCame w.w.cell 7 w.due = true ∧ s.semReset 7 = false ∧ (s.sem 7).fifo = [] ∧ (s.sem 7).val.toNat < w.w.n ∧ s.nextPoll ≤ s.wall ∧
      (q.lq 0 0).busy = false ∧ (q.lq 0 0).waiting = (header 0x1000, 1) :: [] ∧
      (q.modLq 0 0 (fun y => { y with waiting := [] })).headerOk (Launch.ofHeader 0 (some 0) 1 (header 0x1000)) (header 0x1000) = true ∧
      (o.vf 0).overflow = (header 0x1000, 0) :: [] ∧ o.deviceLaunches 0 < 64 ∧ (s.itemCancels.map (fun k => (k.stopped, k.launch))) = [(none, none)] := by
  decide

/-- RequestAndItemStepsComplete: a share that ages and one that is over, a launch that is, a handle and a landing to be freed, a write for another die, a
frame to give back, a demand-zero page. -/
theorem test_meets_share_completions :
    let h : Share := { total := 8, started := true, next := 8, finished := 8 }
    let a : Share := { total := 8, started := true }
    let s := running h
    let g := (running a).modCell 0 (fun x => { x with time := 4096 })
    let c : State := { at0 id with launches := [(2, { Launch.ofHeader 0 none 0 (header 0x1000) with shares := [(0, { h with reported := true })] })] }
    let k := (with3 { desc := td0, refused := true } id).modCell 0 (fun x =>
      { x with ops := [{ id := 9, sc := 0, eng := 4, ent := {}, issued := 0, due := 0, body := .hfree (.scratch 0 3) }] })
    let d := (at0 id).modLanding 0 4 (fun l => { l with used := true, refused := true })
    let w : GWrite := { id := 5, die := 0, num := 1, deps := [0, 0, 0, 0], todo := [1, 2, 3], bytes := [(64, 7)] }
    let f : State := { at0 id with mem := { flight := [w] } }
    let z := (paged 0x7400000000000000 id).modVf 0 (fun v => { v with free := [(4, 100)], held := 0, returning := [9] })
    ((s.launchAt 2).map (fun l => (l.drops, tfind 0 l.shares)) = some ([], some h) ∧ h.next = h.total ∧ h.finished = h.total ∧ h.reported = false ∧ h.stream = .none) ∧
    ((g.launchAt 2).map (fun l => tfind 0 l.shares) = some (some a) ∧ a.next < a.total ∧ a.age < 7 ∧ a.startTime + 4096 * (a.age + 1) ≤ (g.cell 0).time) ∧
    ((c.launchAt 2).map Launch.reported = some true ∧ c.holdsHandles 2 0 = false ∧ (c.launchAt 2).map (fun l => c.performed l.cover) = some true) ∧
    (((k.cell 0).entry 3).refused = true ∧ (k.freeing (.scratch 0 3)).map (fun x => (x.1, x.2.due)) = some (0, 0) ∧ k.inUse (.scratch 0 3) = false) ∧
    ((d.landing 0 4).refused = true ∧ d.freeing (.landing 0 4) = none ∧ d.inUse (.landing 0 4) = false ∧ d.freeAt (.landing 0 4) ≤ d.cyc) ∧
    (f.mem.flight.find? (fun x => x.id == 5) = some w ∧ f.mem.canEnter 1 w = true) ∧
    (z.vf 0).returning = 9 :: [] ∧ (match z.walkLeaf 0 0 0x10000 with | .ok x => some x | .error _ => none) = some (0x80008, 0x7400000000000000) ∧
      (BitVec.ofNat 64 (leRead z.mem.home 0x80008 8) : Dword) = 0x7400000000000000 ∧ (0x7400000000000000 : Dword).getLsbD 63 = false ∧
      (0x7400000000000000 : Dword).getLsbD 58 = true ∧ (0x7400000000000000 : Dword).getLsbD 59 = false ∧ (z.vf 0).free = (4, 100) :: [] ∧
      (z.vf 0).held < (z.vf 0).cfg.quota ∧ 4 < 128 * sliceFrames := by
  decide

/-- MatTaskAndKvStepsComplete: operations of the mats at their end. -/
theorem test_meets_mat_ends :
    let m : DrainMem := { acc := 3 }
    let c : Staged := { acc := 3, wide := false, x := {}, y := {}, px := 0, py := 0 }
    (∀ b ∈ [OpBody.chunk [c], .mlines false 0 [] [] (.drain [m]), .drainQ 1 [(0, 0)] [m], .drainP [m], .mlines true 0 [] [] (.mrest 7), .mlines true 0 [] [] .chld,
      .che (some 1) [] none], let s := ((inFlight b).modCell 0 (withCh {})).modOp 0 9 (fun o => { o with accs := [0] })
      (s.findOp 0 9).map Op.body = some b ∧ (s.findOp 0 9).map (fun o => (o.id, o.accs, o.due)) = some (9, [0], 0) ∧
        (s.findOp 0 9).map Op.err = some none ∧ (s.findOp 0 9).map Op.req = some none ∧ 0 ≤ (s.cell 0).time ∧ (s.cell 0).runs = true ∧
        ((s.strand 0 0).yq 1).length < 16 ∧ s.env.slow.contains 9 = false ∧ (s.cell 0).chain = some {}) ∧
    (inFlight (.drainP [m])).peerDone 0 9 = true ∧ leRead [] 32768 32 = 0 ∧ leRead [] 1548 4 = ({} : Chain).flagBits ∧ imageWord [] 1536 = ({} : Chain).c ∧
      leRead [] 1552 48 = 0 ∧ ([0] : List Nat) ≠ [] := by
  decide +kernel

/-- MatTaskAndKvStepsComplete: a chain step at its value phase and at its end, a side that the strands claim, a peer addition. -/
theorem test_meets_chain_ends_well :
    let st : ChStep := { op := 9, vs := 0, tv := 0 }
    let s := (inFlight .chainStep).modCell 0 (fun x => { withCh { steps := [st] } x with time := 20 })
    let t := (at0 (fun st => { st with queues := [(5, [{ word := 0xA0400000 }])] }) 5).modCell 0 (fun x => { x with claim := [(0, 0)], time := 1 })
    let q := (inFlight (.drainP [{ acc := 3 }]) 0 none (some (.peerDrain 1 5 0 0))).modCell 1 matCell
    (s.cell 0).chain = some { steps := [st] } ∧ st.started = false ∧ st.vs ≤ (s.cell 0).time ∧ (s.findOp 0 9).map Op.id = some st.op ∧
      st.vs + st.tv + 20 ≤ (s.cell 0).time ∧ st.key.bad = false ∧ st.val.bad = false ∧ ({ steps := [st] } : Chain).poison = false ∧
    (t.cell 0).strandMode 0 = false ∧ t.claimed 0 0 = true ∧ tfind 0 (t.cell 0).sideTask = none ∧ tfind 0 (t.cell 0).claim = some 0 ∧ 0 < (t.cell 0).time ∧
    (q.findAny 9).map (fun x => (x.1, x.2.req)) = some (0, some (.peerDrain 1 5 0 0)) ∧ q.gateOpen 1 = true ∧ (q.cell 1).strandMode (sideOf 5) = true ∧
      dkLo ((q.cell 1).dk 5) = false := by
  refine ⟨rfl, rfl, by decide, by decide, by decide, rfl, rfl, rfl, rfl, by decide, by decide, by decide, by decide, ?_⟩; decide +kernel

/-- MatTaskAndKvStepsComplete: a record that enters into a free slot, a decrement, a task that ages, one that starts, one that a side steals. -/
theorem test_meets_task_completions_of_entry :
    let p : Post := { va := 0x8000030000 }
    let s : State := { withTasks (convert1 0) 0x80000000 [] with posts := [p] }
    let d : State := { withTasks [] 0 [(5, { deps := 1 })] with tdecs := [{ n := 5 }] }
    let t := readyTask (convert1 0)
    let r := withTasks [] 0 [(5, t)]
    let u := ((withTasks [] 0 [(5, readyTask (convert1 0) 1)]).modCell 0 (fun x => { x with time := 64 })).modVf 0
      (fun v => { v with cfg := { v.cfg with shape := 0x0101 } })
    s.posts = p :: s.posts.tail ∧ s.performed p.cover = true ∧ (s.cell p.cell).vf = some p.vf ∧
      (match ({ s with posts := [] } : State).readVa none p.vf (dieOf p.cell) p.va.toNat 64 with
       | .ok raw => (match ({ s with posts := [] } : State).entryCheck p ((p.va.toNat - (s.vf p.vf).cfg.tasks) / 64) raw with
         | .enters t => ((({ s with posts := [] } : State).refreshSlots p.vf t.bh).vf p.vf).freeSlot t.bh == some 0
         | _ => false)
       | .error _ => false) = true ∧
    (d.task 0 5 = some { deps := 1 } ∧ d.tdecs = { n := 5 } :: []) ∧
    (r.task 0 5 = some t ∧ t.ready = some 3 ∧ t.run = none ∧ 4096 * (t.age + 1) + 3 ≤ (r.vf 0).clock ∧ t.prio + t.age < 7 ∧ (r.cell (2 * 0)).vf = some 0 ∧
      (r.refreshSlots 0 0).task 0 5 = some t ∧ (r.refreshSlots 0 0).readyTasks 0 0 = [(5, t)] ∧ (r.refreshSlots 0 0).groupFor 0 t [2 * 0, 2 * 0 + 1] = some (0, 0)) ∧
    ((u.cell 0).vf = some 0 ∧ u.sideFree 0 0 1 = true ∧ u.keptForChain 0 0 = false ∧ tget 0 (u.cell 0).freeSince 1 + 64 ≤ (u.cell 0).time ∧
      u.readyTasks 0 (bhOf 0) = [] ∧ u.busiest 0 = some 1 ∧ u.readyTasks 0 1 = [(5, readyTask (convert1 0) 1)] ∧ (readyTask (convert1 0) 1).kind ≠ 1 ∧
      (readyTask (convert1 0) 1).ties = []) := by
  refine ⟨rfl, rfl, rfl, ?_, ⟨rfl, rfl⟩, ⟨rfl, rfl, rfl, ?_⟩, ?_⟩ <;> decide

/-- MatTaskAndKvStepsComplete: runs with a chunk to issue (test_meets_task_chunks reads its operands), to check and to complete. -/
theorem test_meets_task_completions_of_runs :
    let r : TaskRun := { run0 1 with checked := some 9 }
    let s := (withTasks [] 0 [(5, product 0), (6, { product 0 with run := some (run0 1) }), (7, { product 0 with run := some r })]).modCell 0 (fun x => { x with time := 100 })
    s.task 0 5 = some (product 0) ∧ s.task 0 6 = some { product 0 with run := some (run0 1) } ∧ s.task 0 7 = some { product 0 with run := some r } ∧
    ((∀ q ∈ [run0 0, run0 1, r], s.groupRuns 0 q = true) ∧ (run0 0).free ≤ s.groupTime 0 ∧ (run0 0).checked = none ∧ (product 0).dead = false ∧
      (product 0).kind = 0 ∧ (run0 0).next < (product 0).blocks ∧ (run0 1).last < s.groupTime 0 ∧ (run0 1).checked = none ∧ (product 0).issued (run0 1) = true ∧
      (product 0).mode < 2 ∧ 9 + 72 ≤ s.groupTime 0 ∧ r.writes = [] ∧ s.performed r.cover = true ∧ (product 0).sem = 0xFFFF ∧
      (∀ i, i < 4 → (product 0).succ i = 0xFFFF)) := by
  refine ⟨rfl, rfl, rfl, ?_⟩; decide

/-- MatTaskAndKvStepsComplete: a cancellation of an invalid entry and one whose tasks have stopped; requests at the KV unit: a store to a resident page,
a fork without a free number, the freeing of a sequence with a child. -/
theorem test_meets_kv_completions :
    let s : State := { withTasks [] 0 [] with cancels := [{}] }
    let k (e : OpBody × Req) : State := (withKv id).modCell 0 (fun x => { x with ops := [{ id := 9, sc := 0, eng := 4, ent := {}, issued := 0, due := 0, body := e.1, req := some e.2 }] })
    let w := k (.stk 0, .kvStore false 0x40 0 7)
    s.cancels.map (fun c => (c.stopped, c.sem, c.cell, c.vf, c.branch)) = [(none, none, 0, 0, 0)] ∧ (s.cell 0).vf = some 0 ∧
      (match s.branchEntry 0 (dieOf 0) 0 with | .ok none => true | _ => false) = true ∧
    (∀ e ∈ [(OpBody.stk 0, Req.kvStore false 0x40 0 7), (.kfork 7 none, .kvFork 0), (.store, .kvFree 2)],
      ((k e).findAny 9).map (fun x => (x.1, x.2.id, x.2.req, x.2.body)) = some (0, 9, some e.2, e.1) ∧ (((k e).ops 0).map Op.id) = [9] ∧
      ((k e).kvPending 0).map (fun x => x.2.id) = [9]) ∧
    (match w.seqLive 0 (kvSeq 0x40) with
     | .ok e => decide (kvSlot 0x40 < e.nslot) && decide (64 * kvCb 0x40 < e.d) && decide (e.frz ≤ kvPos 0x40) &&
         found (w.kvFind 0 e.root (kvKey (kvSlot 0x40) (kvPos 0x40 / 64))) == 1 && isOk (w.seqWrite 0 (kvSeq 0x40) { e with len := max e.len (kvPos 0x40 + 1) })
     | .error _ => false) = true ∧
    (0 : Dword).extractLsb' 52 11 = 0 ∧ (0 : Dword).extractLsb' 24 8 = 0 ∧ (2 : Dword).extractLsb' 24 40 = 0 ∧
      (match (withKv id 4).seqLive 0 0 with | .ok e => e.depth != 4 | .error _ => false) = true ∧
      (match (withKv id 4).freeSeq 0 (((withKv id 4).vf 0).cfg.nseq - ((withKv id 4).vf 0).cfg.nroot) ((withKv id 4).vf 0).cfg.nroot with | .ok none => true | _ => false) = true ∧
      (match (withKv id).seqLive 0 2 with | .ok e => e.nchild != 0 && isOk ((withKv id).seqWrite 0 2 { e with dead := true }) | .error _ => false) = true := by
  refine ⟨by decide, by decide, by decide, ?_, by decide, by decide, by decide, by decide, by decide, by decide, by decide⟩; decide

/-- DeviceStepsComplete: commands on a tenant with arguments that they take (CREATE and QUOTE: test_meets_create_with_a_seed, test_meets_quote; POD:
test_meets_device_commands), a slot that is taken. -/
theorem test_meets_command_completions :
    let w := cmd 4 5 [1, 7]
    let q := cmd 7 5 (leBytes 5 4)
    let b := cmd 12 5 (leBytes 4095 4)
    let l := cmd 14 5 [0]
    let c := sched ([0, 0, 0, 0] ++ leBytes 100 4 ++ leBytes 10 4 ++ [7, 5])
    let t : Table Byte := writeAll [] (placed 128 (1 :: (slotOf 7 5 []).drop 1))
    let m : State := { State.reset with mem := { views := [(0, t)], home := t } }
    (∀ n ∈ [2, 3, 5, 6, 8], (cmd n 5 []).commands 0 n = true ∧ (cmd n 5 []).tenant (cmd n 5 []).mbVf = true ∧ (cmd n 5 []).inReset (cmd n 5 []).mbVf = false ∧
      (cmd n 5 []).mgmt.begun = false ∧ (cmd n 5 []).arg 16 1 ≤ 63) ∧
    (w.commands 0 4 = true ∧ w.tenant w.mbVf = true ∧ w.inReset w.mbVf = false ∧ w.arg 16 1 ∈ shapeBhs (w.vf w.mbVf).cfg.shape ∧ w.arg 17 1 ≤ 7 ∧ w.arg 24 8 = 0 ∧
      w.windowBusy (w.arg 16 1) (w.arg 17 1) = false) ∧
    (q.commands 0 7 = true ∧ q.arg 16 4 ≤ (q.vf q.mbVf).listLen ∧ (q.vf q.mbVf).held ≤ q.arg 16 4) ∧
    (b.commands 0 12 = true ∧ b.arg 16 4 < 4096 ∧ (tget {} b.qps (b.arg 16 4)).vf = none) ∧
    (l.commands 0 14 = true ∧ l.arg 17 7 = 0 ∧ l.arg 16 1 < 9 ∧ l.arg 16 1 ≤ (l.vf l.mbVf).cfg.nlq ∧ l.mgmt.begun = false) ∧
    (c.commands 0 13 = true ∧ c.arg 17 3 = 0 ∧ c.arg 16 1 = 0 ∧ c.arg 20 4 = 100 ∧ c.arg 24 4 = 10 ∧ (c.vf c.mbVf).cfg.shape.toNat = 0x0110 ∧
      (∀ v ∈ c.schedRot, v ∈ (c.group 0x0110).rotation) ∧ c.schedRot.Nodup ∧ c.schedRot.length = (c.group 0x0110).rotation.length) ∧
    ((sched [1]).mgmt.waitGroup = none ∧ 1 < ((sched [1]).group 0x0110).rotation.length ∧ ((sched [1]).group 0x0110).switch = none ∧
      ((sched [1]).group 0x0110).incoming = none ∧ (sched [1]).groupBusy 0x0110 = false ∧ (sched [2]).arg 16 1 = 2) ∧
    ((cmd 10 0 [7]).commands 0 10 = true ∧ (cmd 10 0 [7]).arg 16 1 = 7) ∧
    (m.mgmt.nextPoll ≤ m.wall ∧ m.mgmt.run = none ∧ (tget 0 (m.mem.view 0) (128 * 1)).getLsbD 0 = true ∧
      (∀ k, k < 1 → (tget 0 (m.mem.view 0) (128 * k)).getLsbD 0 = false) ∧ recField (bytesAt (m.mem.view 0) 128 128) 14 2 = 0 ∧
      knownCommand (bytesAt (m.mem.view 0) 128 128) = true) := by
  refine ⟨by decide, by decide, by decide, by decide, by decide, by decide, by decide, by decide, ?_⟩; decide

/-- DeviceStepsComplete: a bulkhead of its VF's shape, one in reset, the return of power, a partition reset that is due, a dormant strand that is asked to
stop, a cell that closes, and each step of a switch. -/
theorem test_meets_device_completions :
    let s := (cmd 7 5 []).modCell 2 (fun x => { x with vf := some 5 })
    let r := (State.reset.modBh 1 (fun b => { b with resetEnd := some 5 })).modVf 0 (fun v => { v with presetDue := true })
    let d := (at0 id).modStrand 0 1 (fun st => { st with swReq := true, st := .dormant })
    let c := (at0 id).modCell 0 (fun x => { x with dl := 9 })
    let g := (sched []).modGroup 0x0110 (fun g => { g with nextTick := 0 })
    let w : Switch := { out := 5, inn := 7, deadline := 0 }
    let n := switching w
    let z := switched { w with saved := [0] }
    let y := switched { w with begun := [(0, 0)] }
    let p : State := { State.reset with boot := { power := false } }
    ((s.cell (2 * 1)).vf = some 5 ∧ 1 ∈ shapeBhs (s.vf 5).cfg.shape ∧ 8 * 7 < 128 * sliceFrames * frameBytes) ∧
    ((r.bh 1).resetEnd.isSome = true ∧ (r.bh 1).held = false ∧ (r.vf 0).presetDue = true ∧ p.boot.power = false) ∧
    ((d.strand 0 1).swReq = true ∧ (d.strand 0 1).swStop = false ∧ (d.strand 0 1).trap = none ∧ (d.strand 0 1).st = .dormant) ∧
    ((c.cell 0).dl ≠ 0 ∧ (c.cell 0).closed = false ∧ (c.cell 0).vf.isSome = true) ∧
    (2 ≤ (g.group 0x0110).rotation.length ∧ (g.group 0x0110).next = none ∧ (g.group 0x0110).nextTick ≤ g.wall ∧ (g.group 0x0110).switch = none ∧
      g.groupBusy 0x0110 = false) ∧
    ((n.group 0x0110).switch = some w ∧ (groupCells 0x0110).filter (fun c => dieOf c == 0) ≠ [] ∧ 0 ∉ w.saved ∧ n.wall ≤ w.deadline ∧
      (∀ c ∈ (groupCells 0x0110).filter (fun c => dieOf c == 0), n.settled c = true) ∧ w.deadline ≤ n.wall ∧ (∃ d ∈ groupDies 0x0110, d ∉ w.saved) ∧
      n.misses w.out < 2) ∧
    ((y.group 0x0110).switch = some { w with begun := [(0, 0)] } ∧ tfind 0 ({ w with begun := [(0, 0)] } : Switch).begun = some 0 ∧ 0 ≤ y.wall ∧
      ∀ c ∈ (groupCells 0x0110).filter (fun c => dieOf c == 0), y.settled c = true ∧ y.copied 5 c = true) ∧
    (z.group 0x0110).switch = some { w with saved := [0] } ∧ z.saveComplete 0x0110 { w with saved := [0] } = true := by
  refine ⟨by decide, by decide, by decide, by decide, by decide, by decide, by decide, rfl, by decide⟩

/-- DeviceStepsComplete: RDMA operations on a connection of VF0 with its key. -/
theorem test_meets_rdma_completions :
    let s : State := { paged 0xF000000000050000 id with qps := [(1, { vf := some 0 })] }
    s.boot.rom = false ∧ (s.qp 1).err = false ∧ (s.qp 1).vf = some 0 ∧ (s.vf 0).live = true ∧ (s.vf 0).cfg.rkey = 0 ∧ s.inReset 0 = false ∧
      isOk (s.writeVa none 0 (portDie 1) 0x10000 [7]) = true ∧ isOk (s.readVa none 0 (portDie 1) 0x10000 3) = true ∧ 0x10000 % 8 = 0 ∧
      (match s.pages none 0 (portDie 1) 0x10000 8 .at with
       | .ok pg => pg.all (fun e => match e.2 with | .frame _ => true | _ => false) && paOf pg 0x10000 == some 0x50000
       | .error _ => false) = true ∧ s.mem.poisoned 0x50000 = false ∧ s.wordHeld 0x50000 = false := by
  decide

/-- DecodingAndEncodingAgree: a well-formed instruction, its word, and what the word decodes to. -/
theorem test_meets_encoding :
    (Instr.sAdd ⟨true, 1⟩ 5 1 3).WellFormed = true ∧ encode (.sAdd ⟨true, 1⟩ 5 1 3) = some 0x20245043 ∧ decodeWord 0x20245043 = .ok (.sAdd ⟨true, 1⟩ 5 1 3) :=
  ⟨rfl, rfl, rfl⟩

/-- A strand in a handler whose frame is in the management window, where it can be read. -/
def inHandler : State := at0 (fun st => { st with handler := true, tscr := 0x8000010000 }) 0

theorem fld_zeros (n a w : Nat) : fld' (List.replicate n 0#8) a w = 0 := by
  have h (k : Nat) : ofBytes (List.replicate k 0#8) = 0 := by
    induction k with
    | zero => rfl
    | succ k ih => rw [List.replicate_succ]; show (0#8).toNat + 256 * ofBytes (List.replicate k 0#8) = 0; rw [ih]; rfl
  rw [fld', List.drop_replicate, List.take_replicate, h]

theorem allZero_zeros (n a w : Nat) : allZero (List.replicate n 0#8) a w = true := by
  simp [allZero, List.drop_replicate, List.take_replicate]

theorem frameOk_zeros (n : Nat) : frameOk (List.replicate n 0#8) = true := by
  simp [frameOk, frEntryOk, frLoopOk, frSlotOk, frCount, frRep, fld_zeros, allZero_zeros]

theorem frameOk_marked : frameOk (List.replicate 44 0#8 ++ [1]) = false := by decide +kernel

/-- TrapFramesAreSavedAndRestored, b.rfe: a frame of zeros that can be read is accepted, and one whose byte 44 is not zero is refused. -/
theorem test_meets_rfe_frame :
    ∃ f, inHandler.readVa (some 0) (inHandler.vfOf 0) (dieOf 0) inHandler.me.tscr.toNat 10240 = .ok f ∧ frameOk f = true ∧
      frameOk (List.replicate 44 0#8 ++ [1]) = false :=
  ⟨List.replicate 10240 0#8, State.readVa_mgmt_zero inHandler (some 0) 0 0x8000010000 10240 (by decide) (by decide) (by decide) rfl (fun _ => rfl),
    frameOk_zeros _, frameOk_marked⟩

/-- LWordsLeaveRegistersAndMemory: an l.ldk before which no KV request waits. -/
theorem test_meets_kv_frame : ((at0 (two 0x40 0) 4).kvPending 0).length = 0 := by decide

/-- StepRunsTheDecodedInstruction: an engine whose head is a word, one whose head is no instruction, one whose head is a fault marker, and a stream. -/
theorem test_meets_steps :
    let s (ent : Entry) : State := at0 (fun st => { st with queues := [(1, [ent])] })
    let w := s { word := 0x20245043, addr := 64 }
    let x := s { word := 0x00000001 }
    let m := s { marker := some Code.page }
    let f := stream 0 0 (fun y => { y with word := some { word := 0xC0000000 } })
    let z := at0 (fun st => { st with replay := [{ eng := 0, ent := { word := 0 } }], sleepEnd := some 5 })
    w.boot.power = true ∧ (∀ y ∈ [w, x, m], (y.cell 0).runs = true ∧ (y.strand 0 0).mayIssue (y.cell 0).time = true ∧ (y.strand 0 0).trap = none ∧
      tget 0 (y.cell 0).busy 1 ≤ (y.cell 0).time) ∧
    (w.strand 0 0).head 1 = some ({ word := 0x20245043, addr := 64 }, none) ∧
      heldBy (w.cell 0) 0 0 1 (isWriter (.sAdd ⟨true, 1⟩ 5 1 3)) = false ∧ (w.strand 0 0).sleepEnd = none ∧
      (z.strand 0 0).head 0 = some ({ word := 0 }, some { eng := 0, ent := { word := 0 } }) ∧ (z.strand 0 0).sleepEnd.isSome = true ∧
      (x.strand 0 0).head 1 = some ({ word := 0x00000001 }, none) ∧ heldBy (x.cell 0) 0 0 1 false = false ∧
      (m.strand 0 0).head 1 = some ({ marker := some Code.page }, none) ∧ f.flumeReady 0 = some { word := 0xC0000000 } ∧
      (0xC0000000 : Word).extractLsb' 29 3 = 6 ∧ (0xC8000000 : Word).extractLsb' 29 3 = 6 ∧ (0x20245043 : Word).extractLsb' 29 3 ≠ 6 := by
  decide

/-- FetchFillsTheQueues: a strand that fetches a plain word, a prefix, an unguarded jump, a word that blocks fetch, and from no page; none that fetches. -/
theorem test_meets_fetch :
    let s0 := paged 0xF000000000050000 id
    let t : Table Byte := writeAll s0.mem.home (placed 0x50000 (leBytes 0x20245043 4 ++ leBytes 0xE0000005 4 ++ leBytes 0x0043FFFF 4 ++ leBytes 0x01400000 4))
    let s (pc : Dword) : State := ({ s0 with mem := { views := [(0, t)], home := t } }).modStrand 0 0 (fun st => { st with pc := pc })
    let got (pc : Dword) (w : Word) : Bool := match ((s pc).cacheLeaf 0 0 0 pc.toNat).fetchable 0 0 with | some (.ok x) => x == w | _ => false
    ((s 0x10000).cell 0).runs = true ∧ (scAfter ((s 0x10000).cell 0).lastFetch).find? (fun k => ((s 0x10000).fetchable 0 k).isSome) = some 0 ∧
      got 0x10000 0x20245043 = true ∧ got 0x10004 0xE0000005 = true ∧ got 0x10008 0x0043FFFF = true ∧ got 0x1000C 0x01400000 = true ∧
      (match ((s 0x20000).cacheLeaf 0 0 0 0x20000).fetchable 0 0 with | some (.error _) => true | _ => false) = true ∧
      unguarded ⟨false, 0⟩ = true ∧ (∀ k, k < 4 → (((s 0x10000).strand 0 0).lc k).act = false) ∧
      (∀ k ∈ [0, 1, 2, 3], (State.reset.fetchable 0 k) = none) ∧ (State.reset.cell 5).runs = false := by
  decide

/-- StepRunsTheDecodedInstruction and FetchFillsTheQueues: what the words above decode to. -/
theorem test_meets_decoded :
    decodeWord 0x20245043 = .ok (.sAdd ⟨true, 1⟩ 5 1 3) ∧ decodeWord 0x00000001 = .error .reserved ∧ decodeWord 0xC0000000 = .ok (.fLi 0 0) ∧
      decodeWord 0xC8000000 = .error .unassigned ∧ decodeWord 0x0043FFFF = .ok (.bJmp ⟨false, 0⟩ 0x3FFFF) ∧ decodeWord 0x01400000 = .ok (.bRet ⟨false, 0⟩) ∧
      fetchClass (.sAdd ⟨true, 1⟩ 5 1 3) = .plain ∧ fetchClass (.bRet ⟨false, 0⟩) = .block :=
  ⟨rfl, rfl, rfl, rfl, rfl, rfl, rfl, rfl⟩

/-- GuardsAndPrefixes: words of each engine whose guard is false, and prefixed words of each engine that take no prefix. -/
theorem test_meets_guards :
    let s := at0 id 1
    let p := at0 id 2 { pfx := some 5 }
    (∀ i ∈ [Instr.sAdd ⟨false, 1⟩ 5 1 3, .lLds ⟨false, 1⟩ 2 1 2, .mZero ⟨false, 1⟩ 3, .bNop ⟨false, 1⟩, .vFsub ⟨false, 3⟩ 6 2 2], i.WellFormed = true ∧ (encode i).isSome = true) ∧
      (Instr.sAdd ⟨false, 1⟩ 5 1 3).guard = some ⟨false, 1⟩ ∧ guardP s.me s.cur.ent ⟨false, 1⟩ = false ∧ s.cur.replay = none ∧ s.unprefixed ∧
      (Instr.vFsub ⟨false, 3⟩ 6 2 2).guard.isSome = true ∧ p.cur.ent.pfx.isSome = true ∧ p.cur.replay = none ∧
      s.guardNow ⟨false, 1⟩ = false ∧
      ([Instr.bNop g0, .sCmpi g0 0 1 1 3, .vFsub g0 6 2 2, .lHnew g0 3 1 0, .mZero g0 3].map (fun i => (i.WellFormed, (encode i).map (fun w =>
        ((w.extractLsb' 29 3).toNat, (w.extractLsb' 22 7).toNat))))) =
        [(true, some (0, 0)), (true, some (1, 33)), (true, some (2, 1)), (true, some (4, 6)), (true, some (5, 1))] := by
  unfold State.unprefixed; decide

/-- RegistersAndTheirResults: registers of each kind, and results in flight. -/
theorem test_meets_results :
    let a : Pend := { due := 3, eng := 1, ord := 4, w := .s 5 {} }
    let b : Pend := { due := 3, eng := 2, ord := 2, w := .p 1 true }
    isQ 48 = true ∧ isQ 5 = false ∧ (5 : BitVec 6) ≠ 0 ∧ isY 27 = false ∧ isY 28 = true ∧ (at0 id).cur.replay = none ∧ a.late = b.late ∧
      a.before b ≠ b.before a ∧ ({ pend := [a, b] } : Strand).pend = [a, b] ∧ ¬(a.due ≤ 2 ∧ a.eng ≤ 5) := by
  decide

/-- LWordsLeaveRegistersAndMemory and StepKeepsDeviceMemoryCanonical: a load that issues, and a step of the state after reset. -/
theorem test_meets_frames_of_steps :
    (match exec (.lLds g0 2 1 2) (tileAt 128) with | .next _ => true | _ => false) = true ∧ Memory.wf State.reset.mem = true ∧
      (match step State.reset with | .next t => Memory.wf t.mem | _ => false) = true := by
  decide

end Sys2Proof.Tests
end

section
/-! Division, remainder, shifts and rotate of the S engine (R147, R148): what each arithmetic function of the model gives, one lemma for a word
whose sources hold no poison, and from them the two statements. -/

namespace Sys2Proof.Machine

open Sys2Proof

/-! ### S words without poison -/

/-- An S word whose sources are ready and hold no poison gives its function of their values. -/
theorem scalarWord_sound {s : State} {g : Guard} {d : BitVec 6} {rs : List (BitVec 6)} (ok : Bool) (lat occ : Nat) (f : List Dword → Dword)
    (hg : s.granted g) (hp : ok = true ∨ s.unprefixed) (hs : s.sources rs) (hr : (s.popped rs).room d = true) :
    scalarWord ok g d rs lat occ s f = .next (s.gave rs lat occ (.s d { val := f (rs.map s.sval) })) := by
  obtain ⟨hready, hpoison⟩ := hs
  rw [scalarWord_gives ok lat occ f hg hp hready hr, poisoned_sound hpoison, List.map_map]
  rfl

/-! ### Division and remainder (R147) -/

theorem divS_zero (x : Dword) : divS x 0 = BitVec.ofInt 64 (-1) := rfl
theorem remS_zero (x : Dword) : remS x 0 = x := rfl
theorem divU_zero (x : Dword) : divU x 0 = 0xFFFFFFFFFFFFFFFF := rfl
theorem remU_zero (x : Dword) : remU x 0 = x := rfl

theorem divS_of_ne_zero (x : Dword) {y : Dword} (h : y ≠ 0) : divS x y = BitVec.ofInt 64 (x.toInt.tdiv y.toInt) := if_neg h

theorem remS_of_ne_zero (x : Dword) {y : Dword} (h : y ≠ 0) :
    remS x y = BitVec.ofInt 64 (x.toInt - y.toInt * x.toInt.tdiv y.toInt) := if_neg h

theorem divU_of_ne_zero (x : Dword) {y : Dword} (h : y ≠ 0) : divU x y = BitVec.ofNat 64 (x.toNat / y.toNat) := if_neg h

theorem remU_of_ne_zero (x : Dword) {y : Dword} (h : y ≠ 0) : remU x y = BitVec.ofNat 64 (x.toNat % y.toNat) := if_neg h

/-- The quotient 2^63 does not fit in 64 signed bits: it wraps to the dividend. -/
theorem divS_overflow {x y : Dword} (h : y ≠ 0) (hx : x.toInt = -2 ^ 63) (hy : y.toInt = -1) : divS x y = BitVec.ofInt 64 (-2 ^ 63) := by
  rw [divS_of_ne_zero x h, hx, hy]
  decide

theorem remS_overflow {x y : Dword} (h : y ≠ 0) (hx : x.toInt = -2 ^ 63) (hy : y.toInt = -1) : remS x y = 0 := by
  rw [remS_of_ne_zero x h, hx, hy]
  decide

/-! ### Shifts and rotate (R148) -/

theorem shl_eq_mul_pow (x : Dword) (n : Nat) : x <<< n = BitVec.ofNat 64 (x.toNat * 2 ^ n) :=
  BitVec.eq_of_toNat_eq (by rw [BitVec.toNat_shiftLeft, BitVec.toNat_ofNat, Nat.shiftLeft_eq])

theorem shr_eq_div_pow (x : Dword) (n : Nat) : x >>> n = BitVec.ofNat 64 (x.toNat / 2 ^ n) := by
  have hlt : x.toNat / 2 ^ n < 2 ^ 64 := Nat.lt_of_le_of_lt (Nat.div_le_self _ _) x.isLt
  apply BitVec.eq_of_toNat_eq
  rw [BitVec.toNat_ushiftRight, BitVec.toNat_ofNat, Nat.shiftRight_eq_div_pow, Nat.mod_eq_of_lt hlt]

/-- The quotient of an arithmetic shift rounds down, as R148's floor does. -/
theorem sra_eq_div_pow (x : Dword) (n : Nat) : x.sshiftRight n = BitVec.ofInt 64 (x.toInt / 2 ^ n) := by
  have hpow : ((2 ^ n : Nat) : Int) = 2 ^ n := Int.natCast_pow 2 n
  rw [BitVec.sshiftRight, Int.shiftRight_eq_div_pow, hpow]

/-- A rotate left by n moves bit k to bit (k + n) mod 64: past bit 63 the bits come in again at bit 0. -/
theorem rot_moves_bit (x : Dword) {n k : Nat} (hn : n < 64) (hk : k < 64) : (x.rotateLeft n).getLsbD ((k + n) % 64) = x.getLsbD k := by
  rw [BitVec.getLsbD_rotateLeft, Nat.mod_eq_of_lt hn]
  by_cases hwrap : k + n < 64
  · have hhigh : ¬k + n < n := by omega
    rw [Nat.mod_eq_of_lt hwrap, decide_eq_false hhigh, decide_eq_true hwrap, cond_false, Bool.true_and, Nat.add_sub_cancel]
  · have hidx : (k + n) % 64 = k + n - 64 := by omega
    have hlow : k + n - 64 < n := by omega
    have hback : 64 - n + (k + n - 64) = k := by omega
    rw [hidx, decide_eq_true hlow, cond_true, hback]

/-! ### The statements -/

/-- Settles O11: each word gives its function of the two values, whose cases are those of R147. -/
theorem divisionGivesQuotientAndRemainder : Obligations.DivisionGivesQuotientAndRemainder := by
  intro s g d a b hg hp hs hr x y gives edge q
  have word (f : List Dword → Dword) : scalarWord false g d [a, b] 34 32 s f =
      .next (s.gave [a, b] 34 32 (.s d { val := f [x, y] })) := scalarWord_sound false 34 32 f hg (.inr hp) hs hr
  have hdiv : gives (.sDiv g d a b) (divS x y) := (exec_sDiv g d a b s).trans (word _)
  have hrem : gives (.sRem g d a b) (remS x y) := (exec_sRem g d a b s).trans (word _)
  have hdivn : gives (.sDivn g d a b) (divU x y) := (exec_sDivn g d a b s).trans (word _)
  have hremn : gives (.sRemn g d a b) (remU x y) := (exec_sRemn g d a b s).trans (word _)
  refine ⟨fun h0 => ?_, fun h0 hedge => ?_, fun h0 _ => ?_, fun h0 => ?_⟩
  · rw [h0, divS_zero] at hdiv
    rw [h0, remS_zero] at hrem
    rw [h0, divU_zero] at hdivn
    rw [h0, remU_zero] at hremn
    exact ⟨hdiv, hrem, hdivn, hremn⟩
  · obtain ⟨hx, hy⟩ := hedge
    exact ⟨divS_overflow h0 hx hy ▸ hdiv, remS_overflow h0 hx hy ▸ hrem⟩
  · exact ⟨divS_of_ne_zero x h0 ▸ hdiv, remS_of_ne_zero x h0 ▸ hrem⟩
  · exact ⟨divU_of_ne_zero x h0 ▸ hdivn, remU_of_ne_zero x h0 ▸ hremn⟩

/-- Settles O12: each word gives its shift of the first value, by bits 5:0 of the second or by the word's own count. -/
theorem shiftsMoveBits : Obligations.ShiftsMoveBits := by
  intro s g d a b hg hp x n m
  constructor
  · intro hs hr gives
    have word (f : List Dword → Dword) : scalarWord false g d [a, b] 1 1 s f =
        .next (s.gave [a, b] 1 1 (.s d { val := f [x, s.sval b] })) := scalarWord_sound false 1 1 f hg (.inr hp) hs hr
    have hshl : gives (.sShl g d a b) (x <<< n) := (exec_sShl g d a b s).trans (word _)
    have hshr : gives (.sShr g d a b) (x >>> n) := (exec_sShr g d a b s).trans (word _)
    have hsra : gives (.sSra g d a b) (x.sshiftRight n) := (exec_sSra g d a b s).trans (word _)
    have hrot : gives (.sRot g d a b) (x.rotateLeft n) := (exec_sRot g d a b s).trans (word _)
    have hn : n < 64 := Nat.mod_lt _ (by decide)
    exact ⟨shl_eq_mul_pow x n ▸ hshl, shr_eq_div_pow x n ▸ hshr, sra_eq_div_pow x n ▸ hsra, _, hrot, fun k => rot_moves_bit x hn⟩
  · intro hs hr gives
    have word (f : List Dword → Dword) : scalarWord false g d [a] 1 1 s f =
        .next (s.gave [a] 1 1 (.s d { val := f [x] })) := scalarWord_sound false 1 1 f hg (.inr hp) hs hr
    have hshli : gives (.sShli g d a b) (x <<< m) := (exec_sShli g d a b s).trans (word _)
    have hshri : gives (.sShri g d a b) (x >>> m) := (exec_sShri g d a b s).trans (word _)
    have hsrai : gives (.sSrai g d a b) (x.sshiftRight m) := (exec_sSrai g d a b s).trans (word _)
    exact ⟨shl_eq_mul_pow x m ▸ hshli, shr_eq_div_pow x m ▸ hshri, sra_eq_div_pow x m ▸ hsrai⟩

end Sys2Proof.Machine
end
